-- ==== Sys2Proof/Word.lean ====
section
/-! DEFINITION. The word types of the model.

Contents of registers and bytes of memory are bit vectors; counts, indexes and addresses are plain numbers. -/

namespace Sys2Proof

/-- One byte. -/
abbrev Byte := BitVec 8

/-- A 32-bit word, the unit of the Hsiao code of R427. -/
abbrev Word := BitVec 32

/-- A 64-bit word: the widest register of the unit windows but PART_FRONDS. -/
abbrev Dword := BitVec 64

/-- One 16-byte item of the Spore stream (R478). -/
abbrev Item := BitVec 128

end Sys2Proof
end

