-- ==== Sys2Proof/Syntax.lean ====
section
/-! DEFINITION. The commands of the Filene, one constructor per row of spec/opcode_table.json, and their operands.

Field names are the manual's. A descriptor row carries the common header with its program tag (`Issue`) and its body. -/

namespace Sys2Proof

/-- The two sequencers of a frond. -/
inductive SeqSel where
  | fetch | execute
  deriving DecidableEq, Repr, Inhabited

/-- What addresses the banks of a frond's buffer (R120). -/
inductive BankUser where
  /-- The array feed of a sub-array. -/
  | feed (sub : Nat)
  | rhizoid | drain | vector | copy
  /-- The hyphal port. -/
  | port
  deriving DecidableEq, Repr, Inhabited

/-- A cycle in which a descriptor's or an instruction's engine addresses a bank of a frond's buffer that others address in the
same cycle (R119, R120). -/
structure Contest where
  frond : Nat
  others : List BankUser
  deriving DecidableEq, Repr, Inhabited

/-- An error of the array's arithmetic while a tile runs (R156, R157): the tile's row and column of the cell, the block sum,
and the error in units of the sum's lowest place; for 16-bit operands and pieces that of product `item` of the block. -/
structure Upset where
  row : Nat
  col : Nat
  block : Nat
  item : Nat
  error : Int
  deriving DecidableEq, Repr, Inhabited

/-- The stores of a frond that hold words under the Hsiao code (R427). -/
inductive FrondStore where
  | buffer | accumulator | instructions | shapes
  deriving DecidableEq, Repr, Inhabited

/-- An error that has come up in a word of a frond's store: the word's number in the store, and the pattern over its 32 data
and 7 check bits (R427, R428). -/
structure Strike where
  frond : Nat
  store : FrondStore
  word : Nat
  pattern : BitVec 40
  deriving DecidableEq, Repr, Inhabited

/-- What the memory device or the wires show the controller on one access: the error pattern that has come up in the
stored words (R427, R430), and for an HBM4 stack its own report (R432). -/
structure DeviceReport where
  /-- Word index in the unit and error pattern: bits 31–0 data, 38–32 check, 39 address parity. -/
  flips : List (Nat × BitVec 40)
  /-- The stack corrected the unit. -/
  stackCorrected : Bool
  /-- The stack reports it cannot correct the unit. -/
  stackUncorrectable : Bool
  /-- Consecutive interface-parity failures of the read. -/
  parityFails : Nat
  /-- A conversion recheck found a mismatch. -/
  recheckBad : Bool
  deriving DecidableEq, Repr, Inhabited

/-- The descriptor header of R50 and the program tag of R378, with where the descriptor is issued.
`contests` are the cycles in which its engine meets others at a bank (R120), and `cycles` the cycles its
engine works where the manual's tables do not fix them (timing comes from outside the model). -/
structure Issue where
  frond : Nat
  seq : SeqSel
  /-- Header stream_id; 0xFFFF when none. -/
  streamId : Nat
  fence : Bool
  frameEnd : Bool
  /-- Device address of the descriptor. -/
  addr : Nat
  /-- Tag class; 0xF when not guarded. -/
  cls : Nat
  dim : Nat
  origin : Nat
  contests : List Contest
  cycles : Nat
  /-- An error of the array's arithmetic while a tile runs. -/
  upset : Option Upset
  /-- How many of the frond's lane-mode tiles in flight, the oldest first, have made their last serve (R189, R217). -/
  served : Nat
  /-- Signals that reach their semaphores in the cycle of this row, by number (R312). -/
  arriving : List Nat := []
  /-- The frond's regulator withholds tokens from a request in this cycle (R48). -/
  withheld : Bool := false
  /-- Cycles from each hyphal request of a MOVE or MULTICAST to the next one's being ready to issue, the first counted from
  the regulator's last request or the frame's tick edge; 1 where none is given (R319). -/
  gaps : List Nat := []
  /-- Errors that have come up in frond stores (R427). -/
  strikes : List Strike := []
  /-- What the devices show of units of memory that the row reads, by address / 64 (R430, R432). -/
  reports : List (Nat × DeviceReport) := []
  deriving DecidableEq, Repr, Inhabited

/-- MOVE body (R332). -/
structure MoveBody where
  srcAddr : Nat
  srcFrond : Nat
  srcSpace : Bool
  srcRel : Bool
  srcLayout : Nat
  srcSwz : Nat
  dstAddr : Nat
  dstFrond : Nat
  dstSpace : Bool
  dstRel : Bool
  dstLayout : Nat
  dstSwz : Nat
  srcScaleAddr : Nat
  dstScaleAddr : Nat
  shape : Nat
  srcFmt : Nat
  dstFmt : Nat
  numctl : Nat
  padValue : Nat
  unaligned : Bool
  slot4 : Bool
  passes : Nat
  pieceRole : Bool
  scaleSupplied : Bool
  deriving DecidableEq, Repr, Inhabited

/-- MULTICAST body (field map before R320) with its streamed kind_flag. -/
structure MulticastBody where
  srcAddr : Nat
  dstAddr : Nat
  length : Nat
  destMask : BitVec 128
  streamed : Bool
  deriving DecidableEq, Repr, Inhabited

/-- GATHER body (field map before R216). -/
structure GatherBody where
  srcAddr : Nat
  srcStride : Nat
  fmt : Nat
  panel : Nat
  rows : Nat
  scaleAddr : Nat
  cols : Nat
  map : Nat
  scaleKind : Bool
  listAddr : Nat
  listLen : Nat
  swzTileAddr : Nat
  swzUse : Bool
  swzKind : Bool
  deriving DecidableEq, Repr, Inhabited

/-- DENSE_TILE body (field map before R136). -/
structure DenseBody where
  aAddr : Nat
  bAddr : Nat
  fmtA : Nat
  fmtB : Nat
  accMode : Nat
  passes : Nat
  bank : Nat
  accumulate : Bool
  split : Nat
  sub : Nat
  kBlocks : Nat
  rowsValid : Nat
  colsValid : Nat
  aScaleAddr : Nat
  bScaleAddr : Nat
  deriving DecidableEq, Repr, Inhabited

/-- SPARSE_TILE body (field map after R217). -/
structure SparseBody where
  tileAddr : Nat
  fmtW : Nat
  fmtAct : Nat
  panel : Nat
  dir : Bool
  quarter : Nat
  bank : Nat
  accumulate : Bool
  accMode : Nat
  intersect : Bool
  gbUse : Bool
  demote : Bool
  colsValid : Nat
  deriving DecidableEq, Repr, Inhabited

/-- SAMPLED_TILE body (field map before R218). -/
structure SampledBody where
  tileAddr : Nat
  fmtStat : Nat
  fmtSrv : Nat
  panel : Nat
  dir : Bool
  quarter : Nat
  accumulate : Bool
  outW : Bool
  numctl : Nat
  colsValid : Nat
  statAddr : Nat
  statStride : Nat
  statScaleAddr : Nat
  outAddr : Nat
  deriving DecidableEq, Repr, Inhabited

/-- DRAIN body (field map before R145). -/
structure DrainBody where
  outAddr : Nat
  outFmt : Nat
  bank : Nat
  sub : Nat
  split : Nat
  numctl : Nat
  epiOp : Nat
  epiFmt : Nat
  maskGate : Bool
  rowsValid : Nat
  colsValid : Nat
  epiAddr : Nat
  maskAddr : Nat
  outStride : Nat
  outScale : Word
  epiStride : Nat
  outScaleAddr : Nat
  deriving DecidableEq, Repr, Inhabited

/-- VEC body (field map before R163). -/
structure VecBody where
  entry : Nat
  numctl : Nat
  arg1 : Dword
  arg2 : Dword
  arg3 : Dword
  arg4 : Dword
  arg5 : Dword
  arg6 : Dword
  deriving DecidableEq, Repr, Inhabited

/-- UPDATE body (field map before R274). -/
structure UpdateBody where
  policy : Nat
  firstTile : Nat
  tileCount : Nat
  dense : Bool
  phase : Nat
  closeStep : Bool
  gradW48 : Bool
  rescale : Bool
  numctl : Nat
  shardAddr : Nat
  gradAddr : Nat
  healthAddr : Nat
  sumAddr : Nat
  regionAddr : Nat
  count : Nat
  denseCols : Nat
  copyFmt : Nat
  freezePresent : Bool
  deriving DecidableEq, Repr, Inhabited

/-- SEM_WAIT body (field map before R316). -/
structure SemWaitBody where
  target : Nat
  plainSem : Nat
  count : Nat
  deriving DecidableEq, Repr, Inhabited

/-- SEM_SIGNAL body (field map before R316). -/
structure SemSignalBody where
  target : Nat
  holdAll : Bool
  plainSem : Nat
  destFrond : Nat
  count : Nat
  deriving DecidableEq, Repr, Inhabited

/-- TICKET body (field map before R327). -/
structure TicketBody where
  bodyCount : Nat
  counterAddr : Nat
  deriving DecidableEq, Repr, Inhabited

/-- MASK_PRUNE body (field map before R251). -/
structure PruneBody where
  policy : Nat
  firstTile : Nat
  tileCount : Nat
  method : Nat
  perRow : Bool
  param : Nat
  cutAddr : Nat
  deriving DecidableEq, Repr, Inhabited

/-- MASK_REGROW body (field map before R251). -/
structure RegrowBody where
  policy : Nat
  firstTile : Nat
  tileCount : Nat
  scoreB32 : Bool
  perRow : Bool
  fillAware : Bool
  fillBand : Nat
  k : Nat
  scoreAddr : Nat
  deriving DecidableEq, Repr, Inhabited

/-- MASK_COMMIT body (field map before R251). -/
structure CommitBody where
  policy : Nat
  firstTile : Nat
  tileCount : Nat
  freezeOp : Nat
  fillAware : Bool
  freezeSrc : Nat
  deriving DecidableEq, Repr, Inhabited

/-- REDUCE_SEND body (field map before R502). -/
structure SendBody where
  srcAddr : Nat
  fmt : Nat
  length : Nat
  dstChip : Nat
  dstPartition : Nat
  channel : Nat
  withHealth : Bool
  healthAddr : Nat
  deriving DecidableEq, Repr, Inhabited

/-- REDUCE_RECV body (field map before R503). -/
structure RecvBody where
  dstAddr : Nat
  fmt : Nat
  length : Nat
  op : Nat
  srcChip : Nat
  srcPartition : Nat
  channel : Nat
  withHealth : Bool
  healthAddr : Nat
  localAddr : Nat
  outAddr : Nat
  outFmt : Nat
  numctl : Nat
  deriving DecidableEq, Repr, Inhabited

/-- The operand fields of one vector instruction (instruction field map). -/
structure VFields where
  d : Nat
  a : Nat
  b : Nat
  c : Nat
  p : Nat
  pn : Bool
  rm : Nat
  t : Nat
  imm : Int
  /-- No field of the instruction: the cycles in which its accesses meet other engines at a bank (R120). -/
  contests : List Contest := []
  /-- No field of the instruction: errors that have come up in frond stores (R427). -/
  strikes : List Strike := []
  deriving DecidableEq, Repr, Inhabited

/-- A packet of a Pliund frame: the header of R491 and the payload bytes. -/
structure Packet where
  dstChip : Nat
  srcChip : Nat
  dstEpoch : Nat
  srcEpoch : Nat
  dstPartition : Nat
  srcPartition : Nat
  kind : Nat
  hops : Nat
  channel : Nat
  units : Nat
  offset : Nat
  payload : List Byte
  /-- The 64-byte units of the payload that are poisoned (R434). -/
  poison : List Nat := []
  deriving DecidableEq, Repr, Inhabited

/-- A Pliund frame as it arrives: its link sequence, the acknowledgement of the reverse direction, whether CRC and
FEC passed (R485, R487), whether the conversion recheck of R486 failed, how many codewords the FEC corrected, and
its packet. -/
structure PlnFrame where
  linkSeq : Nat
  ack : Nat
  /-- The CRC-64 of its trailer, as received. -/
  crc : BitVec 64
  /-- Its FEC codewords are correctable. -/
  fecOk : Bool
  recheckBad : Bool
  fecCorrected : Nat
  /-- Link sequences of frames that this port has sent whose words failed the recheck on sending (R486). -/
  sentBad : List Nat
  packet : Packet
  deriving DecidableEq, Repr, Inhabited

/-- A request at a store: one 64-byte unit (memory) or bytes of one 128-byte line (bank) with its byte mask. -/
structure StoreReq where
  /-- Partition, or 0xFF for the host and the firmware. -/
  partition : Nat
  epoch : Nat
  /-- Stream ID, or service code with bit 12 set for a service request (R301). -/
  owner : Nat
  write : Bool
  addr : Nat
  data : List Byte
  mask : List Bool
  /-- Errors and poison in its data words as they are carried: word of the data and pattern (R427, R433). -/
  flips : List (Nat × BitVec 40) := []
  /-- Cycle of arrival at the port. -/
  arrived : Nat
  /-- The unit that issued the access. -/
  cls : Nat
  index : Nat
  /-- The descriptor the access belongs to. -/
  descAddr : Nat
  deriving DecidableEq, Repr, Inhabited

/-- A claim or a completion of a frond at an atomic unit (R323). -/
structure AtomicReq where
  completion : Bool
  frond : Nat
  deriving DecidableEq, Repr, Inhabited

/-- A hyphal packet at a hop (R299, R300). -/
structure HyphalPkt where
  link : Nat
  number : Nat
  checkOk : Bool
  crossesBridge : Bool
  /-- The link on which the hop sends it on, and its number there; none at its destination. -/
  next : Option (Nat × Nat)
  req : StoreReq
  deriving DecidableEq, Repr, Inhabited

/-- How a read of TICK_COUNT reaches BAR0 (R34). -/
inductive CountRead where
  | low32 | high32 | both64
  deriving DecidableEq, Repr, Inhabited

/-- The reference inputs of R607. -/
inductive Reference where
  | system | cxl | pliund
  deriving DecidableEq, Repr, Inhabited

/-- Kinds of DDR5 module (R418). -/
inductive DimmKind where
  | registered | unbuffered | loadReduced | multiplexedRank
  deriving DecidableEq, Repr, Inhabited

/-- The organisation of a DIMM as its SPD gives it (table of DIMM types): device width in bits, device density in Gb, ranks, the
height of a rank's 3DS stack, and the module's data width in bits, ECC included. -/
structure Dimm where
  kind : DimmKind
  ecc : Bool
  width : Nat
  density : Nat
  ranks : Nat
  height : Nat
  lanes : Nat
  capacityGiB : Nat
  deriving DecidableEq, Repr, Inhabited

/-- Results of bringing up one stack or channel (R439): whether it passes steps 1 to 3, the DDR5 rate trained, and the DIMM that a
channel's SPD read found. -/
structure Training where
  present : Bool
  pass : Bool
  rate : Nat
  dimm : Dimm
  deriving DecidableEq, Repr, Inhabited

/-- What the host port offers when the link trains (R444, R445): 256-byte flits, the rate in GT/s and the width. -/
structure HostPort where
  flit256 : Bool
  rate : Nat
  width : Nat
  deriving DecidableEq, Repr, Inhabited

/-- The two kinds of traffic that IDE protects (R447): CXL.cache and CXL.mem together, and CXL.io. -/
inductive IdeLink where
  | cacheMem | io
  deriving DecidableEq, Repr, Inhabited

/-- IDE_KM messages (R447; PRESUMED from the PCI Express standard, log entry 141): the link, the stream and the direction
received, and a 256-bit key. -/
inductive IdeKm where
  | query
  | keyProg (link : IdeLink) (stream : Nat) (rx : Bool) (key : BitVec 256)
  | keysGo (link : IdeLink) (stream : Nat)
  | keysStop (link : IdeLink) (stream : Nat)
  deriving DecidableEq, Repr, Inhabited

/-- PERST# as PWR_OK rises (R614), and the host port of the board, whose offer trains the link when PERST# is high. -/
structure PerstPin where
  high : Bool
  port : HostPort
  deriving DecidableEq, Repr, Inhabited

/-- A read of BAR0: its size, and for each of its words the counts that arrive in the cycle of the read (R13). -/
structure CountedRead where
  size : Nat
  increments : List Nat
  deriving DecidableEq, Repr, Inhabited

/-- A write of BAR0: its value, and the bits of it that the hardware sets in the cycle of the write (R12). -/
structure WordWrite where
  value : BitVec 512
  hwSet : BitVec 512
  deriving DecidableEq, Repr, Inhabited

/-- For each Sphagnum line of a host access, the cycle in which its bank port serves it and how many it waited (R449). -/
abbrev HostSlots := List (Nat × Nat)

/-- A host read of device memory. -/
structure HostSpan where
  length : Nat
  slots : HostSlots
  deriving DecidableEq, Repr, Inhabited

/-- The byte enables of a host write to device memory. -/
structure HostMask where
  mask : List Bool
  slots : HostSlots
  deriving DecidableEq, Repr, Inhabited

/-- The end of a wait: the cycles it took, and the signals that reach their semaphores in its cycle (R312). -/
structure WaitEnd where
  cycles : Nat
  arriving : List Nat
  deriving DecidableEq, Repr, Inhabited

/-- A request at an atomic unit: its frond, and the requests that reach the unit in the same cycle (R323). -/
structure AtomicRow where
  frond : Nat
  same : List AtomicReq
  deriving DecidableEq, Repr, Inhabited

/-- The three transports of the SPDM responder (R576). -/
inductive Transport where
  | doe | smbus | i3c
  deriving DecidableEq, Repr, Inhabited

/-- The commands. -/
inductive Instr where
  -- Linso commands, executed by the firmware for mailbox `mb`
  | identify (mb : Nat)
  | health (mb : Nat)
  | partitionCreate (mb : Nat)
  | partitionDestroy (mb : Nat)
  | partitionResizeAdd (mb : Nat)
  | partitionResizeRemove (mb : Nat)
  | planLoad (mb : Nat)
  | planVerify (mb : Nat)
  | planStart (mb : Nat)
  | planStartResume (mb : Nat)
  | planStop (mb : Nat)
  | preempt (mb : Nat)
  | snapshotTake (mb : Nat)
  | snapshotRestore (mb : Nat)
  | mirrorConfig (mb : Nat)
  | mirrorConfigDisable (mb : Nat)
  | pairBind (mb : Nat)
  | tickConfig (mb : Nat)
  | powerConfig (mb : Nat)
  | dump (mb : Nat)
  | countersRead (mb : Nat)
  | fwUpdate (mb : Nat)
  | attest (mb : Nat)
  | debugUnlockChallenge (mb : Nat)
  | debugUnlockToken (mb : Nat)
  | spareAdopt (mb : Nat)
  | routeSet (mb : Nat)
  | stepSet (mb : Nat)
  | lossScaleSet (mb : Nat)
  | mailboxRota
  | mailboxSeqTimeout (mb : Nat)
  -- descriptors and their completions; `id` is the issue number of the descriptor in its frond
  | move (i : Issue) (b : MoveBody)
  | moveComplete (frond id : Nat)
  | multicast (i : Issue) (b : MulticastBody)
  | multicastComplete (frond id : Nat)
  | gather (i : Issue) (b : GatherBody)
  | gatherComplete (frond id : Nat)
  | denseTile (i : Issue) (b : DenseBody)
  | denseTileComplete (frond id : Nat)
  | sparseTile (i : Issue) (b : SparseBody)
  | sparseTileComplete (frond id : Nat)
  | sampledTile (i : Issue) (b : SampledBody)
  | sampledTileComplete (frond id : Nat)
  | drain (i : Issue) (b : DrainBody)
  | drainComplete (frond id : Nat)
  | vec (i : Issue) (b : VecBody)
  | kernelComplete (frond : Nat)
  | update (i : Issue) (b : UpdateBody)
  | factSums (i : Issue) (b : UpdateBody)
  | factApply (i : Issue) (b : UpdateBody)
  | updateComplete (frond id : Nat)
  | semWait (i : Issue) (b : SemWaitBody)
  | semWaitComplete (frond : Nat) (seq : SeqSel) (wait : WaitEnd)
  | semSignal (i : Issue) (b : SemSignalBody)
  | signalQueueLeave (frond : Nat) (seq : SeqSel)
  | semaphoreSignalApply (n : Nat)
  | ticket (i : Issue) (b : TicketBody)
  | ticketClaim (request : AtomicRow)
  | ticketReply (frond : Nat)
  | ticketClaimRetry (frond : Nat)
  | ticketCompletion (request : AtomicRow)
  | tickWait (i : Issue) (tick : Nat)
  | tickWaitComplete (frond : Nat) (seq : SeqSel)
  | maskPrune (i : Issue) (b : PruneBody)
  | maskRegrow (i : Issue) (b : RegrowBody)
  | maskCommit (i : Issue) (b : CommitBody)
  | maskCommitComplete (frond id : Nat)
  | reduceSend (i : Issue) (b : SendBody)
  | reduceSendComplete (frond id : Nat)
  | reduceRecv (i : Issue) (b : RecvBody)
  | reduceRecvComplete (frond id : Nat)
  -- vector instructions of the kernel running on `frond`
  | fma (frond : Nat) (v : VFields)
  | add (frond : Nat) (v : VFields)
  | sub (frond : Nat) (v : VFields)
  | mul (frond : Nat) (v : VFields)
  | div (frond : Nat) (v : VFields)
  | sqrt (frond : Nat) (v : VFields)
  | min (frond : Nat) (v : VFields)
  | max (frond : Nat) (v : VFields)
  | abs (frond : Nat) (v : VFields)
  | neg (frond : Nat) (v : VFields)
  | exp2 (frond : Nat) (v : VFields)
  | log2 (frond : Nat) (v : VFields)
  | cvt (frond : Nat) (v : VFields)
  | cmp (frond : Nat) (v : VFields)
  | classify (frond : Nat) (v : VFields)
  | and (frond : Nat) (v : VFields)
  | or (frond : Nat) (v : VFields)
  | xor (frond : Nat) (v : VFields)
  | shl (frond : Nat) (v : VFields)
  | shr (frond : Nat) (v : VFields)
  | shra (frond : Nat) (v : VFields)
  | sel (frond : Nat) (v : VFields)
  | movi (frond : Nat) (v : VFields)
  | movs (frond : Nat) (v : VFields)
  | lane (frond : Nat) (v : VFields)
  | rng (frond : Nat) (v : VFields)
  | xlane (frond : Nat) (v : VFields)
  | red (frond : Nat) (v : VFields)
  | ld (frond : Nat) (v : VFields)
  | st (frond : Nat) (v : VFields)
  | ldx (frond : Nat) (v : VFields)
  | stx (frond : Nat) (v : VFields)
  | lds (frond : Nat) (v : VFields)
  | sts (frond : Nat) (v : VFields)
  | sadd (frond : Nat) (v : VFields)
  | ssub (frond : Nat) (v : VFields)
  | smul (frond : Nat) (v : VFields)
  | sshl (frond : Nat) (v : VFields)
  | sshr (frond : Nat) (v : VFields)
  | sli (frond : Nat) (v : VFields)
  | br (frond : Nat) (v : VFields)
  | bnz (frond : Nat) (v : VFields)
  | bz (frond : Nat) (v : VFields)
  | anyp (frond : Nat) (v : VFields)
  | rdflg (frond : Nat) (v : VFields)
  | clrflg (frond : Nat) (v : VFields)
  | halt (frond : Nat) (v : VFields)
  -- the tick, waits and recovery
  | tickGuard
  | tickEdge
  | waitScanMidtick
  | waitReport (frond : Nat) (seq : SeqSel)
  | tickInEdge (offsetNs : Int)
  | beaconReceived (port : Nat) (offsetNs : Int) (count : BitVec 32)
  | tickHoldover
  | partitionStop (partition : Nat)
  | writeFenceComplete (partition : Nat)
  | recoveryReady (partition : Nat)
  | epochHoldExpiry (partition : Nat)
  | resetNoAnswer (cls index : Nat)
  | halfReset (half : Nat)
  | katSweep (cls index : Nat)
  | katSweepResult (cls index : Nat) (pass : Bool) (group : Nat)
  | dumpUnitTimeout (cls index : Nat)
  -- the Spore stream, registers and the host
  | sporeItemArrival (cls index : Nat)
  | sporePacketTimeout
  | sporeWordRead (offset size : Nat)
  | tickCountRead (r : CountRead)
  | rcCounterRead (offset : Nat) (read : CountedRead)
  | registerWrite (offset size : Nat) (write : WordWrite)
  | feedStart (partition : Nat)
  | feedReadReturn (partition line : Nat) (error : Bool)
  | feedDone (partition : Nat)
  | hostMemRead (addr : Nat) (span : HostSpan)
  | hostMemWrite (addr : Nat) (data : List Byte) (enables : HostMask)
  | powerStateChange (d3hot : Bool)
  -- the hyphae, the Sphagnum and the memories
  | hyphalPacket (p : HyphalPkt)
  | bankPortServe (bank : Nat) (write : Bool) (cycle : Nat) (report : DeviceReport)
  | memAccess (r : StoreReq) (report : DeviceReport)
  | memWriteback (cls index addr : Nat)
  | patrolScrub (cls index : Nat) (report : DeviceReport)
  | memRefresh (cls index : Nat)
  | memoryBringup (cls index : Nat) (t : Training)
  -- Pliund
  | plnFrameReceive (port : Nat) (f : PlnFrame)
  | plnLaneLockLoss (port : Nat)
  | plnAckSilence (port : Nat)
  | plnRetrain (port : Nat)
  | plnTrainingComplete (port delay : Nat)
  | plnPortDisable (port : Nat)
  | plnPortEnable (port : Nat)
  | data (port : Nat) (p : Packet)
  | healthPacket (port : Nat) (p : Packet)
  | clear (port : Nat) (p : Packet)
  | announce (port : Nat) (p : Packet)
  | bind (port : Nat) (p : Packet)
  | mirror (port : Nat) (p : Packet)
  | fill (port : Nat) (p : Packet)
  | peerTimeout (frond id : Nat)
  | pairBindTimeout
  | mirrorSend (partition : Nat)
  | mirrorLost (partition : Nat)
  | snapshotDrain (partition : Nat)
  | snapshotComplete (partition : Nat)
  -- power, clocks and reset
  | governorEstimate (isTuft : Bool) (index activity : Nat)
  | currentSample (rail amps : Nat) (slew : Int) (packageMeanW : Nat)
  | emergencyHalving
  | clockStep
  | clockRestore
  | tempSample (die tuft : Nat) (temp : Int)
  | thermalTrip (die : Nat) (temp : Int)
  | voltageMarginLoss (rail : Nat)
  | referenceLoss (r : Reference)
  | pwrOkRise (feedId : BitVec 4) (pairSense : Bool) (perst : PerstPin)
  | pwrOkFall
  | perstAssert
  | perstRelease
  | cxlHotReset
  | watchdogExpiry
  | warmResetEntry
  | bootRom (selfTestOk : Bool)
  | fwReady
  -- the Indusium
  | challengeExpiry
  | getVersion (t : Transport)
  | getCapabilities (t : Transport)
  | negotiateAlgorithms (t : Transport) (hashOk sigOk kexOk : Bool)
  | getDigests (t : Transport)
  | getCertificate (t : Transport) (slot offset length : Nat)
  | challenge (t : Transport) (slot : Nat) (nonce : BitVec 256) (transcript : List Byte)
  | getMeasurements (t : Transport) (index : Nat) (sign : Bool) (transcript : List Byte)
  | keyExchange (t : Transport) (slot : Nat) (transcript : List Byte)
  | finish (t : Transport) (session : Nat) (macOk : Bool)
  | keyUpdate (t : Transport) (session : Nat)
  | heartbeat (t : Transport) (session : Nat)
  | endSession (t : Transport) (session : Nat)
  | vendorDefinedRequest (t : Transport) (session : Nat) (km : IdeKm)
  | setEndpointId (t : Transport) (eid : Byte)
  -- test and console
  | bypass (tdi : Bool)
  | idcode
  | samplePreload (cells : List Bool)
  | extest
  | extestPulse
  | extestTrain
  | clamp
  | highz
  | trstAssert
  | uartRxInput (b : Byte)
  | referenceStable
  | hostSnoop (addr : Nat)
  | cxlUncorrectableError
  | i3cDynamicAddressAssign (addr : BitVec 7)
  | maskPruneComplete (frond id : Nat)
  | maskRegrowComplete (frond id : Nat)
  deriving DecidableEq, Repr, Inhabited

end Sys2Proof
end

