-- ==== Sys2Proof/Config.lean ====
section
/-! DEFINITION. What an implementation fixes, and the values the manual leaves open.

Every constant here is opaque: nothing in Lean can evaluate it, so a statement holds whatever it is.
The assumption log names each (entries 4 to 9). -/

namespace Sys2Proof.Config

/-- A free value of `w` bits, read at the model's own counter: whatever the manual leaves open. -/
opaque freeBits (w : Nat) : Nat → BitVec w

/-- A free choice between two outcomes, read at the model's own counter. -/
opaque freeBool : Nat → Bool

/-- A free number, read at the model's own counter. -/
opaque freeNat : Nat → Nat

/-- Which of several quiet NaN operands gives its payload (IEEE 754-2019 leaves the choice open; R78). -/
opaque nanFromFirst : Nat → Nat → Bool

/-- Code of an element of a NaN block of a short format, whose scale says that it reads as NaN whatever its code (R68, R73):
`kind` 0 a NaN, 1 a positive and 2 a negative finite value mag × 2^exp, mag odd or 0. -/
opaque nanBlockCode (fmt kind mag : Nat) (exp : Int) : Nat

/-- Which of the two R120 ranks alike is served first: the Rhizoid or an array feed, the hyphal port or the copy engine. -/
opaque rhizoidBeforeFeed : Bool
opaque portBeforeCopy : Bool

/-- What an infinity of a sign gives in an integer of w bits when the conversion wraps; the manual gives no result (R91). -/
opaque wrapInfinity (w : Nat) (neg : Bool) : BitVec w

/-- Whether tininess is detected after rounding (IEEE 754-2019 leaves the choice open; R78). -/
opaque tininessAfterRounding : Bool

/-- Whether FMA(0, infinity, quiet NaN) raises invalid (IEEE 754-2019 leaves the choice open; R78). -/
opaque fmaZeroInfNanInvalid : Bool

/-- REV bits [15:0]: the stepping (R461, "Per stepping"). -/
opaque rev : BitVec 16

/-- The 4,096 fuses as burned at manufacture (R565). -/
opaque fuses : BitVec 4096

/-- The QSPI flash as programmed before the first boot (flash table, R568). -/
opaque flashByte : Nat → Byte

/-- SHA-384 of the boot ROM: measurement register 0 (R574). -/
opaque bootRomHash : BitVec 384

/-- The share wheel owner of slot `i` of shared unit `u`, given the set of partitions that share it
(R250, R256: the firmware builds the wheel from the plans; the manual does not say how). -/
opaque shareWheel (unit i : Nat) (sharers : BitVec 16) : Nat

/-- A byte of a dump that the manual says nothing of: the fault log of a package dump, and the state of a unit whose
register map shows none (R541). -/
opaque dumpByte : Nat → Nat → Byte

/-- How a dump or a counter record lays out the values it holds. The manual gives what such a record holds (R413, R541) and
neither its layout nor its length: `what` names the kind of record, and the bytes are the values' alone. -/
opaque laidOut (what : Nat) (values : List Nat) : List Byte

/-- The activity-to-current coefficients "set at test" (R588), as a current in mA for an activity count. -/
opaque currentOf (isTuft : Bool) (activity : Nat) : Nat

/-- The CRC-64 of a frame's header and payload (R485); the manual does not give its polynomial. -/
opaque crc64 (bytes : List Byte) : BitVec 64

/-- The registers of configuration space and of the CXL component area whose places the PCI Express and CXL standards give and the
manual does not repeat (R458, R461): what one shows, by offset, of the contents that the manual does give. -/
opaque configWord (contents : List Nat) (off : Nat) : BitVec 32
opaque componentByte (contents : List Nat) (off : Nat) : Byte

/-- Vendor ID in configuration space (R458 names Kerouroth's, without its number). -/
opaque vendorId : BitVec 16

/-- Where section 0x0B holds the parts of the i-th frond of a plan: the byte offset of its 64 KiB instruction image, and
its declared kernel entries. The manual gives the section's contents and not the layout of its lists (section table). -/
opaque kernelLayout (sectionBytes : List Byte) (i : Nat) : Nat × List Nat

/-- The DDR5 speed in MT/s that a plan's proof assumed (R419); the image has no field for it. -/
opaque assumedRate (header : List Byte) : Nat

end Sys2Proof.Config
end

