-- ==== Sys2Proof/Machine/State.lean ====
section
/-! DEFINITION. The state of the package, as plain data, and the state right after a package cold reset begins.

Large stores are sparse maps: lists of (key, value) pairs with keys strictly rising and no entry equal to what an
unlisted key reads as. Registers of the unit windows and of BAR0 live in one such map, `regs`, keyed by `regKey`;
a register that only shows other state is computed where it is read (Machine/Regs.lean). -/

namespace Sys2Proof.Machine

/-- Why the machine stops. -/
inductive Fault where
  /-- Raised by every command that names a unit outside the numbering table of R15. Safe: no such unit exists. -/
  | noSuchUnit
  /-- Raised by a vector instruction with a type, rounding or condition code that is reserved for its opcode (R166: no
  verified kernel holds one), and by a descriptor row with a field outside its field map (WellFormed.lean; PLAN_VERIFY
  rejects it). Safe: the manual gives such a code no effect. -/
  | reservedCode
  deriving DecidableEq, Repr

/-- Why a command is refused. -/
inductive Refusal where
  /-- Raised by an arm of `exec` whose command has no meaning yet. Safe. -/
  | notModelled (mnemonic : String)
  deriving DecidableEq, Repr

/-- Partition states (R393), in the order of their codes. -/
inductive PState where
  | free | created | loaded | verified | running | stopping | stopped | preempted | faulted | recovering
  deriving DecidableEq, Repr, Inhabited

/-- A grant of memory in whole blocks (R406, R423). -/
structure Grant where
  /-- 1 Sphagnum, 2 HBM4 per-stack, 3 DDR5, 4 interleaved. -/
  kind : Nat
  blocks : Nat
  base : Nat
  deriving DecidableEq, Repr, Inhabited

/-- A semaphore: an end of a stream or a plain semaphore of a frond. -/
inductive SemRef where
  | filled (stream : Nat)
  | freed (stream : Nat)
  | plain (frond sem : Nat)
  deriving DecidableEq, Repr, Inhabited

/-- What a sequencer waits on. -/
inductive Wait where
  | sem (r : SemRef) (count : Nat) (frameEnd : Bool) (addr : Nat)
  /-- The 64-entry queue is full (fetch) . -/
  | queue
  /-- A reply of a ticket counter. -/
  | ticket
  /-- The tick edge that begins the named tick of the frame. -/
  | tick (n : Nat) (frameEnd : Bool) (addr : Nat)
  /-- The FREED credits of a MULTICAST's destination streams, of which this one lacks one (R320). -/
  | credit (stream : Nat)
  /-- An engine interlock, a fence or a full signal queue. -/
  | engine
  deriving DecidableEq, Repr, Inhabited

/-- The verdict of an UPDATE (verdict table), in the order of last_verdict's codes. -/
inductive Verdict where
  | apply | skip | skew
  deriving DecidableEq, Repr, Inhabited

/-- What an engine holds of a descriptor that has been issued and has not completed. -/
inductive JobBody where
  | move
  | multicast (b : MulticastBody) (base : Nat)
  | gather (panel : Nat)
  | dense (bank row0 rows : Nat) (sub split steps : Nat)
  /-- A lane-mode tile: the panel it reads, its serve cycles, and the half of the tile store that holds it. -/
  | sparse (bank panel serves half : Nat)
  | sampled (panel serves half : Nat)
  | drain (bank row0 rows : Nat)
  | vec
  | update (b : UpdateBody) (v : Verdict) (step : Nat) (pow1 pow2 : Word)
  | signal
  | ticket
  | prune (slot : Nat)
  | regrow (slot : Nat)
  | commit (slot first count : Nat)
  | send (b : SendBody) (sent : Bool) (acked : Nat) (since : Nat)
  | recv (b : RecvBody) (cleared : Bool) (landed : List Nat) (health : Bool) (since : Nat)
  deriving DecidableEq, Repr, Inhabited

/-- A pass of a ticket loop: the job of its TICKET and its ticket (R327). -/
abbrev PassRef := Nat × Nat

/-- A descriptor issued and not completed. -/
structure Job where
  id : Nat
  seq : SeqSel
  streamId : Nat
  addr : Nat
  /-- The ticket-loop pass the descriptor belongs to. -/
  pass : Option PassRef
  body : JobBody
  deriving DecidableEq, Repr, Inhabited

/-- A SEM_SIGNAL held in a signal queue (R314). -/
structure HeldSignal where
  jobId : Nat
  target : SemRef
  count : Nat
  streamId : Nat
  holdAll : Bool
  deriving DecidableEq, Repr, Inhabited

/-- One sequencer of a frond. -/
structure Sequencer where
  wait : Option Wait
  sigq : List HeldSignal
  /-- The frame_end descriptor has been issued: nothing more is issued in this frame (R380). -/
  ended : Bool
  /-- Descriptors issued in this frame. -/
  pos : Nat
  deriving DecidableEq, Repr, Inhabited

/-- A descriptor as a sequencer holds it: its address, its 64 bytes and its program tag (R50, R374). -/
structure ProgDsc where
  addr : Nat
  raw : BitVec 512
  tag : BitVec 32
  deriving DecidableEq, Repr, Inhabited

/-- An entry of the 64-entry queue between the sequencers (R48): the descriptor and its pass. -/
structure QEntry where
  dsc : ProgDsc
  pass : Option PassRef
  deriving DecidableEq, Repr, Inhabited

/-- A ticket loop in progress on a fetch sequencer (R327). -/
structure TicketLoop where
  jobId : Nat
  counterAddr : Nat
  stream : Nat
  bodyCount : Nat
  /-- Ticket of the pass being issued. -/
  current : Option Nat
  /-- Body descriptors issued in the pass. -/
  issued : Nat
  /-- The claim that awaits its reply, by request ID. -/
  outstanding : Option Nat
  deriving DecidableEq, Repr, Inhabited

/-- A pass of a ticket loop whose body has been issued whole and whose completion has not taken effect. -/
structure Pass where
  jobId : Nat
  ticket : Nat
  counterAddr : Nat
  stream : Nat
  deriving DecidableEq, Repr, Inhabited

/-- One panel of the activation bank (R193, R194). -/
structure Panel where
  filled : Bool
  fmt : Nat
  extent : Nat
  active : List Nat
  scaleKind : Bool
  scales : List (Nat × Byte)
  swz : List Nat
  map : Nat
  /-- Element codes by 128 × row + element. -/
  data : List (Nat × BitVec 16)
  deriving DecidableEq, Repr, Inhabited

/-- The vector engine of a frond (R160 to R164). -/
structure Vector where
  running : Bool
  jobId : Nat
  pc : Nat
  numctl : Nat
  /-- Scalar registers s0–s15. -/
  sregs : List (Nat × Dword)
  /-- Vector registers by 32 × lane + register. -/
  vregs : List (Nat × Dword)
  /-- Predicate registers by 128 × register + lane. -/
  preds : List (Nat × Bool)
  /-- Sticky flags of each lane. -/
  flags : List (Nat × BitVec 5)
  deriving DecidableEq, Repr, Inhabited

/-- The bandwidth regulator (R318, R319); tokens in 1/256 byte. -/
structure Regulator where
  rate : Nat
  burst : Nat
  tokens : Nat
  deriving DecidableEq, Repr, Inhabited

/-- One frond. -/
structure Frond where
  /-- Stopped by a fault of its partition, contents kept for the dump (R172). -/
  stopped : Bool
  retired : Bool
  inReset : Bool
  fetch : Sequencer
  execute : Sequencer
  /-- The program buffer of up to 16 descriptors, next descriptor first (R377). -/
  prog : List ProgDsc
  /-- Address of the next descriptor that the buffer has not read, and the end of the program (R376, R380). -/
  progNext : Nat
  progEnd : Nat
  queue : List QEntry
  jobs : List Job
  nextId : Nat
  split : Nat
  panel0 : Panel
  panel1 : Panel
  /-- Bytes of the two halves of the tile store (R189). -/
  store0 : List Byte
  store1 : List Byte
  /-- The lane queue of each array row: (index, value position) of up to 32 entries (R191). -/
  laneQueues : List (List (Nat × Nat))
  vec : Vector
  regulator : Regulator
  plainSems : List (Nat × BitVec 16)
  loop : Option TicketLoop
  passes : List Pass
  /-- Item at which the consumer end of each ticketed array stands at this frond: (stream, ticket) (R327). -/
  arrayPos : List (Nat × Nat)
  claimNo : Nat
  sweeping : Bool
  /-- TICK_COUNT of each RESIDUE_MISMATCH (R544). -/
  residueTicks : List Nat
  /-- Address of each source-5 UNCORRECTABLE (R544). -/
  source5 : List Nat
  deriving DecidableEq, Repr, Inhabited

/-- A bound package stream (R307, R310): its entry's fields and both ends. -/
structure Stream where
  partition : Nat
  planStream : Nat
  kind : Nat
  base : Nat
  itemUnits : Nat
  depth : Nat
  drainPeriod : Nat
  bridgeLines : Nat
  ringInFrond : Bool
  ringFrond : Nat
  producerFrond : Nat
  producerSeq : SeqSel
  consumerFrond : Nat
  consumerSeq : SeqSel
  filled : BitVec 16
  freed : BitVec 16
  prodPos : BitVec 32
  consPos : BitVec 32
  /-- Items that the producer holds claimed and has not signalled (R303). -/
  claimed : Nat
  deriving DecidableEq, Repr, Inhabited

/-- A mask slot (R222, R229, R230): the bound policy and the state of its generations. Positions are numbered
65,536 × tile + 512 × row + column. -/
structure MaskSlot where
  partition : Nat
  policyIx : Nat
  policy : BitVec 512
  /-- 1 settled, 2 building, 3 committed. -/
  state : Nat
  region : Nat
  generation : BitVec 32
  nnz : Nat
  prunes : List Nat
  regrows : List Nat
  /-- Tiles committed in the present build. -/
  committed : List Nat
  /-- Tiles a MASK_PRUNE of the present build has covered. -/
  prunedTiles : List Nat
  /-- Non-zeros of the generation being built. -/
  newNnz : Nat
  /-- Snapshot step: exchange the regions at the closing guard without a change of generation (R553). -/
  swapDue : Bool
  deriving DecidableEq, Repr, Inhabited

/-- The three counts of one ledger of one object (R53). -/
structure Ledger where
  issued : Dword
  completed : Dword
  inFlight : Dword
  deriving DecidableEq, Repr, Inhabited

/-- A stop that waits for its tick (R400, R402, R409). -/
inductive StopKind where
  | planStop | preempt | destroy
  deriving DecidableEq, Repr, Inhabited

/-- A peer of a partition (R497). -/
structure Peer where
  chip : Nat
  partition : Nat
  announced : Bool
  epoch : Nat
  deriving DecidableEq, Repr, Inhabited

/-- One region of a buffer map (R373). -/
structure Region where
  kind : Nat
  frond : Nat
  base : Nat
  length : Nat
  deriving DecidableEq, Repr, Inhabited

/-- A loaded plan: the header (R370), and what the firmware keeps of its sections. -/
structure Plan where
  fronds : BitVec 128
  seed : Dword
  frameTicks : Nat
  framesPerStep : Nat
  programSets : Nat
  resumable : Bool
  tickPeriod : Nat
  shapeAddr : Nat
  lossScaleAddr : Nat
  resumeAddr : Nat
  runSteps : Nat
  programHash : BitVec 384
  progBase : Nat
  progBytes : Nat
  tagBase : Nat
  bufferMap : List Region
  /-- Stream entries with the package stream ID each is bound to. -/
  streams : List (BitVec 256 × Nat)
  wheels : List Byte
  shapes : List Byte
  policies : List (BitVec 512)
  slots : List Nat
  shards : List Nat
  power : List Byte
  /-- Declared kernel entries of each frond. -/
  kernels : List (Nat × List Nat)
  regulators : List (Nat × Nat × Nat)
  initial : List (Nat × Nat)
  /-- The ticket records that the frame programs name: address and package stream of the ticketed array. -/
  tickets : List (Nat × Nat)
  /-- Lowest tuft whose fronds' programs name each policy in a mask descriptor or an UPDATE (R251): its Soredia unit holds the
  tensor's count (R56; log entry 119). -/
  tensorTufts : List Nat
  /-- Sections as they were loaded, by type, for PLAN_VERIFY; 0 is the header with the directory. -/
  image : List (Nat × List Byte)
  deriving DecidableEq, Repr, Inhabited

/-- A host-feed copy that runs (R455, R456). -/
structure FeedRun where
  src : Nat
  dst : Nat
  lines : Nat
  written : List Nat
  epoch : Nat
  deriving DecidableEq, Repr, Inhabited

/-- Protection of a partition's training state (R546 to R562). -/
structure Protect where
  mirrorOn : Bool
  mirrorLost : Bool
  partner : Nat
  heldBase : Nat
  heldLength : Nat
  /-- Pages changed since they were last sent to W0 and to W1: (entry, page). -/
  map0 : List (Nat × Nat)
  map1 : List (Nat × Nat)
  /-- The step being sent. -/
  sendStep : Option Nat
  /-- Pages of the send that have not been sent: (entry, page). -/
  toSend : List (Nat × Nat)
  /-- What such a page held before a write of the following step, which waits until the page is sent (R550), and its poisoned
  64-byte units. -/
  preMirror : List (Nat × Nat × List Byte × List Nat)
  /-- The last seal sent. -/
  sealSent : Option Nat
  /-- Snapshot being drained: its number and step. -/
  drain : Option (Nat × Nat)
  drained : List Nat
  /-- Region of each masked snapshot entry that holds the state being drained (R553). -/
  drainRegions : List (Nat × Nat)
  /-- What a page of the drain held before a later write, which waits until the page is copied (R554), and its poisoned units. -/
  preSnap : List (Nat × Nat × List Byte × List Nat)
  /-- The partner has acknowledged copying the base copy of the drain. -/
  baseAcked : Bool
  dirty : List Nat
  /-- Entries changed since the step of the snapshot being drained (R555). -/
  dirtySince : List Nat
  /-- Copies written by a fill or a restore: (entry, step). -/
  copies : List (Nat × Nat)
  /-- A restore has found an entry without a copy (R558). -/
  lost : Bool
  deriving DecidableEq, Repr, Inhabited

/-- A counter hold (R413): asked for by a COUNTERS_READ of the package or of the partition alone, or taken with the tag of
its snapshot and the values copied. -/
inductive Hold where
  | asked (package : Bool)
  | taken (tick : Nat) (values : List Nat)
  deriving DecidableEq, Repr, Inhabited

/-- A fault found in an open guard whose record is still to be posted (R40, R507, R523), with the trace items that follow it
(R650). -/
structure Late where
  code : Nat
  subcode : Nat
  detail : Nat
  cls : Nat
  index : Nat
  desc : Option Nat
  tick : Nat
  trace : List Item
  deriving DecidableEq, Repr, Inhabited

/-- One partition number. -/
structure Partition where
  state : PState
  ownerTag : Dword
  fronds : BitVec 128
  grants : List Grant
  slotShare : BitVec 256
  bridgeLines : Nat
  /-- Epoch in force, or last in force for a free number (R406, R535). -/
  epoch : BitVec 16
  plan : Option Plan
  planVerified : Bool
  /-- Program area of the last PLAN_LOAD, which the hyphae bar from writes until the next PLAN_LOAD or PARTITION_DESTROY:
  base and length (R52). -/
  barred : Option (Nat × Nat)
  /-- Plan section 0x0D and 0x09 targets that poison has dropped are seen at recovery (R537). -/
  resumeValid : Bool
  /-- Accepted start: start tick, resume, and the mailbox that awaits the answer. -/
  start : Option (Nat × Bool × Nat)
  stop : Option (StopKind × Nat)
  /-- A PLAN_STOP mailbox that a PREEMPT replaced (R472). -/
  replacedStop : Option Nat
  stopKind : Nat
  stopTick : Nat
  frameTick : Nat
  frameIx : Nat
  set : Nat
  bucket : Nat
  extents : List Nat
  skippedInStep : Bool
  /-- The plan runs from a resume record: its steps done (R404). -/
  resumeSteps : Option Nat
  /-- The step field read at T0 of the guard (R90). -/
  stepN : Nat
  /-- A fault found in the guard stops the partition at the coming edge (R523). -/
  stopAtEdge : Bool
  /-- The epoch increments at the coming tick edge (R524). -/
  epochDue : Bool
  /-- An epoch increment lies less than 40 µs back (R535): tick edges passed since it. -/
  epochRecent : Option Nat
  epochHeld : Bool
  /-- The epoch has been incremented between two ticks: the ledgers restart at the coming tick edge (R60). -/
  ledgersDue : Bool
  faultCode : Nat
  faultTick : Nat
  /-- PLAN_STOP has released the faulted partition before its epoch edge (R536). -/
  releaseDue : Bool
  /-- The stop that the open guard has found due at its tick edge. -/
  halt : Option StopKind
  /-- An emergency halving has begun while the partition ran: its frame counts as overrun (R526). -/
  halvedMark : Bool
  fenceDue : Bool
  quiesced : Bool
  /-- Fronds to sweep in recovery (R543). -/
  suspects : List Nat
  swept : Nat
  planKept : Bool
  /-- PART_RECOVERY ready: cleaning is complete (R536). -/
  ready : Bool
  peers : List Peer
  faultLog : List (BitVec 256)
  late : List Late
  staleTick : Nat
  feed : Option FeedRun
  hold : Option Hold
  protect : Protect
  /-- Ramp demand of the plan, in mW from one tick to the next, and its largest P_max, in mW (R590). -/
  demand : Nat
  peakMw : Nat
  deriving DecidableEq, Repr, Inhabited

/-- A command the firmware has taken from a mailbox (R468). -/
structure Taken where
  opcode : Nat
  irq : Bool
  seq : BitVec 32
  tag : Dword
  args : List Byte
  /-- The flags byte, and the argument length as the header states it (R466). -/
  flags : Nat := 0
  len : Nat := args.length
  /-- Its row has begun it; its final response is still to come. -/
  begun : Bool
  deriving DecidableEq, Repr, Inhabited

/-- The header of a mailbox and the command outstanding in it. -/
structure Mailbox where
  cmdSeq : BitVec 32
  taken : BitVec 32
  respSeq : BitVec 32
  respStatus : BitVec 32
  outstanding : Option Taken
  /-- The area's seq field disagreed with MB_CMD_SEQ at the last rota. -/
  disagrees : Bool
  deriving DecidableEq, Repr, Inhabited

/-- An item of the Spore stream with the packet it belongs to and the partition whose ledger counts it. -/
structure SporeItem where
  item : Item
  packet : Nat
  partition : Nat
  deriving DecidableEq, Repr, Inhabited

/-- The packet that is open at the hub (R479). -/
structure OpenPacket where
  packet : Nat
  cls : Nat
  index : Nat
  got : Nat
  total : Nat
  deriving DecidableEq, Repr, Inhabited

/-- A packet whose items are on the rhizome, on their way to the hub. -/
structure OutPacket where
  cls : Nat
  index : Nat
  partition : Nat
  total : Nat
  items : List Item
  /-- The hub has closed the packet: what still arrives is discarded (R479). -/
  closed : Bool
  deriving DecidableEq, Repr, Inhabited

/-- The hub's Spore logic. -/
structure Spore where
  items : List SporeItem
  opened : Option OpenPacket
  nextPacket : Nat
  latch : List Byte
  validBytes : Nat
  deriving DecidableEq, Repr, Inhabited

/-- A semaphore signal on the hyphae. -/
structure Signal where
  id : Nat
  frond : Nat
  seq : SeqSel
  jobId : Nat
  target : SemRef
  count : Nat
  partition : Nat
  epoch : BitVec 16
  deriving DecidableEq, Repr, Inhabited

/-- A ticket claim on the hyphae. -/
structure Claim where
  frond : Nat
  requestId : Nat
  addr : Nat
  /-- Package stream ID of the ticketed array. -/
  stream : Nat
  partition : Nat
  epoch : BitVec 16
  deriving DecidableEq, Repr, Inhabited

/-- A reply of a ticket counter on the hyphae; none is "exhausted". -/
structure ClaimReply where
  frond : Nat
  requestId : Nat
  ticket : Option Nat
  partition : Nat
  epoch : BitVec 16
  deriving DecidableEq, Repr, Inhabited

/-- A request that waits at a bank port, with the slack it was stamped with (R303). -/
structure Waiting where
  req : StoreReq
  slack : Option Nat
  deriving DecidableEq, Repr, Inhabited

/-- What a line held before the last write of its bank: the line, the cycle of the write, its bytes, error patterns and poison
(R296). -/
structure LineWas where
  line : Nat
  cycle : Nat
  bytes : List Byte
  flips : List (BitVec 40)
  poison : List Bool
  deriving DecidableEq, Repr, Inhabited

/-- The hyphal network: signals, claims and replies in flight, link sequence numbers and bank-port queues. -/
structure Hyphae where
  signals : List Signal
  nextSignal : Nat
  claims : List Claim
  replies : List ClaimReply
  /-- Last packet number taken on each link (R300). -/
  taken : List (Nat × Nat)
  /-- Packets held at the sender of each link until the next hop acknowledges them (R300). -/
  held : List HyphalPkt
  /-- Requests waiting at each bank port, by 2 × bank + write. -/
  bankq : List (Nat × List Waiting)
  /-- Cycle in which each bank port last served, by 2 × bank + write (R302). -/
  servedAt : List (Nat × Nat)
  /-- The last line written at each bank, as it was before (R296). -/
  lineWas : List (Nat × LineWas)
  /-- Lines whose corrected contents await an idle write slot (R297). -/
  correct : List Nat
  /-- The last read reply a store gave: address, bytes and poison. -/
  reply : Option (Nat × List Byte × Bool)
  deriving DecidableEq, Repr, Inhabited

/-- A standing wait report (R529). -/
structure WaitRep where
  frond : Nat
  seq : SeqSel
  object : Nat
  holders : List (Nat × SeqSel)
  deriving DecidableEq, Repr, Inhabited

/-- A route-table entry (R492). -/
structure Route where
  chip : Nat
  port : Nat
  altPort : Nat
  altValid : Bool
  self : Bool
  deriving DecidableEq, Repr, Inhabited

/-- A pair bind in progress or complete (R511 to R514). -/
structure Bind where
  mb : Nat
  partner : Nat
  coFedAsked : Bool
  port1 : Nat
  port2 : Nat
  /-- BIND taken in from the partner, with its FEED_ID. -/
  got : Option (BitVec 4)
  /-- The BIND has been sent on the first port (R511). -/
  sent : Bool
  /-- The bind belongs to a SPARE_ADOPT with this fill number. -/
  fill : Option Nat
  deriving DecidableEq, Repr, Inhabited

/-- A SNAPSHOT_RESTORE from the partner's held region that runs: mailbox, partition, step, and the entries that the
partner's manifest has named once it has been checked. -/
structure Restore where
  mb : Nat
  partition : Nat
  step : Nat
  entries : Option (List Nat)
  deriving DecidableEq, Repr, Inhabited

/-- The pair this package belongs to. -/
structure Pair where
  bound : Bool
  coFed : Bool
  partner : Nat
  port1 : Nat
  port2 : Nat
  pending : Option Bind
  /-- A fill that runs: mailbox, failed chip's logical ID and fill number. -/
  filling : Option (Nat × Nat × Nat)
  restoring : Option Restore
  /-- Highest fill number begun as a partner. -/
  highestFill : Nat
  /-- BIND packets taken in: port, logical ID and FEED_ID. -/
  heard : List (Nat × Nat × Nat)
  deriving DecidableEq, Repr, Inhabited

/-- A held region kept for a partner (R548, R549). -/
structure Held where
  chip : Nat
  partition : Nat
  epoch : Nat
  base : Nat
  length : Nat
  seal0 : Option Nat
  seal1 : Option Nat
  base0 : Option Nat
  base1 : Option Nat
  dirty : Bool
  /-- The mirrored entries: entry number, device address and length of each range. -/
  table : List (Nat × Nat × Nat)
  deriving DecidableEq, Repr, Inhabited

/-- A frame held in a replay buffer (R487). -/
structure Sent where
  linkSeq : Nat
  packet : Packet
  /-- The trailer's acknowledgement of the reverse direction and its CRC-64 (R485), as last sent. -/
  ack : Nat
  crc : BitVec 64
  resends : Nat
  /-- Frond and job whose REDUCE_SEND waits for the acknowledgement, if any. -/
  job : Option (Nat × Nat)
  deriving DecidableEq, Repr, Inhabited

/-- One Pliund port. -/
structure Port where
  /-- 0 down, 1 training, 2 up, 3 disabled. -/
  state : Nat
  nextSeq : Nat
  expected : Nat
  replay : List Sent
  /-- Packets handed to the port that wait for a free place in its replay buffer of 256 frames (R487). -/
  waiting : List (Packet × Option (Nat × Nat))
  /-- Packets dropped under R500 since the last tick edge. -/
  staleCount : Nat
  /-- Packets taken in that no row has yet been applied to. -/
  inbox : List Packet
  /-- The last beacon sent: its delay from the edge in 0.1 ns, and the low 32 bits of TICK_COUNT (R508). -/
  beacon : Option (Nat × BitVec 32)
  deriving DecidableEq, Repr, Inhabited

/-- The tick block and the guard. -/
structure Tick where
  period : BitVec 21
  count : Dword
  latch : BitVec 32
  source : BitVec 2
  beaconPort : BitVec 4
  locked : Bool
  holdover : Bool
  skewValid : Bool
  skewNs : Int
  /-- Consecutive edges within ±40 ns, up to 16 (R35). -/
  run : Nat
  /-- Offset of the local tick from the internal divider, in ns. -/
  phaseNs : Int
  guardOpen : Bool
  /-- TICK_OUT pulses driven. -/
  pulses : Nat
  deriving DecidableEq, Repr, Inhabited

/-- The tick snapshot (R41): the shadows and the tick they are tagged with. -/
structure Snapshot where
  tick : Nat
  regs : List (Nat × Dword)
  /-- PWR_ENERGY, which the model keeps outside the register list. -/
  energy : Dword
  ledgers : List (Nat × Ledger)
  deriving DecidableEq, Repr, Inhabited

/-- Power, clock and temperature. Powers in W but where named, currents in mA. -/
structure Power where
  limit : Nat
  floor : Nat
  ramp : Nat
  /-- A POWER_CONFIG accepted and not yet in effect: mailbox and values. -/
  pending : Option (Nat × Nat × Nat × Nat)
  /-- Target and present current of each frond, and present current of each tuft's units (key 128 + tuft). -/
  target : List (Nat × Nat)
  current : List (Nat × Nat)
  hold : List (Nat × Nat)
  /-- Sum and number of each frond's estimates since the last tick edge (R597). -/
  estSum : List (Nat × Nat)
  estNum : List (Nat × Nat)
  /-- Package mean power and rail mean currents of the last tick. -/
  meanW : Nat
  railA0 : Nat
  railA1 : Nat
  otherW : Nat
  /-- Sums of the rail-current samples since the last tick edge, and their numbers. -/
  sum0 : Nat
  sum1 : Nat
  samples0 : Nat
  samples1 : Nat
  vid0 : Nat
  vid1 : Nat
  raise0 : Bool
  raise1 : Bool
  /-- Halving: step 0 (full rate) to 8 (half rate); −1, 0 or +1 while stepping up, standing or stepping down. -/
  step : Nat
  direction : Int
  causes : List Nat
  firstCause : Nat
  /-- A halving detected inside a guard, or a cause detected and not yet acted on. -/
  detected : Option Nat
  /-- Fronds that ran ballast at their last estimate. -/
  ballast : List Nat
  /-- Hottest junction by 16 × die + tuft, in 1/8 °C. -/
  temps : List (Nat × Int)
  energyMj : Dword
  deriving DecidableEq, Repr, Inhabited

/-- Resets, references, pins and the CXL link. -/
structure Package where
  fwState : Nat
  /-- A package cold reset has begun and fw_state has not been 3 since (R617). -/
  coldBoot : Bool
  pwrOk : Bool
  /-- PERST# asserted. -/
  perst : Bool
  /-- A package warm reset has been requested and the power descent runs (R615). -/
  warmRequested : Bool
  inWarmReset : Bool
  clocksStopped : Bool
  arithStopped : Bool
  lostRefs : List Reference
  half0Ready : Bool
  half1Ready : Bool
  linkUp : Bool
  /-- Rate in GT/s and width at which the link last trained (R444). -/
  linkRate : Nat
  linkWidth : Nat
  /-- An uncorrectable CXL error has been logged in advanced error reporting (GLOBAL_FAULT field map). -/
  aerLogged : Bool
  memActive : Bool
  d3hot : Bool
  feedId : BitVec 4
  pairSense : Bool
  thermalTrip : Bool
  faultPin : Bool
  noAnswer : List (Nat × Nat)
  /-- Units that do not answer the reads of the next dump (R540). -/
  dumpSilent : List (Nat × Nat)
  ddrRate : Nat
  /-- Organisation and capacity of the DIMMs of the DDR5 tier (R418). -/
  dimm : Option Dimm
  /-- State of each stack (0–7) and channel (8–15): MEM_STATUS state codes. -/
  memState : List (Nat × Nat)
  memCapacity : List (Nat × Nat)
  /-- Retired tuft units, by class × 256 + index. -/
  retiredUnits : List Nat
  tickOutDriven : Bool
  uartHigh : Bool
  deriving DecidableEq, Repr, Inhabited

/-- An IDE stream of the host link (R447): the keys programmed for each direction, and whether they are in use. -/
structure IdeStream where
  link : IdeLink
  stream : Nat
  rxKey : Option (BitVec 256)
  txKey : Option (BitVec 256)
  active : Bool
  deriving DecidableEq, Repr, Inhabited

/-- The SPDM connection of one transport (R576). -/
structure Connection where
  version : Bool
  capabilities : Bool
  algorithms : Bool
  /-- A key exchange has been negotiated. -/
  exchange : Bool
  deriving DecidableEq, Repr, Inhabited

/-- One SPDM session. -/
structure Session where
  id : Nat
  transport : Transport
  established : Bool
  keyUpdates : Nat
  deriving DecidableEq, Repr, Inhabited

/-- What the SPDM responder or the MCTP endpoint answered last. -/
inductive SpdmResponse where
  | none
  | version
  | capabilities
  | algorithms
  | digests (slot0 : BitVec 384)
  | certificate (bytes : List Byte) (remaining : Nat)
  | signed (body : List (BitVec 384)) (r s : BitVec 384)
  | measurements (blocks : List (Nat × BitVec 384)) (signature : Option (BitVec 384 × BitVec 384))
  | keyExchangeRsp (session : Nat) (r s : BitVec 384)
  | finishRsp
  | keyUpdateAck
  | heartbeatAck
  | endSessionAck
  /-- The answer to an IDE_KM message, and whether it took effect. -/
  | vendorDefined (km : IdeKm) (done : Bool)
  | eidAssigned (eid : Byte)
  | unspecifiedError
  | unexpectedRequest
  | sessionLimitExceeded
  | invalidRequest
  deriving DecidableEq, Repr, Inhabited

/-- The Indusium (chapter 14). -/
structure Indusium where
  fuses : BitVec 4096
  /-- QSPI flash bytes written since manufacture. -/
  flash : List Host.Cell
  /-- Measurement registers and their change counts. -/
  meas : List (BitVec 384 × BitVec 32)
  /-- 0 slot 0, 1 slot 1, 2 host. -/
  bootSource : Nat
  hostServing : Bool
  fwVersion : BitVec 32
  edition : BitVec 32
  /-- Security version of the running image. -/
  runSvn : Nat
  staged : Bool
  challenge : Option (BitVec 384)
  debugScope : Nat
  fuseLocked : Bool
  certSet : Bool
  doe : Connection
  smbus : Connection
  i3c : Connection
  sessions : List Session
  nextSession : Nat
  eidSmbus : Option Byte
  eidI3c : Option Byte
  i3cAddr : Option (BitVec 7)
  response : SpdmResponse
  /-- IDE keys have been programmed in an SPDM session (R447). -/
  ide : List IdeStream
  deriving DecidableEq, Repr, Inhabited

/-- The instructions of the test access port (R630). -/
inductive JtagIr where
  | bypass | idcode | samplePreload | extest | extestPulse | extestTrain | clamp | highz
  deriving DecidableEq, Repr, Inhabited

/-- Test port and console. -/
structure Test where
  ir : JtagIr
  /-- The instruction takes hold of the pins (R631). -/
  holdsPins : Bool
  cells : List Bool
  bypassBit : Bool
  tdo : List Bool
  rx : List Byte
  deriving DecidableEq, Repr, Inhabited

/-- What the host last got back from the block, and what its port offers. -/
structure HostSide where
  reg : BitVec 512
  memData : List Byte
  memPoison : Bool
  snoop : Bool
  /-- The board's host port, which trains the link (R445). -/
  port : HostPort
  /-- Requests that completed as unsupported (R459). -/
  unsupported : Nat
  /-- MSI-X messages sent, newest first. -/
  msi : List Nat
  deriving DecidableEq, Repr, Inhabited

/-- The whole package. -/
structure State where
  /-- Commands that wait, first in, first out. -/
  pending : List Instr
  /-- The model's own counter: the next free value (log entry 4). -/
  freeCtr : Nat
  /-- Registers of the unit windows and of BAR0, by `regKey`. -/
  regs : List (Nat × Dword)
  /-- Shadows of RWT registers, by `regKey`. -/
  shadow : List (Nat × Dword)
  snap : Snapshot
  tick : Tick
  /-- Device memory: Sphagnum, HBM4 by stack, DDR5 by channel. -/
  mem : List Host.Cell
  /-- Poisoned 64-byte units of device memory, by address / 64. -/
  poison : List (Nat × Bool)
  /-- Error patterns in stored words, by address / 4. -/
  flips : List (Nat × BitVec 40)
  /-- What an HBM4 stack or its interface has to report of a unit's next read: 1 corrected, 3, 5 or 6 the cause of an uncorrectable
  error (R432), by address / 64. -/
  devErr : List (Nat × Nat)
  writebacks : List Nat
  /-- Next unit to scrub, by controller (0–7 stack, 8–15 channel) and by 16 + bank for the Sphagnum. -/
  scrub : List (Nat × Nat)
  /-- Last owner tag of each 1 MiB or 256 MiB block, by address / 1 MiB; absent when never granted. -/
  blockTag : List (Nat × Option Dword)
  /-- Host physical memory as it answers CXL.cache, and its poisoned lines. -/
  hostMem : List Host.Cell
  hostBad : List (Nat × Bool)
  /-- Frond buffers, by 0x30_0000 × frond + address, and their poisoned 64-byte units. -/
  fbuf : List Host.Cell
  fbufBad : List (Nat × Bool)
  /-- Error patterns in words of frond stores, by `frondWord` (R427). -/
  frondFlips : List (Nat × BitVec 40)
  /-- Accumulators, by ((frond × 2 + bank) × 128 + row) × 128 + column. -/
  acc : List (Nat × Dword)
  /-- Instruction memories, by 8,192 × frond + index. -/
  imem : List (Nat × Dword)
  /-- Copy-shape tables, by 256 × frond + record. -/
  shapeTab : List (Nat × BitVec 512)
  /-- Generators: by lane_id (R87, R351), update units by 65,536 + (unit × 16 + partition) × 16 + j. -/
  gens : List (Nat × Dword)
  fronds : List (Nat × Frond)
  parts : List (Nat × Partition)
  streams : List (Nat × Option Stream)
  slots : List (Nat × Option MaskSlot)
  /-- Ledgers, by `ledgerKey`. -/
  ledgers : List (Nat × Ledger)
  /-- Slot-wheel entries, by (group × 2 + write) × 256 + slot. -/
  wheels : List (Nat × BitVec 16)
  mailboxes : List (Nat × Mailbox)
  /-- Mailboxes with a command outstanding, in the order the commands were taken (R472). -/
  mbTaken : List Nat
  /-- Mailbox areas, by BAR0 offset. -/
  mbArea : List Host.Cell
  /-- What the host wrote to the CXL component registers, by offset from 0x5_0000 (R458, R461). -/
  component : List Host.Cell
  /-- MSI-X table bytes by offset, and pending vectors. -/
  msixTable : List Host.Cell
  msixPending : BitVec 19
  spore : Spore
  sporeOut : List OutPacket
  /-- Stop messages on the rhizome, by partition. -/
  stopMsgs : List Nat
  hyphae : Hyphae
  waits : List WaitRep
  /-- Members found in the last scan, by partition. -/
  lastScan : List (Nat × List (Nat × SeqSel))
  routes : List Route
  pendingRoutes : Option (Nat × Nat × List Route)
  /-- CLEARs taken in: (partition, chip, peer partition, channel, length in units). -/
  clears : List (Nat × Nat × Nat × Nat × Nat)
  ports : List (Nat × Port)
  pair : Pair
  held : List Held
  /-- Units that have posted a LIVE_WRITE record since the last tick edge (R528). -/
  livePosted : List (Nat × Nat)
  power : Power
  pkg : Package
  indus : Indusium
  test : Test
  host : HostSide
  deriving DecidableEq, Repr

/-- The key of a register: unit class, index and BAR0 offset (class 0: BAR0 itself). -/
def regKey (cls index offset : Nat) : Nat := (cls * 256 + index) * 0x100000 + offset

/-- Reset values that are not zero, by class and offset (the register maps). -/
def regResetAt (cls offset : Nat) : Nat :=
  match cls, offset with
  | 0, 0x404C => 1                          -- SPORE_THRESH
  | 5, 0x110C => 0x800000C8                 -- MEM_SCRUB, HBM4
  | 6, 0x110C => 0x80000032                 -- MEM_SCRUB, DDR5
  | 7, 0x110C => 1                          -- PLN_CTRL
  | 7, 0x1110 => 3                          -- PLN_PEER_TIMEOUT
  | 7, 0x113C => 0xFFFF                     -- PLN_REMOTE_ID
  | 8, 0x1150 => 0x100                      -- PART_RECOVERY
  | 8, 0x1158 => 0xFFFFFFFFFFFFFFFF         -- PART_MIRROR_STEP
  | 8, 0x1160 => 0xFFFFFFFFFFFFFFFF         -- PART_SNAP_STEP
  | 8, 0x1178 => 0xFFFFFFFFFFFFFFFF         -- PART_FILL_STEP
  | _, _ => 0

/-- What a register that the map does not list holds: its reset value. -/
def regReset (key : Nat) : Dword :=
  BitVec.ofNat 64 (regResetAt (key / 0x100000 / 256) (key % 0x100000))

/-- A sequencer that holds nothing. -/
def Sequencer.idle : Sequencer := { wait := none, sigq := [], ended := false, pos := 0 }

/-- A panel that no GATHER has filled. -/
def Panel.empty : Panel :=
  { filled := false, fmt := 0, extent := 0, active := [], scaleKind := false, scales := [], swz := [], map := 0,
    data := [] }

/-- A vector engine with every register zero (R531). -/
def Vector.zero : Vector :=
  { running := false, jobId := 0, pc := 0, numctl := 0, sregs := [], vregs := [], preds := [], flags := [] }

/-- A frond at reset. -/
def Frond.reset : Frond :=
  { stopped := false, retired := false, inReset := false, fetch := .idle, execute := .idle, prog := [], progNext := 0,
    progEnd := 0, queue := [], jobs := [],
    nextId := 0, split := 0, panel0 := .empty, panel1 := .empty, store0 := [], store1 := [], laneQueues := [], vec := .zero,
    regulator := { rate := 0, burst := 0, tokens := 0 }, plainSems := [], loop := none, passes := [],
    arrayPos := [], claimNo := 0, sweeping := false, residueTicks := [], source5 := [] }

/-- No protection in force. -/
def Protect.none : Protect :=
  { mirrorOn := false, mirrorLost := false, partner := 0, heldBase := 0, heldLength := 0, map0 := [], map1 := [],
    sendStep := .none, toSend := [], preMirror := [], sealSent := .none, drain := .none, drained := [],
    drainRegions := [], preSnap := [], baseAcked := false, dirty := [], dirtySince := [], copies := [], lost := false }

/-- A partition number that no partition holds. -/
def Partition.reset : Partition :=
  { state := .free, ownerTag := 0, fronds := 0, grants := [], slotShare := 0, bridgeLines := 0, epoch := 0,
    plan := none, planVerified := false, barred := none, resumeValid := false, start := none, stop := none, replacedStop := none,
    stopKind := 0, stopTick := 0, releaseDue := false, halt := none, halvedMark := false, frameTick := 0, frameIx := 0, set := 0, bucket := 0,
    extents := [], skippedInStep := false, resumeSteps := none, stepN := 0, stopAtEdge := false, epochDue := false, epochRecent := none,
    epochHeld := false, ledgersDue := false, faultCode := 0, faultTick := 0, fenceDue := false, quiesced := false, suspects := [],
    swept := 0, planKept := false, ready := false, peers := [], faultLog := [], late := [], staleTick := 0, feed := none, hold := none, protect := .none,
    demand := 0, peakMw := 0 }

/-- A mailbox at reset: MB_RESP_STATUS has final set (R466). -/
def Mailbox.reset : Mailbox :=
  { cmdSeq := 0, taken := 0, respSeq := 0, respStatus := 0x10000, outstanding := none, disagrees := false }

/-- A ledger at its start (R60). -/
def Ledger.zero : Ledger := { issued := 0, completed := 0, inFlight := 0 }

/-- A port at reset: enabled and down (R490). -/
def Port.reset : Port :=
  { state := 0, nextSeq := 0, expected := 0, replay := [], waiting := [], staleCount := 0, inbox := [], beacon := none }

/-- The tick block at reset (tick register map). -/
def Tick.reset : Tick :=
  { period := 100000, count := 0, latch := 0, source := 0, beaconPort := 0, locked := false, holdover := false,
    skewValid := false, skewNs := 0, run := 0, phaseNs := 0, guardOpen := false, pulses := 0 }

/-- Limit, floor and ramp of R599 and the voltage setting of PWR_VID. -/
def Power.reset : Power :=
  { limit := 1800, floor := 0, ramp := 200, pending := none, target := [], current := [], hold := [], estSum := [], estNum := [], meanW := 0,
    railA0 := 0, railA1 := 0, otherW := 0, sum0 := 0, sum1 := 0, samples0 := 0, samples1 := 0, vid0 := 800, vid1 := 800,
    raise0 := false, raise1 := false, step := 0, direction := 0, causes := [], firstCause := 0, detected := none,
    ballast := [], temps := [], energyMj := 0 }

/-- The package right after PWR_OK rises with PERST# low (power-on table, T0). -/
def Package.reset : Package :=
  { fwState := 0, coldBoot := true, pwrOk := true, perst := true, warmRequested := false, inWarmReset := false, clocksStopped := false,
    arithStopped := false, lostRefs := [], half0Ready := false, half1Ready := false, linkUp := false, linkRate := 0, linkWidth := 0, aerLogged := false,
    memActive := false, d3hot := false, feedId := 0, pairSense := false, thermalTrip := false, faultPin := false,
    noAnswer := [], dumpSilent := [], ddrRate := 0, dimm := none, memState := [], memCapacity := [], retiredUnits := [], tickOutDriven := true,
    uartHigh := true }

/-- No connection established. -/
def Connection.none : Connection := { version := false, capabilities := false, algorithms := false, exchange := false }

/-- Measurement registers at reset: zero values and counts (R574), twenty-one of them. -/
def Indusium.measReset : List (BitVec 384 × BitVec 32) := List.replicate 21 (0, 0)

/-- The Indusium before the boot ROM runs. -/
def Indusium.reset : Indusium :=
  { fuses := Config.fuses, flash := [], meas := Indusium.measReset, bootSource := 0, hostServing := false,
    fwVersion := 0, edition := 0, runSvn := 0, staged := false, challenge := none, debugScope := 0, fuseLocked := false,
    certSet := false, doe := .none, smbus := .none, i3c := .none, sessions := [], nextSession := 0, eidSmbus := none,
    eidI3c := none, i3cAddr := none, response := .none, ide := [] }

/-- Test port and console at reset: the port selects IDCODE (IEEE 1149.1; log entry 2). -/
def Test.reset : Test := { ir := .idcode, holdsPins := false, cells := [], bypassBit := false, tdo := [], rx := [] }

/-- The package right after a package cold reset begins: every register at the value its map states. -/
def State.reset : State :=
  { pending := [], freeCtr := 0, regs := [], shadow := [], snap := { tick := 0, regs := [], energy := 0, ledgers := [] },
    tick := .reset, mem := [], poison := [], flips := [], devErr := [], writebacks := [], scrub := [], blockTag := [],
    hostMem := [], hostBad := [], fbuf := [], fbufBad := [], frondFlips := [], acc := [], imem := [], shapeTab := [], gens := [],
    fronds := [], parts := [], streams := [], slots := [], ledgers := [], wheels := [], mailboxes := [], mbTaken := [], mbArea := [],
    component := [], msixTable := [], msixPending := 0,
    spore := { items := [], opened := none, nextPacket := 0, latch := [], validBytes := 0 },
    sporeOut := [], stopMsgs := [],
    hyphae := { signals := [], nextSignal := 0, claims := [], replies := [], taken := [], held := [], bankq := [],
                servedAt := [], lineWas := [], correct := [], reply := none },
    waits := [], lastScan := [], routes := [], pendingRoutes := none, clears := [], ports := [],
    pair := { bound := false, coFed := false, partner := 0, port1 := 14, port2 := 15, pending := none,
              filling := none, restoring := none, highestFill := 0, heard := [] },
    held := [], livePosted := [], power := .reset, pkg := .reset, indus := .reset, test := .reset,
    host := { reg := 0, memData := [], memPoison := false, snoop := false, port := { flit256 := true, rate := 128, width := 16 },
              unsupported := 0, msi := [] } }

end Sys2Proof.Machine
end

