-- ==== Sys2Proof/Machine/Sparse.lean ====
section
/-! DEFINITION. Sparse maps: lists of (key, value) pairs, keys strictly rising, no entry equal to the default `d` of
its key. Every large store of `State` is one, so equal stores are equal data. -/

namespace Sys2Proof.Machine

/-- What the map holds at `k`; `d k` where it lists nothing. -/
def sget {α : Type} (d : Nat → α) : List (Nat × α) → Nat → α
  | [], k => d k
  | (k', v) :: m, k => if k < k' then d k else if k = k' then v else sget d m k

/-- Write `v` at `k`; writing what an unlisted key reads as removes the entry. -/
def sput {α : Type} [DecidableEq α] (d : Nat → α) : List (Nat × α) → Nat → α → List (Nat × α)
  | [], k, v => if v = d k then [] else [(k, v)]
  | (k', v') :: m, k, v =>
    if k < k' then (if v = d k then (k', v') :: m else (k, v) :: (k', v') :: m)
    else if k = k' then (if v = d k then m else (k, v) :: m)
    else (k', v') :: sput d m k v

/-- Remove every entry whose key satisfies `f`: those keys read as their default again. -/
def sclear {α : Type} (f : Nat → Bool) (m : List (Nat × α)) : List (Nat × α) := m.filter fun e => !f e.1

/-- Keys strictly above `lo` and strictly rising, and no entry at its default. -/
def swfFrom {α : Type} [DecidableEq α] (d : Nat → α) : Option Nat → List (Nat × α) → Bool
  | _, [] => true
  | lo, (k, v) :: m => (match lo with | none => true | some l => decide (l < k)) && decide (v ≠ d k) && swfFrom d (some k) m

/-- The canonical form. -/
def swf {α : Type} [DecidableEq α] (d : Nat → α) (m : List (Nat × α)) : Bool := swfFrom d none m

/-- Write consecutive values from `k` on. -/
def sputs {α : Type} [DecidableEq α] (d : Nat → α) (m : List (Nat × α)) (k : Nat) : List α → List (Nat × α)
  | [] => m
  | v :: vs => sputs d (sput d m k v) (k + 1) vs

/-- Read `n` consecutive values from `k` on. -/
def sgets {α : Type} (d : Nat → α) (m : List (Nat × α)) (k : Nat) : Nat → List α
  | 0 => []
  | n + 1 => sget d m k :: sgets d m (k + 1) n

/-- The number held little-endian by bytes (R6). -/
def leNat : List Byte → Nat
  | [] => 0
  | b :: bs => b.toNat + 256 * leNat bs

/-- The `n` little-endian bytes of a number (R6). -/
def leBytes : Nat → Nat → List Byte
  | 0, _ => []
  | n + 1, v => BitVec.ofNat 8 v :: leBytes n (v / 256)

/-- Bits [lo+w−1:lo] of a number. -/
def bitsOf (n lo w : Nat) : Nat := n / 2 ^ lo % 2 ^ w

/-- Bit `i` of a number. -/
def bitAt (n i : Nat) : Bool := n / 2 ^ i % 2 == 1

/-- A field of a bit vector, as a number. -/
def field {n : Nat} (v : BitVec n) (lo w : Nat) : Nat := v.toNat / 2 ^ lo % 2 ^ w

/-- Replace bits [lo+w−1:lo] of a number. -/
def setBits (n lo w v : Nat) : Nat := n - bitsOf n lo w * 2 ^ lo + v % 2 ^ w * 2 ^ lo

/-- `n` rounded up to a multiple of `k`. -/
def upTo (k n : Nat) : Nat := (n + (k - 1)) / k * k

/-- ⌈a / b⌉. -/
def cdiv (a b : Nat) : Nat := (a + (b - 1)) / b

/-- P(x) = 64 × ⌈x / 64⌉ of the section table. -/
def p64 (x : Nat) : Nat := 64 * cdiv x 64

/-- The two's-complement number in the low `w` bits of `n`. -/
def signed (w n : Nat) : Int := if n % 2 ^ w < 2 ^ (w - 1) then ((n % 2 ^ w : Nat) : Int) else ((n % 2 ^ w : Nat) : Int) - 2 ^ w

/-- The low `w` bits of an integer, as a number. -/
def unsignedOf (w : Nat) (z : Int) : Nat := (z % (2 ^ w : Nat)).toNat

/-- Numbers lo, lo+1, …, lo+n−1. -/
def rangeFrom (lo n : Nat) : List Nat := List.range' lo n

/-- First element that satisfies `f`, with its position. -/
def findIdxOpt {α : Type} (f : α → Bool) (l : List α) : Option Nat :=
  (l.zipIdx.find? fun p => f p.1).map (·.2)

/-- Remove the first element that satisfies `f`. -/
def dropFirst {α : Type} (f : α → Bool) : List α → List α
  | [] => []
  | x :: xs => if f x then xs else x :: dropFirst f xs

/-- Keep a list sorted and without repeats while inserting. -/
def insertNat (k : Nat) : List Nat → List Nat
  | [] => [k]
  | x :: xs => if k < x then k :: x :: xs else if k = x then x :: xs else x :: insertNat k xs

/-- Insert in a list sorted by `before`. -/
def insertBy {α : Type} (before : α → α → Bool) (x : α) : List α → List α
  | [] => [x]
  | y :: ys => if before x y then x :: y :: ys else y :: insertBy before x ys

/-- Sort by `before`. -/
def sortBy {α : Type} (before : α → α → Bool) (l : List α) : List α := l.foldr (insertBy before) []

end Sys2Proof.Machine
end

