-- ==== Sys2Proof/Machine/Operands.lean ====
section
/-! DEFINITION. Operand forms: the fields of records the manual lays out (mask policies, tile slots, stream entries,
descriptors and program tags), read from their bits. -/

namespace Sys2Proof.Machine

/-- Fields of a mask policy (policy field map, R223). -/
def polTensor (p : BitVec 512) : Nat := field p 0 16
def polRows (p : BitVec 512) : Nat := field p 16 12
def polCols (p : BitVec 512) : Nat := field p 28 12
def polFmt (p : BitVec 512) : Nat := field p 40 4
def polConstant (p : BitVec 512) : Bool := field p 44 1 == 1
def polInitUse (p : BitVec 512) : Bool := field p 45 1 == 1
def polStates (p : BitVec 512) : Nat := field p 46 2
def polStateBf16 (p : BitVec 512) : Bool := field p 48 1 == 1
def polBudget (p : BitVec 512) : Nat := field p 64 64
def polCap (p : BitVec 512) : Nat := field p 128 16
def polGenStart (p : BitVec 512) : Nat := field p 160 32
def polTileBytes (p : BitVec 512) : Nat := field p 192 32
def polEditBytes (p : BitVec 512) : Nat := field p 224 32
def polRegion0 (p : BitVec 512) : Nat := field p 256 48
def polRegion1 (p : BitVec 512) : Nat := field p 320 48
def polEdit (p : BitVec 512) : Nat := field p 384 48
def polInit (p : BitVec 512) : Nat := field p 448 48

/-- tile_total. -/
def polTiles (p : BitVec 512) : Nat := polRows p * polCols p

/-- Bytes of one optimizer state (R224). -/
def polW (p : BitVec 512) : Nat := if polStateBf16 p then 2 else 4

/-- Offsets of the parts of a tile slot (tile-slot table, R224). -/
def slotFreezeBits (p : BitVec 512) : Nat := polTileBytes p
def slotFreezeVec (p : BitVec 512) : Nat := polTileBytes p + 8192
def slotMaster (p : BitVec 512) : Nat := slotFreezeVec p + p64 (cdiv (polCap p) 8)
def slotState (p : BitVec 512) (i : Nat) : Nat := slotMaster p + p64 (4 * polCap p) + i * p64 (polW p * polCap p)

/-- slot_bytes (R224). -/
def slotBytes (p : BitVec 512) : Nat := slotState p (polStates p)

/-- Fields of a stream entry (stream-entry field map, R307). -/
def strProducerFrond (e : BitVec 256) : Nat := field e 42 7
def strProducerSeq (e : BitVec 256) : Nat := field e 56 1
def strConsumerFrond (e : BitVec 256) : Nat := field e 64 7
def strConsumerSeq (e : BitVec 256) : Nat := field e 71 1
def strRingFrond (e : BitVec 256) : Nat := field e 80 7
def strRingInFrond (e : BitVec 256) : Bool := field e 87 1 == 1
def strKind (e : BitVec 256) : Nat := field e 88 1
def strBase (e : BitVec 256) : Nat := field e 96 48
def strPlan (e : BitVec 256) : Nat := field e 144 16
def strUnits (e : BitVec 256) : Nat := field e 160 16
def strDepth (e : BitVec 256) : Nat := field e 176 16
def strDrain (e : BitVec 256) : Nat := field e 192 16
def strBridge (e : BitVec 256) : Nat := field e 208 16

/-- Fields of the common descriptor header (R50), of a descriptor as a 512-bit number. -/
def dscKind (d : Nat) : Nat := bitsOf d 0 8
def dscFence (d : Nat) : Bool := bitAt d 8
def dscEnd (d : Nat) : Bool := bitAt d 9
def dscFlags (d : Nat) : Nat := bitsOf d 10 6
def dscStream (d : Nat) : Nat := bitsOf d 16 16
def dscLength (d : Nat) : Nat := bitsOf d 32 16
def dscSequence (d : Nat) : Nat := bitsOf d 48 16

/-- A field of a descriptor's body: body bit 0 is bit 64 of the descriptor. -/
def dscBody (d lo w : Nat) : Nat := bitsOf d (64 + lo) w

/-- Fields of a program tag (program-tag field map). -/
def tagRoute (t : Nat) : Nat := bitsOf t 0 1
def tagClass (t : Nat) : Nat := bitsOf t 1 4
def tagDim (t : Nat) : Nat := bitsOf t 5 3
def tagOrigin (t : Nat) : Nat := bitsOf t 8 24

/-- body_length of each descriptor kind, none for an unknown kind (R51; fixed by the owning chapters). -/
def kindLength : Nat → Option Nat
  | 0x01 => some 5
  | 0x02 => some 5
  | 0x03 => some 3
  | 0x10 => some 3
  | 0x11 => some 1
  | 0x12 => some 3
  | 0x13 => some 4
  | 0x20 => some 7
  | 0x21 => some 7
  | 0x30 => some 1
  | 0x31 => some 1
  | 0x32 => some 2
  | 0x33 => some 1
  | 0x40 => some 3
  | 0x41 => some 3
  | 0x42 => some 2
  | 0x50 => some 3
  | 0x51 => some 4
  | _ => none

/-- Whether the execute sequencer issues the kind; none for a kind either sequencer may issue (kind table, R378). -/
def kindExecute (k : Nat) : Option Bool :=
  if k = 0x30 ∨ k = 0x31 ∨ k = 0x33 then none
  else if k = 0x01 ∨ k = 0x02 ∨ k = 0x03 ∨ k = 0x32 then some false
  else some true

/-- The Hsiao column of data bit i: the i-th 7-bit value of weight 3 in ascending order (R427). -/
def hsiaoColumns : List Nat :=
  [0x07, 0x0B, 0x0D, 0x0E, 0x13, 0x15, 0x16, 0x19, 0x1A, 0x1C, 0x23, 0x25, 0x26, 0x29, 0x2A, 0x2C,
   0x31, 0x32, 0x34, 0x38, 0x43, 0x45, 0x46, 0x49, 0x4A, 0x4C, 0x51, 0x52, 0x54, 0x58, 0x61, 0x62]

/-- Column of bit i of a stored word: data, check bits, and the DDR5 address parity (R427, R430). -/
def hsiaoColumn (i : Nat) : Nat :=
  if i < 32 then hsiaoColumns.getD i 0 else if i < 39 then 2 ^ (i - 32) else 0x64

/-- Syndrome of an error pattern: the exclusive-or of the columns of its bits (R428). -/
def syndrome (pat : BitVec 40) : Nat :=
  (List.range 40).foldl (fun a i => if pat.getLsbD i then a ^^^ hsiaoColumn i else a) 0

/-- The check bits of a data word (R427). -/
def hsiaoCheck (w : Word) : Nat :=
  (List.range 32).foldl (fun a i => if w.getLsbD i then a ^^^ hsiaoColumn i else a) 0

/-- Address parity of a channel-local byte address: bits [37:6] (R430). -/
def addressParity (a : Nat) : Bool := (List.range 32).foldl (fun b i => b ^^ bitAt a (6 + i)) false

/-- What a reader finds in one stored word. -/
inductive WordRead where
  /-- Data to use differs from the data written in these bits; counted as corrected or not; the address parity's
  deviation after correction. -/
  | data (deviation : BitVec 32) (corrected : Bool) (parityBad : Bool)
  | poison
  | uncorrectable
  deriving DecidableEq, Repr

/-- The syndrome table (R428), with the parity column on DDR5 only (R430). -/
def readWord (ddr : Bool) (pat : BitVec 40) : WordRead :=
  let s := syndrome pat
  let dev : BitVec 32 := pat.setWidth 32
  let par := pat.getLsbD 39
  if s = 0 then .data dev false par
  else if s = 0x7F then .poison
  else if (List.range 7).any (fun j => s == 2 ^ j) then .data dev true par
  else match findIdxOpt (· == s) hsiaoColumns with
    | some i => .data (dev ^^^ (1#32 <<< i)) true par
    | none => if ddr && s == 0x64 then .data dev true (!par) else .uncorrectable

end Sys2Proof.Machine
end

