-- ==== Sys2Proof/Machine/Ops.lean ====
section
/-! DEFINITION. The named operations over the state that every family uses: accessors of the sparse stores, registers,
ledgers, free values, the Spore stream and fault records, device addresses and their resolution, reads and writes of
device memory and of the frond buffers with their error checking. -/

namespace Sys2Proof.Machine

/-- The three outcomes of a command. -/
abbrev Out := Host.Outcome State Fault Refusal

/-- A command that names a unit: no such unit exists outside the numbering table (R15). -/
def onUnit (exists_ : Bool) (s : State) : Out := if exists_ then .next s else .fault .noSuchUnit

/-- The serial fuse field, which SERIAL shows (R461, R565). -/
def Indusium.serial (x : Indusium) : Nat := bitsOf x.fuses.toNat 768 64

/-! ### Stores -/

def State.frond (s : State) (f : Nat) : Frond := sget (fun _ => Frond.reset) s.fronds f
def State.setFrond (s : State) (f : Nat) (x : Frond) : State :=
  { s with fronds := sput (fun _ => Frond.reset) s.fronds f x }
def State.modFrond (s : State) (f : Nat) (g : Frond → Frond) : State := s.setFrond f (g (s.frond f))

def State.part (s : State) (p : Nat) : Partition := sget (fun _ => Partition.reset) s.parts p
def State.setPart (s : State) (p : Nat) (x : Partition) : State :=
  { s with parts := sput (fun _ => Partition.reset) s.parts p x }
def State.modPart (s : State) (p : Nat) (g : Partition → Partition) : State := s.setPart p (g (s.part p))

def State.stream (s : State) (i : Nat) : Option Stream := sget (fun _ => none) s.streams i
def State.setStream (s : State) (i : Nat) (x : Option Stream) : State :=
  { s with streams := sput (fun _ => none) s.streams i x }

def State.slot (s : State) (m : Nat) : Option MaskSlot := sget (fun _ => none) s.slots m
def State.setSlot (s : State) (m : Nat) (x : Option MaskSlot) : State :=
  { s with slots := sput (fun _ => none) s.slots m x }

def State.mailbox (s : State) (m : Nat) : Mailbox := sget (fun _ => Mailbox.reset) s.mailboxes m
def State.setMailbox (s : State) (m : Nat) (x : Mailbox) : State :=
  { s with mailboxes := sput (fun _ => Mailbox.reset) s.mailboxes m x }

def State.port (s : State) (i : Nat) : Port := sget (fun _ => Port.reset) s.ports i
def State.setPort (s : State) (i : Nat) (x : Port) : State :=
  { s with ports := sput (fun _ => Port.reset) s.ports i x }
def State.modPort (s : State) (i : Nat) (g : Port → Port) : State := s.setPort i (g (s.port i))

/-- The reset value of every generator, as the log names it (entry 2). -/
def genReset : Dword := 0x9E3779B97F4A7C15
def State.gen (s : State) (i : Nat) : Dword := sget (fun _ => genReset) s.gens i
def State.setGen (s : State) (i : Nat) (v : Dword) : State := { s with gens := sput (fun _ => genReset) s.gens i v }

/-- Draw the next output of a generator (R86). -/
def State.draw (s : State) (i : Nat) : Dword × State :=
  let v := genStep' (s.gen i)
  (v, s.setGen i v)
where
  /-- The xorshift step of R86. -/
  genStep' (x : Dword) : Dword :=
    let x := x ^^^ (x <<< 13)
    let x := x ^^^ (x >>> 7)
    x ^^^ (x <<< 17)

/-! ### Free values -/

/-- A free value of `w` bits (log entry 4). -/
def State.freeBits (s : State) (w : Nat) : BitVec w × State :=
  (Config.freeBits w s.freeCtr, { s with freeCtr := s.freeCtr + 1 })

/-- A free choice. -/
def State.freeBool (s : State) : Bool × State := (Config.freeBool s.freeCtr, { s with freeCtr := s.freeCtr + 1 })

/-- A free number. -/
def State.freeNat (s : State) : Nat × State := (Config.freeNat s.freeCtr, { s with freeCtr := s.freeCtr + 1 })

/-! ### Registers -/

/-- Classes of the unit-class table. -/
def clsFrond : Nat := 1
def clsTuft : Nat := 2
def clsSoredia : Nat := 3
def clsBank : Nat := 4
def clsStack : Nat := 5
def clsChannel : Nat := 6
def clsPort : Nat := 7
def clsPart : Nat := 8
def clsUpdate : Nat := 9

/-- How many units a class has (unit-class table); 0 for no class. -/
def classCount : Nat → Nat
  | 1 => 128
  | 2 => 16
  | 3 => 16
  | 4 => 32
  | 5 => 8
  | 6 => 8
  | 7 => 16
  | 8 => 16
  | 9 => 16
  | _ => 0

/-- Offsets common to every unit window but the partition's PART_FAULT: status, last fault, LIVE_WRITE_COUNT. -/
def offStatus : Nat := 0x1100
def offFault : Nat := 0x1104
def offLive : Nat := 0x1108

def State.reg (s : State) (cls i off : Nat) : Dword := sget regReset s.regs (regKey cls i off)
def State.setReg (s : State) (cls i off : Nat) (v : Dword) : State :=
  { s with regs := sput regReset s.regs (regKey cls i off) v }

/-- Set bit `b` of a register. -/
def State.setBit (s : State) (cls i off b : Nat) : State := s.setReg cls i off (s.reg cls i off ||| (1#64 <<< b))

/-- Add to a 32-bit counter (log entry 10: it wraps at its width). -/
def State.count32 (s : State) (cls i off n : Nat) : State :=
  s.setReg cls i off (BitVec.ofNat 64 (((s.reg cls i off).toNat + n) % 2 ^ 32))

/-- Add to a 64-bit counter. -/
def State.count64 (s : State) (cls i off n : Nat) : State := s.setReg cls i off (s.reg cls i off + BitVec.ofNat 64 n)

/-- Count with a sticky status bit that an increment sets. -/
def State.countFlag (s : State) (cls i off n b : Nat) : State :=
  if n = 0 then s else (s.count32 cls i off n).setBit cls i offStatus b

/-! ### Ledgers -/

/-- The key of a ledger: partition (0xFF the package ledger), code, object (R53). -/
def ledgerKey (p code obj : Nat) : Nat := (p * 8 + code) * 0x10000 + obj

def State.ledger (s : State) (k : Nat) : Ledger := sget (fun _ => Ledger.zero) s.ledgers k
def State.setLedger (s : State) (k : Nat) (l : Ledger) : State :=
  { s with ledgers := sput (fun _ => Ledger.zero) s.ledgers k l }

/-- n counted as issued and in flight. -/
def Ledger.make (n : Nat) (l : Ledger) : Ledger :=
  { l with issued := l.issued + BitVec.ofNat 64 n, inFlight := l.inFlight + BitVec.ofNat 64 n }

/-- n counted as completed, no longer in flight. -/
def Ledger.take (n : Nat) (l : Ledger) : Ledger :=
  { l with completed := l.completed + BitVec.ofNat 64 n, inFlight := l.inFlight - BitVec.ofNat 64 n }

/-- Whether issued = completed + in flight (R54). -/
def Ledger.balanced (l : Ledger) : Bool := l.issued == l.completed + l.inFlight

def State.ledMake (s : State) (p code obj n : Nat) : State :=
  s.setLedger (ledgerKey p code obj) ((s.ledger (ledgerKey p code obj)).make n)
def State.ledTake (s : State) (p code obj n : Nat) : State :=
  s.setLedger (ledgerKey p code obj) ((s.ledger (ledgerKey p code obj)).take n)

/-- Every ledger of a partition restarts at zero (R60). -/
def State.ledRestart (s : State) (p : Nat) : State :=
  { s with ledgers := sclear (fun k => k / 0x10000 / 8 == p) s.ledgers }

/-! ### Interrupts and package fault bits -/

/-- Whether MSI-X vector v is masked: bit 0 of the vector control word of its table entry. -/
def State.vectorMasked (s : State) (v : Nat) : Bool :=
  (sget (fun _ => (0 : Byte)) s.msixTable (16 * v + 12)).getLsbD 0

/-- Raise an MSI-X vector: sent, or marked pending when masked (R460). -/
def State.raiseVector (s : State) (v : Nat) : State :=
  if s.vectorMasked v then { s with msixPending := s.msixPending ||| (1#19 <<< v) }
  else { s with host := { s.host with msi := v :: s.host.msi } }

/-- GLOBAL_FAULT. -/
def offGlobalFault : Nat := 0x104
def State.globalFault (s : State) : Dword := s.reg 0 0 offGlobalFault

/-- Set a bit of GLOBAL_FAULT: FAULT# is asserted (R526), and vector 18 is raised when the bit was 0 (R460). -/
def State.setGlobalFault (s : State) (b : Nat) : State :=
  let was := s.globalFault.getLsbD b
  let s := (s.setReg 0 0 offGlobalFault (s.globalFault ||| (1#64 <<< b)))
  let s := { s with pkg := { s.pkg with faultPin := true } }
  if was then s else s.raiseVector 18

/-! ### Records and packets -/

/-- What one record says (fault-record field map, R519). -/
structure Report where
  code : Nat
  subcode : Nat
  detail : Nat
  cls : Nat
  index : Nat
  partition : Option Nat
  desc : Option Nat
  /-- This fault stops its partition, or every partition. -/
  stops : Bool
  /-- The tick to record, when it is a guard's snapshot tag. -/
  tick : Option Nat
  deriving DecidableEq, Repr

/-- Fault codes (fault-code table). -/
def cOverrun : Nat := 0x0101
def cWaitCycle : Nat := 0x0102
def cImbalance : Nat := 0x0103
def cShape : Nat := 0x0201
def cOverflow : Nat := 0x0202
def cMisaligned : Nat := 0x0203
def cOverlap : Nat := 0x0204
def cLiveWrite : Nat := 0x0205
def cOverfull : Nat := 0x0301
def cIndexRange : Nat := 0x0302
def cBudget : Nat := 0x0303
def cSkew : Nat := 0x0401
def cSkip : Nat := 0x0402
def cUncorrectable : Nat := 0x0501
def cResidue : Nat := 0x0502
def cLinkDown : Nat := 0x0601
def cPeerTimeout : Nat := 0x0602
def cStale : Nat := 0x0603
def cPowerSlew : Nat := 0x0701
def cThermal : Nat := 0x0702
def cDupTicket : Nat := 0x0801
def cFeedShared : Nat := 0x0901
def cCopyLost : Nat := 0x0902

/-- The packet kind of a code (fault-code table, R478): 1 fault record, 2 event, 4 warning. -/
def packetKind (code : Nat) : Nat :=
  if code = cSkip ∨ code = cStale ∨ code = cDupTicket then 2 else if code = cFeedShared then 4 else 1

/-- TICK_COUNT as a number. -/
def State.tickNow (s : State) : Nat := s.tick.count.toNat

/-- The partition field of a record or a packet. -/
def partField : Option Nat → Nat
  | some p => p
  | none => 0xFF

/-- The 256-bit record (R519). -/
def State.record (s : State) (r : Report) (secondary : Bool) : BitVec 256 :=
  let epoch := match r.partition with
    | some p => (s.part p).epoch.toNat
    | none => 0
  BitVec.ofNat 256
    (r.code % 2 ^ 16 + partField r.partition * 2 ^ 16 + r.cls % 2 ^ 8 * 2 ^ 24 + r.index % 2 ^ 16 * 2 ^ 32
      + epoch * 2 ^ 48 + r.tick.getD s.tickNow % 2 ^ 64 * 2 ^ 64 + r.desc.getD 0 % 2 ^ 48 * 2 ^ 128
      + (if r.stops && !secondary then 2 ^ 176 else 0) + (if secondary then 2 ^ 177 else 0)
      + (if r.desc.isSome then 2 ^ 178 else 0) + r.subcode % 2 ^ 8 * 2 ^ 184 + r.detail % 2 ^ 64 * 2 ^ 192)

/-- The head of a packet; count and flags are written when it closes (head-item table, R478). -/
def headItem (p kind cls index tick : Nat) : Item :=
  BitVec.ofNat 128 (0x01 + p * 2 ^ 8 + kind * 2 ^ 24 + cls * 2 ^ 32 + index * 2 ^ 40 + tick * 2 ^ 64)

/-- A unit sends a packet over the rhizome: its items wait to arrive at the hub in order (R478, R482). -/
def State.post (s : State) (p : Option Nat) (kind cls index : Nat) (data : List Item) : State :=
  let items := headItem (partField p) kind cls index s.tickNow :: data
  { s with sporeOut := s.sporeOut ++
      [{ cls := cls, index := index, partition := partField p, total := items.length, items := items, closed := false }] }

/-- A trace item of a PART_TRACE class, sent when its bit is set. The manual gives the events and not the contents of
their items, which are free (log entry 6). -/
def State.traceEvent (s : State) (p bit : Nat) : State :=
  if (s.reg clsPart p 0x1140).getLsbD bit then
    let (v, s) := s.freeBits 128
    s.post (some p) 3 clsPart p [v]
  else s

/-- Keep a record in the fault log of its partition's epoch, or count it (R520). -/
def State.logRecord (s : State) (p : Nat) (r : BitVec 256) : State :=
  if (s.part p).faultLog.length < 16 then s.modPart p fun x => { x with faultLog := x.faultLog ++ [r] }
  else s.count32 clsPart p 0x1154 1

/-- A frond of p that raises RESIDUE_MISMATCH, or UNCORRECTABLE with source 5, is swept in recovery (R543). -/
def State.suspect (s : State) (p : Nat) (r : Report) : State :=
  if r.cls = clsFrond ∧ (r.code = cResidue ∨ (r.code = cUncorrectable ∧ r.detail / 2 ^ 60 = 5)) then
    s.modPart p fun x => { x with suspects := insertNat r.index x.suspects }
  else s

/-- Post a record as a fault, event or warning packet and log it (R520). -/
def State.postRecord (s : State) (r : Report) (secondary : Bool) : State :=
  let rec_ := s.record r secondary
  let k := packetKind r.code
  let data := if k = 1 then [rec_.setWidth 128, (rec_ >>> 128).setWidth 128]
    else [BitVec.ofNat 128 (r.code + r.detail % 2 ^ 64 * 2 ^ 64)]
  let s := s.post r.partition k r.cls r.index data
  match r.partition with
  | some p => (s.logRecord p rec_).suspect p r
  | none => s

/-- The raising unit's own FAULT register and fault bit (the hub has neither; FROND_STATUS has no fault bit). -/
def State.markUnit (s : State) (cls index code : Nat) : State :=
  if cls = 0 ∨ cls = clsPart then s
  else
    let s := s.setReg cls index offFault (BitVec.ofNat 64 code)
    if cls = clsFrond then s else s.setBit cls index offStatus 14

/-- A report that stops nothing. -/
def State.raiseReport (s : State) (r : Report) : State :=
  (s.markUnit r.cls r.index r.code).postRecord { r with stops := false }
    (match r.partition with | some p => (s.part p).faultCode != 0 | none => false)

/-- Whether a fault has stopped the partition in its present epoch (R525). -/
def State.hasFaulted (s : State) (p : Nat) : Bool := (s.part p).faultCode != 0

/-- A stopping fault of partition p (R522, R525, R526): the record, GLOBAL_FAULT, PART_STATUS and PART_FAULT; found in
a guard it stops at the edge (R523), otherwise a stop message goes to the hub. A later fault of the same epoch is
recorded with secondary set and changes nothing more. -/
def State.raiseStop (s : State) (p : Nat) (r : Report) (atEdge : Bool) : State :=
  let r := { r with partition := some p, stops := true }
  let s := s.markUnit r.cls r.index r.code
  if s.hasFaulted p then s.postRecord r true
  else
    let s := s.postRecord r false
    let s := (s.setGlobalFault (16 + p)).setBit clsPart p offStatus 14
    let s := s.setReg clsPart p offFault (BitVec.ofNat 64 r.code)
    let s := s.modPart p fun x =>
      { x with faultCode := r.code, faultTick := r.tick.getD s.tickNow, stopAtEdge := x.stopAtEdge || atEdge }
    if atEdge then s else { s with stopMsgs := s.stopMsgs ++ [p] }

/-- A report with no form of its own. -/
def Report.of (code subcode detail cls index : Nat) : Report :=
  { code := code, subcode := subcode, detail := detail, cls := cls, index := index, partition := none, desc := none,
    stops := false, tick := none }

/-- A stopping fault raised while a descriptor runs. -/
def State.descFault (s : State) (p code subcode detail cls index desc : Nat) : State :=
  s.raiseStop p { Report.of code subcode detail cls index with desc := some desc } false

/-! ### Device addresses -/

/-- Where a byte is stored: class and index of its store. -/
def storeOf (phys : Nat) : Nat × Nat :=
  if phys < 0x4000_0000 then (clsBank, (256 * bitsOf phys 29 1 + bitsOf phys 7 8) / 16)
  else if phys < 0x0200_0000_0000 then (clsStack, (phys - 0x0100_0000_0000) / 0x0018_0000_0000)
  else (clsChannel, (phys - 0x0200_0000_0000) / 0x0040_0000_0000)

/-- State of a controller (MEM_STATUS state): 0–7 stacks, 8–15 channels. -/
def State.memStateOf (s : State) (c : Nat) : Nat := sget (fun _ => 0) s.pkg.memState c

/-- Populated capacity of a controller in GiB. -/
def State.memCap (s : State) (c : Nat) : Nat := sget (fun _ => 0) s.pkg.memCapacity c

/-- Half of a device address (R292, R415). -/
def halfOfPhys (phys : Nat) : Nat :=
  if phys < 0x4000_0000 then bitsOf phys 29 1
  else if phys < 0x0200_0000_0000 then (phys - 0x0100_0000_0000) / 0x0018_0000_0000 / 4
  else (phys - 0x0200_0000_0000) / 0x0040_0000_0000 / 4

/-- The canonical address of an address outside the mask windows (R421, R422); none outside every region or in an
unpopulated part. -/
def State.resolveDirect (s : State) (a : Nat) : Option Nat :=
  if a < 0x4000_0000 then some a
  else if 0x0100_0000_0000 ≤ a ∧ a < 0x01C0_0000_0000 then
    let o := a - 0x0100_0000_0000
    if o % 0x0018_0000_0000 < s.memCap (o / 0x0018_0000_0000) * 2 ^ 30 then some a else none
  else if 0x0200_0000_0000 ≤ a ∧ a < 0x0400_0000_0000 then
    let o := a - 0x0200_0000_0000
    if o % 0x0040_0000_0000 < s.memCap (8 + o / 0x0040_0000_0000) * 2 ^ 30 then some a else none
  else if 0x0800_0000_0000 ≤ a ∧ a < 0x08C0_0000_0000 then
    let o := a - 0x0800_0000_0000
    let st := o / 2 ^ 11 % 8
    let off := o / 2 ^ 14 * 2 ^ 11 + o % 2048
    if (List.range 8).all (fun c => s.memStateOf c == 3) && decide (off < s.memCap st * 2 ^ 30) then
      some (0x0100_0000_0000 + st * 0x0018_0000_0000 + off)
    else none
  else none

/-- Address of a slot's active or alternate region. -/
def MaskSlot.activeBase (m : MaskSlot) : Nat := if m.region = 0 then polRegion0 m.policy else polRegion1 m.policy
def MaskSlot.alternateBase (m : MaskSlot) : Nat := if m.region = 0 then polRegion1 m.policy else polRegion0 m.policy

/-- Resolve a mask-window address to the active region (R225), for partition p. -/
def State.resolveWindow (s : State) (p : Option Nat) (a : Nat) : Option Nat :=
  if 0x1000_0000_0000 ≤ a ∧ a < 0x2000_0000_0000 then
    let o := a - 0x1000_0000_0000
    match s.slot (o / 0x0010_0000_0000) with
    | none => none
    | some m =>
      let x := o % 0x0010_0000_0000
      if x < polTiles m.policy * slotBytes m.policy && (match p with | none => true | some q => q == m.partition)
      then some (m.activeBase + x) else none
  else some a

/-- The canonical address of any device address, as partition p reaches it. -/
def State.resolve (s : State) (p : Option Nat) (a : Nat) : Option Nat :=
  (s.resolveWindow p a).bind s.resolveDirect

/-- The landing area (R293) and the Spore spill region are never granted. -/
def inLanding (phys : Nat) : Bool := decide (phys < 0x4000_0000) && decide (0x1FE0_0000 ≤ phys % 0x2000_0000)

/-- Bytes of a grant's blocks: 1 MiB for the Sphagnum, 256 MiB otherwise. -/
def grantBytes (g : Grant) : Nat := g.blocks * (if g.kind = 1 then 0x10_0000 else 0x1000_0000)

/-- Whether a canonical address lies in a grant, whichever view names it (R423). -/
def inGrant (phys : Nat) (g : Grant) : Bool :=
  if g.kind = 4 then
    -- an interleaved block holds the same aligned 32 MiB of every stack
    decide (0x0100_0000_0000 ≤ phys ∧ phys < 0x01C0_0000_0000) &&
      (let off := (phys - 0x0100_0000_0000) % 0x0018_0000_0000
       let lo := (g.base - 0x0800_0000_0000) / 8
       decide (lo ≤ off ∧ off < lo + g.blocks * 0x200_0000))
  else decide (g.base ≤ phys ∧ phys < g.base + grantBytes g)

/-- Whether partition p holds a canonical address in a grant, outside the landing area. -/
def State.holds (s : State) (p phys : Nat) : Bool :=
  !inLanding phys && (s.part p).grants.any (inGrant phys)

/-- The two names of a canonical address: its own, and an HBM4 byte's address in the interleaved view (R423). -/
def viewsOf (phys : Nat) : List Nat :=
  if 0x0100_0000_0000 ≤ phys ∧ phys < 0x01C0_0000_0000 then
    let o := phys - 0x0100_0000_0000
    let off := o % 0x0018_0000_0000
    [phys, 0x0800_0000_0000 + off / 2048 * 2 ^ 14 + o / 0x0018_0000_0000 * 2048 + off % 2048]
  else [phys]

/-- Whether a canonical address lies in a range of device addresses, whichever view names the range. -/
def inRange (base len phys : Nat) : Bool := (viewsOf phys).any fun a => decide (base ≤ a ∧ a < base + len)

/-- Whether an address lies in the program area that the last PLAN_LOAD of the partition bars from writes, tags included
(R52, R374). -/
def inProgram (x : Partition) (phys : Nat) : Bool :=
  match x.barred with
  | none => false
  | some r => inRange r.1 r.2 phys

/-- Whether a write by a frame program may not reach the address: the program area (R52) and the alternate region of
a masked tensor (R227). -/
def State.writeBarred (s : State) (p phys : Nat) : Bool :=
  inProgram (s.part p) phys ||
    s.slots.any (fun e => match e.2 with
      | some m => m.partition == p &&
          inRange m.alternateBase (polTiles m.policy * slotBytes m.policy) phys
      | none => false)

/-- Canonical address of a byte that partition p may read (or write); none is BUFFER_OVERFLOW (R28, R421). -/
def State.reach (s : State) (p : Nat) (write : Bool) (a : Nat) : Option Nat :=
  match s.resolve (some p) a with
  | none => none
  | some x => if s.holds p x && !(write && s.writeBarred p x) then some x else none

/-- First address of a list that partition p may not reach. -/
def State.firstBad (s : State) (p : Nat) (write : Bool) (as : List Nat) : Option Nat :=
  as.find? fun a => (s.reach p write a).isNone

/-! ### Device memory -/

def State.byteAt (s : State) (phys : Nat) : Byte := sget (fun _ => 0) s.mem phys
def State.putByte (s : State) (phys : Nat) (b : Byte) : State := { s with mem := sput (fun _ => 0) s.mem phys b }

/-- Write bytes at given canonical addresses, with no checking. -/
def putCells (m : List Host.Cell) : List (Nat × Byte) → List Host.Cell
  | [] => m
  | (a, b) :: r => putCells (sput (fun _ => 0) m a b) r

/-- The 64-byte units that a list of addresses touches, each once, ascending. -/
def unitsOf (as : List Nat) : List Nat := as.foldr (fun a l => insertNat (a / 64) l) []

/-- Errors a reader meets in one unit: cause (R435), or none; with the corrected words. -/
structure UnitCheck where
  cause : Option Nat
  corrected : Nat
  deriving DecidableEq, Repr

/-- What a stack or its interface has to report of a unit (R432). -/
def State.devErrOf (s : State) (u : Nat) : Nat := sget (fun _ => 0) s.devErr u

/-- The 16 stored words of a unit under the code (R428, R431, R433), and what an HBM4 stack reports of it (R432). -/
def State.checkUnit (s : State) (u : Nat) : UnitCheck :=
  if sget (fun _ => false) s.poison u then ⟨some 2, 0⟩
  else if s.devErrOf u ≠ 0 then (if s.devErrOf u = 1 then ⟨none, 1⟩ else ⟨some (s.devErrOf u), 0⟩)
  else
    let ddr := (storeOf (u * 64)).1 == clsChannel
    let ws := (List.range 16).map fun i => readWord ddr (sget (fun _ => 0) s.flips (u * 16 + i))
    let bad := ws.any fun w => match w with | .uncorrectable => true | _ => false
    let poi := ws.any fun w => match w with | .poison => true | _ => false
    let par := ddr && ws.any fun w => match w with | .data _ _ b => b | _ => false
    let n := (ws.filter fun w => match w with | .data _ c _ => c | _ => false).length
    ⟨if bad then some 1 else if poi then some 2 else if par then some 4 else none, n⟩

/-- The byte a reader uses at a canonical address, after correction. -/
def State.readByte (s : State) (phys : Nat) : Byte :=
  let ddr := (storeOf phys).1 == clsChannel
  match readWord ddr (sget (fun _ => 0) s.flips (phys / 4)) with
  | .data dev _ _ => s.byteAt phys ^^^ (dev >>> (8 * (phys % 4))).setWidth 8
  | _ => s.byteAt phys

/-- Clear the stored errors of a unit. -/
def State.cleanUnit (s : State) (u : Nat) : State :=
  { s with flips := sclear (fun k => k / 16 == u) s.flips, devErr := sput (fun _ => 0) s.devErr u 0 }

/-- Exclusive-or error patterns into the stored words from unit u on. -/
def State.flipWords (s : State) (u : Nat) (fs : List (Nat × BitVec 40)) : State :=
  { s with flips := fs.foldl (fun m f => sput (fun _ => (0 : BitVec 40)) m (16 * u + f.1) (sget (fun _ => (0 : BitVec 40)) m (16 * u + f.1) ^^^ f.2)) s.flips }

/-- Change stored data that no check guards: an error that an HBM4 stack misses (R432). -/
def State.flipData (s : State) (u : Nat) (fs : List (Nat × BitVec 40)) : State :=
  { s with mem := fs.foldl (fun m f => (List.range 4).foldl (fun m b =>
      let a := 64 * u + 4 * f.1 + b
      sput (fun _ => (0 : Byte)) m a (sget (fun _ => (0 : Byte)) m a ^^^ BitVec.setWidth 8 ((f.2 : BitVec 40) >>> (8 * b)))) m) s.mem }

/-- What a report says of a stack's unit: the cause of an uncorrectable error (R432), or 1 for a unit the stack corrected. -/
def reportCode (rep : DeviceReport) : Nat :=
  if 2 ≤ rep.parityFails then 6 else if rep.stackUncorrectable then 3 else if rep.recheckBad then 5
  else if rep.stackCorrected then 1 else 0

/-- What the device shows at unit u: patterns in words guarded by the Hsiao code; of a stack errors that it misses in its own
data, and its report. -/
def State.show (s : State) (u : Nat) (rep : DeviceReport) : State :=
  if (storeOf (u * 64)).1 = clsStack then
    let s := s.flipData u rep.flips
    if reportCode rep = 0 then s else { s with devErr := sput (fun _ => 0) s.devErr u (reportCode rep) }
  else s.flipWords u rep.flips

/-- What the devices show before a row. -/
def State.showAll (s : State) (rs : List (Nat × DeviceReport)) : State := rs.foldl (fun s r => s.show r.1 r.2) s

/-- Store a corrected word again: its data as a reader uses it, without the error. A word that cannot be corrected, or whose
address parity is wrong, stays as it is. -/
def State.mendWord (s : State) (w : Nat) : State :=
  let ddr := (storeOf (w * 4)).1 == clsChannel
  match readWord ddr (sget (fun _ => (0 : BitVec 40)) s.flips w) with
  | .data d _ false =>
    { s with flips := sput (fun _ => (0 : BitVec 40)) s.flips w 0
             mem := if d = 0 then s.mem else (List.range 4).foldl (fun m b =>
               sput (fun _ => (0 : Byte)) m (4 * w + b) (sget (fun _ => (0 : Byte)) m (4 * w + b) ^^^ (d >>> (8 * b)).setWidth 8)) s.mem }
  | _ => s

/-- Write the corrected words of a unit back (R297, R436, R645). -/
def State.writeBack (s : State) (u : Nat) : State :=
  let s := (List.range 16).foldl (fun s i => s.mendWord (16 * u + i)) s
  if s.devErrOf u = 1 then { s with devErr := sput (fun _ => 0) s.devErr u 0 } else s

/-- Poison a unit in the store that holds it (R433, R435). -/
def State.poisonUnit (s : State) (u : Nat) : State :=
  { s.cleanUnit u with poison := sput (fun _ => false) s.poison u true }

/-- Source code and unit of the UNCORRECTABLE detail for a store. -/
def uncDetail (phys cause : Nat) : Nat :=
  let (c, i) := storeOf phys
  let src := if c = clsBank then 1 else if c = clsStack then 2 else 3
  src * 2 ^ 60 + cause * 2 ^ 56 + (if c = clsBank then 0 else i) * 2 ^ 52 + phys / 64 * 64

/-- Count at the store what a reader found: corrected words with their write-back (R297, R645), uncorrectable errors
with the poisoning of the unit (R435), and reads of poison. -/
def State.noteUnit (s : State) (u : Nat) (c : UnitCheck) : State :=
  let (cl, ix) := storeOf (u * 64)
  let s := if c.corrected = 0 then s
    else if cl = clsBank then
      let s := s.countFlag cl ix 0x1140 c.corrected 12
      { s with hyphae := { s.hyphae with correct := insertNat (u * 64 / 128) s.hyphae.correct } }
    else
      let s := s.countFlag cl ix 0x1120 c.corrected 13
      { s with writebacks := insertNat u s.writebacks }
  match c.cause with
  | none => s
  | some 2 => if cl = clsBank then s else s.count32 cl ix 0x112C 1
  | some k =>
    let s := s.poisonUnit u
    if cl = clsBank then s
    else
      let s := (s.countFlag cl ix 0x1124 1 12).setReg cl ix 0x1140 (BitVec.ofNat 64 (u * 64))
      if k = 4 then s.count32 cl ix 0x1128 1 else s

/-- Whether a unit is the first of its 128-byte line that an access touches. -/
def lineHead (us : List Nat) (u : Nat) : Bool := u % 2 == 0 || !us.contains (u - 1)

/-- Count the bytes and lines of an access at each store it touches: ledger 0x5 as issued and acknowledged (R53), the
bank's lines, the controller's units, and the landing line of a memory access (R294; its bank group is free). `head` says
that the unit is the first of its line in the access. -/
def State.countUnit (s : State) (p : Option Nat) (write head : Bool) (u n : Nat) : State :=
  let (cl, ix) := storeOf (u * 64)
  let s := match p with
    | some q => (s.ledMake q 5 (cl * 256 + ix) n).ledTake q 5 (cl * 256 + ix) n
    | none => s
  if cl = clsBank then s.count64 cl ix (if write then 0x1118 else 0x1110) (if head then 1 else 0)
  else
    let s := s.count64 cl ix (if write then 0x1118 else 0x1110) 1
    let (g, s) := s.freeNat
    let g := 16 * halfOfPhys (u * 64) + g % 16
    (s.count64 clsBank g 0x1110 1).count64 clsBank g 0x1118 1

/-- A read by a partition or by the firmware, of any device addresses already resolved: the bytes, and the first unit
that could not be read, with its cause. -/
structure ReadResult where
  state : State
  bytes : List Byte
  bad : Option (Nat × Nat)

/-- Read resolved addresses: check each unit, count, correct, poison; the bytes after correction. -/
def State.readPhys (s : State) (p : Option Nat) (as : List Nat) : ReadResult :=
  let us := unitsOf as
  let bytes := as.map s.readByte
  let checks := us.map fun u => (u, s.checkUnit u)
  let bad := (checks.findSome? fun c => c.2.cause.map fun k => (c.1, k))
  let s := checks.foldl (fun s c => (s.noteUnit c.1 c.2).countUnit p false (lineHead us c.1) c.1 ((as.filter fun a => a / 64 == c.1).length)) s
  { state := s, bytes := bytes, bad := bad }

/-- Read device memory without checking or counting: how the firmware and the tick logic look at it where the manual
counts nothing. -/
def State.peek (s : State) (p : Option Nat) (a n : Nat) : List Byte :=
  (rangeFrom a n).map fun x => match s.resolve p x with
    | some y => s.readByte y
    | none => 0

/-- A number read from device memory. -/
def State.peekNat (s : State) (p : Option Nat) (a n : Nat) : Nat := leNat (s.peek p a n)

/-! ### Protected pages (R546, R549, R550, R554) -/

/-- One entry of the protection table (R546). -/
structure ProtEntry where
  kind : Nat
  mirror : Bool
  snapshot : Bool
  policy : Nat
  base : Nat
  length : Nat
  deriving DecidableEq, Repr, Inhabited

/-- The protection table's header. -/
structure ProtTable where
  interval : Nat
  toHost : Bool
  target : Nat
  size : Nat
  entries : List ProtEntry
  deriving DecidableEq, Repr, Inhabited

/-- The protection table of partition p, at resume_addr + 4,096; none when no table opens there. -/
def State.protTable (s : State) (p : Nat) : Option ProtTable :=
  match (s.part p).plan with
  | none => none
  | some pl =>
    let a := pl.resumeAddr + 4096
    if s.peekNat (some p) a 4 = 0x96085E1D then
      some { interval := s.peekNat (some p) (a + 8) 4, toHost := s.peekNat (some p) (a + 12) 1 % 2 == 1
             target := s.peekNat (some p) (a + 16) 8, size := s.peekNat (some p) (a + 24) 8
             entries := (List.range (s.peekNat (some p) (a + 4) 1)).map fun i =>
               let b := a + 64 + 32 * i
               { kind := s.peekNat (some p) b 1, mirror := s.peekNat (some p) (b + 1) 1 % 2 == 1
                 snapshot := s.peekNat (some p) (b + 1) 1 / 2 % 2 == 1 || s.pair.coFed
                 policy := s.peekNat (some p) (b + 2) 1, base := s.peekNat (some p) (b + 8) 8
                 length := s.peekNat (some p) (b + 16) 8 } }
    else none

/-- The slot of a masked entry. -/
def State.entrySlot (s : State) (p : Nat) (e : ProtEntry) : Option MaskSlot :=
  match (s.part p).plan with
  | none => none
  | some pl => (pl.slots[e.policy]?).bind s.slot

/-- Bytes of one region of a masked tensor. -/
def regionBytes (m : MaskSlot) : Nat := polTiles m.policy * slotBytes m.policy

/-- The device ranges of an entry, in the order of its pages: (base, length). -/
def State.entryRanges (s : State) (p : Nat) (e : ProtEntry) : List (Nat × Nat) :=
  if e.kind = 1 then [(e.base, e.length)]
  else match s.entrySlot p e with
    | some m => [(polRegion0 m.policy, regionBytes m), (polRegion1 m.policy, regionBytes m)]
    | none => []

/-- The range whose pages a snapshot of an entry copies: a dense entry's own, a masked entry's region of the drain. -/
def State.drainRange (s : State) (p ix : Nat) (e : ProtEntry) : Option (Nat × Nat) :=
  if e.kind = 1 then some (e.base, e.length)
  else match s.entrySlot p e with
    | some m =>
      let r := (((s.part p).protect.drainRegions.find? fun d => d.1 == ix).map (·.2)).getD m.region
      some (if r = 0 then polRegion0 m.policy else polRegion1 m.policy, regionBytes m)
    | none => none

/-- Offset of a canonical address in a list of device ranges laid one after another, each rounded up to whole pages. -/
def offsetIn (phys : Nat) : List (Nat × Nat) → Option Nat
  | [] => none
  | (b, n) :: r => match (viewsOf phys).find? fun a => decide (b ≤ a ∧ a < b + n) with
    | some a => some (a - b)
    | none => (offsetIn phys r).map (· + upTo 4096 n)

/-- The bytes a page of an entry holds now. -/
def State.pageBytes (s : State) (p : Nat) (rs : List (Nat × Nat)) (page : Nat) : List Byte :=
  match rs with
  | [] => []
  | (b, n) :: r =>
    if page < upTo 4096 n / 4096 then s.peek (some p) (b + 4096 * page) (min 4096 (n - 4096 * page))
    else State.pageBytes s p r (page - upTo 4096 n / 4096)

/-- The 64-byte pieces of a range of n bytes at `a` that no read gives: their units are poisoned, or hold an uncorrectable error,
which a copy carries as poison (R434). -/
def State.badPieces (s : State) (p : Option Nat) (a n : Nat) : List Nat :=
  (List.range (cdiv n 64)).filter fun j =>
    (unitsOf ((rangeFrom (a + 64 * j) (min 64 (n - 64 * j))).filterMap (s.resolve p))).any fun u => (s.checkUnit u).cause.isSome

/-- The bad pieces of a page. -/
def State.pageBad (s : State) (p : Nat) (rs : List (Nat × Nat)) (page : Nat) : List Nat :=
  match rs with
  | [] => []
  | (b, n) :: r =>
    if page < upTo 4096 n / 4096 then s.badPieces (some p) (b + 4096 * page) (min 4096 (n - 4096 * page))
    else State.pageBad s p r (page - upTo 4096 n / 4096)

/-- Poison goes with the data of a copy (R434): the units at `a` that take the pieces `js` are poisoned. -/
def State.carryPoison (s : State) (p : Option Nat) (a : Nat) (js : List Nat) : State :=
  js.foldl (fun s j => (unitsOf ((rangeFrom (a + 64 * j) 64).filterMap (s.resolve p))).foldl State.poisonUnit s) s

/-- Keep a pre-image once, with its bad pieces. -/
def keepPage (l : List (Nat × Nat × List Byte × List Nat)) (e pg : Nat) (bs : List Byte) (bad : List Nat) :
    List (Nat × Nat × List Byte × List Nat) :=
  if l.any (fun x => x.1 == e && x.2.1 == pg) then l else l ++ [(e, pg, bs, bad)]

/-- A page number set in a change map. -/
def markPage (l : List (Nat × Nat)) (e pg : Nat) : List (Nat × Nat) := if l.contains (e, pg) then l else l ++ [(e, pg)]

/-- What a coming write to canonical address `phys` does to the protection of partition p: it sets the page's bit in
both change maps of each mirror entry (R549); a page that waits to be sent, or to be copied to a snapshot image, keeps
what it held, as if the write waited for it (R550, R554), and the wait counts a free number of cycles (log entry 20). -/
def State.protectWriteOf (s : State) (p phys : Nat) : State :=
  match s.protTable p with
  | none => s
  | some t => t.entries.zipIdx.foldl (fun s ei =>
      let (e, ix) := ei
      let x := (s.part p).protect
      let s := if x.mirrorOn && e.mirror then
          match offsetIn phys (s.entryRanges p e) with
          | none => s
          | some o =>
            let pg := o / 4096
            let x' := { x with map0 := markPage x.map0 ix pg, map1 := markPage x.map1 ix pg }
            if x.toSend.contains (ix, pg) then
              let bs := s.pageBytes p (s.entryRanges p e) pg
              let bad := s.pageBad p (s.entryRanges p e) pg
              let (n, s) := s.freeNat
              (s.modPart p fun y => { y with protect := { x' with preMirror := keepPage x.preMirror ix pg bs bad } }).count32
                clsPart p 0x1170 n
            else s.modPart p fun y => { y with protect := x' }
        else s
      let x := (s.part p).protect
      if x.drain.isSome && e.snapshot && !x.drained.contains ix then
        match s.drainRange p ix e with
        | none => s
        | some r => match offsetIn phys [r] with
          | none => s
          | some o =>
            let bs := s.pageBytes p [r] (o / 4096)
            let bad := s.pageBad p [r] (o / 4096)
            let (n, s) := s.freeNat
            (s.modPart p fun y => { y with protect := { y.protect with preSnap := keepPage x.preSnap ix (o / 4096) bs bad } }).count32
              clsPart p 0x1170 n
      else s) s

/-- The same for every partition with a mirror or a drain in force. -/
def State.protectWrite (s : State) (phys : Nat) : State :=
  s.parts.foldl (fun s e =>
    if e.2.protect.mirrorOn || e.2.protect.drain.isSome then s.protectWriteOf e.1 phys else s) s

/-- Whether a write covers a whole 64-byte unit. -/
def coversUnit (as : List Nat) (u : Nat) : Bool := (List.range 64).all fun i => as.contains (u * 64 + i)

/-- What a write does: the state, and the first unit refused because a part of it is poisoned (R434). -/
structure WriteResult where
  state : State
  refused : Option (Nat × Nat)

/-- Write one unit's cells (R426, R434): a whole unit clears poison and errors; a part of a poisoned unit is refused;
a part of an unpoisoned unit is a read-modify-write, which corrects the unit and poisons it when it cannot. -/
def State.writeUnit (s : State) (p : Option Nat) (head : Bool) (u : Nat) (cells : List (Nat × Byte)) : State × Option Nat :=
  let (cl, ix) := storeOf (u * 64)
  let s := (s.protectWrite (u * 64)).countUnit p true head u cells.length
  let cancel := fun (s : State) => { s with writebacks := s.writebacks.filter (· != u) }
  if coversUnit (cells.map (·.1)) u then
    let s := cancel (s.cleanUnit u)
    ({ s with poison := sput (fun _ => false) s.poison u false, mem := putCells s.mem cells }, none)
  else
    let c := s.checkUnit u
    let s := if cl = clsBank then s else s.count32 cl ix 0x113C 1
    match c.cause with
    | some k =>
      let s := s.noteUnit u c
      (s, some (if k = 2 then 2 else k))
    | none =>
      let s := s.noteUnit u c
      let s := cancel (s.writeBack u)
      ({ s with mem := putCells s.mem cells }, none)

/-- Write resolved cells, each 64-byte unit judged on its own (R434). -/
def State.writePhys (s : State) (p : Option Nat) (cells : List (Nat × Byte)) : WriteResult :=
  let us := unitsOf (cells.map (·.1))
  us.foldl
    (fun r u =>
      let (s', bad) := r.state.writeUnit p (lineHead us u) u (cells.filter fun c => c.1 / 64 == u)
      { state := s', refused := r.refused.orElse fun _ => bad.map fun k => (u, k) })
    { state := s, refused := none }

/-- UNCORRECTABLE met by a descriptor of partition p (R434, R435), raised by a unit. A part of a poisoned unit, and
every later reader, raise cause 2. -/
def State.raiseUnc (s : State) (p cls index desc : Nat) (bad : Nat × Nat) : State :=
  let (c, i) := storeOf (bad.1 * 64)
  let (cls, index) := if bad.2 = 2 then (cls, index) else (c, i)
  s.descFault p cUncorrectable 0 (uncDetail (bad.1 * 64) bad.2) cls index desc

/-- BUFFER_OVERFLOW of an address (subcode 1 or 2), raised by a unit for a descriptor of p (R28). -/
def State.raiseOverflow (s : State) (p subcode addr cls index desc : Nat) : State :=
  s.descFault p cOverflow subcode (addr % 2 ^ 48) cls index desc

/-- Read device bytes for a descriptor of partition p run by unit (cls, index); none when the access faults. -/
def State.readFor (s : State) (p cls index desc : Nat) (as : List Nat) : State × Option (List Byte) :=
  match s.firstBad p false as with
  | some a => (s.raiseOverflow p 1 a cls index desc, none)
  | none =>
    let r := s.readPhys (some p) (as.map fun a => (s.reach p false a).getD 0)
    match r.bad with
    | some b => (r.state.raiseUnc p cls index desc b, none)
    | none => (r.state, some r.bytes)

/-- Write device bytes for a descriptor of partition p; the writes before the first address out of reach stand. -/
def State.writeFor (s : State) (p cls index desc : Nat) (cells : List (Nat × Byte)) : State × Bool :=
  let good := cells.takeWhile fun c => (s.reach p true c.1).isSome
  let w := s.writePhys (some p) (good.map fun c => ((s.reach p true c.1).getD 0, c.2))
  let s := match w.refused with
    | some b => w.state.raiseUnc p cls index desc (b.1, 2)
    | none => w.state
  match cells.drop good.length with
  | c :: _ => (s.raiseOverflow p 1 c.1 cls index desc, false)
  | [] => (s, w.refused.isNone)

/-- Pair consecutive addresses with bytes. -/
def cellsAt (a : Nat) (bs : List Byte) : List (Nat × Byte) := (rangeFrom a bs.length).zip bs

/-- Whether any unit of a range is poisoned or holds an uncorrectable error; the first such with its cause. -/
def State.probe (s : State) (p : Option Nat) (a n : Nat) : Option (Nat × Nat) :=
  (unitsOf ((rangeFrom a n).filterMap (s.resolve p))).findSome? fun u => (s.checkUnit u).cause.map fun k => (u, k)

/-- The least address, among the starts of the regions where a range may lie, at which it is acceptable; 0 where there is none
(R477). -/
def leastOf (starts : List Nat) (ok : Nat → Bool) : Nat :=
  match starts.filter ok with
  | [] => 0
  | a :: r => r.foldl min a

/-- Starts of the regions of populated memory: the Sphagnum, each stack in its own view, and each channel. -/
def regionStarts : List Nat :=
  0 :: (List.range 8).map (fun k => 0x0100_0000_0000 + k * 0x0018_0000_0000) ++ (List.range 8).map fun k => 0x0200_0000_0000 + k * 0x0040_0000_0000

/-- The least device address at which n bytes are populated memory. -/
def State.leastSource (s : State) (n : Nat) : Nat :=
  leastOf regionStarts fun a => (unitsOf (rangeFrom a n)).all fun u => (s.resolve none (u * 64)).isSome

/-! ### Frond buffers -/

def frondBytes : Nat := 0x30_0000
def State.bufByte (s : State) (f a : Nat) : Byte := sget (fun _ => 0) s.fbuf (f * frondBytes + a)
def State.bufRead (s : State) (f a n : Nat) : List Byte := sgets (fun _ => 0) s.fbuf (f * frondBytes + a) n
def State.bufNat (s : State) (f a n : Nat) : Nat := leNat (s.bufRead f a n)

/-! ### Partitions and fronds -/

/-- The partition that holds frond f in its grant (R22: at most one). -/
def State.ownerOf (s : State) (f : Nat) : Option Nat :=
  (List.range 16).find? fun p => (s.part p).state != .free && (s.part p).fronds.getLsbD f

/-- Whether a partition's work runs: running, or stopping until its tick (R393). -/
def Partition.active (x : Partition) : Bool := x.state == .running || x.state == .stopping

/-- The partition whose descriptors frond f may execute now (R24). -/
def State.workOf (s : State) (f : Nat) : Option Nat :=
  match s.ownerOf f with
  | some p =>
    let x := s.part p
    let fr := s.frond f
    if x.active && x.faultCode == 0 && !fr.stopped && !fr.retired && !fr.inReset then some p else none
  | none => none

/-- Ports, bank groups and units number by tuft and half (R15). -/
def tuftOf (f : Nat) : Nat := f / 8
def halfOf (f : Nat) : Nat := f / 64

/-- The sequencer of a frond. -/
def Frond.sq (x : Frond) : SeqSel → Sequencer
  | .fetch => x.fetch
  | .execute => x.execute

def Frond.setSq (x : Frond) (q : SeqSel) (v : Sequencer) : Frond :=
  match q with
  | .fetch => { x with fetch := v }
  | .execute => { x with execute := v }

/-- The route-table entry for a chip other than this one (R492). -/
def State.routeTo (s : State) (chip : Nat) : Option Route := s.routes.find? fun r => r.chip == chip && !r.self

/-- Whether partition p uses Pliund port i: a peer of it, or the partner of its mirror, is routed through the port (users
field of PLN_STATUS; R410 says only "every partition that uses them": DEDUCED, log entry 115). -/
def State.usesPort (s : State) (p i : Nat) : Bool :=
  let x := s.part p
  let via := fun chip => (s.routeTo chip).any fun r => r.port == i || (r.altValid && r.altPort == i)
  x.peers.any (fun y => via y.chip) || (x.protect.mirrorOn && via x.protect.partner)

/-- Partitions that use a unit: a frond and a partition unit serve their own partition; the units shared by class. -/
def State.serves (s : State) (cls index p : Nat) : Bool :=
  let x := s.part p
  if x.state == .free then false
  else match cls with
    | 1 => x.fronds.getLsbD index
    | 2 | 3 | 9 => (List.range 8).any fun i => x.fronds.getLsbD (8 * index + i)
    | 4 => x.grants.any fun g => g.kind == 1 && decide (g.base / 0x2000_0000 = index / 16)
    | 5 => x.grants.any fun g => g.kind == 4 || (g.kind == 2 && decide ((g.base - 0x0100_0000_0000) / 0x0018_0000_0000 = index))
    | 6 => x.grants.any fun g => g.kind == 3 && decide ((g.base - 0x0200_0000_0000) / 0x0040_0000_0000 = index)
    | 7 => s.usesPort p index
    | 8 => index == p
    | _ => false

/-- A unit is running while any partition it serves runs or stops (R410). -/
def State.unitRunning (s : State) (cls index : Nat) : Bool :=
  (List.range 16).any fun p => (s.part p).active && s.serves cls index p

/-- A write of `value` to an RW field of a running unit is refused (R9, R412): counted, LIVE_WRITE set in the unit's
status, and one record in each tick (R528); the window offset in its detail counts from 0x0_1100 (log entry 31). -/
def State.refuseLive (s : State) (cls i off value : Nat) : State :=
  let s := (s.count32 cls i offLive 1).setBit cls i offStatus 15
  if s.livePosted.contains (cls, i) then s
  else
    { s with livePosted := (cls, i) :: s.livePosted }.raiseReport
      { Report.of cLiveWrite 0 (value % 2 ^ 32 * 2 ^ 32 + (off - 0x1100) % 2 ^ 12) cls i with
        partition := if cls = clsPart then some i else if cls = clsFrond then s.ownerOf i else none }

end Sys2Proof.Machine
end

