-- ==== Sys2Proof/Machine/Answer.lean ====
section
/-! DEFINITION. The Linso mailboxes: taking commands on the rota, their checks, the order they run in, and the responses
(R466 to R477). -/

namespace Sys2Proof.Machine

/-! ### Status codes (status table) -/

def stOk : Nat := 0x00
def stAccepted : Nat := 0x01
def stBusy : Nat := 0x02
def stBadArg : Nat := 0x10
def stNotAllowed : Nat := 0x11
def stVerify : Nat := 0x12
def stFaulted : Nat := 0x20
def stNoPartner : Nat := 0x21
def stFeedShared : Nat := 0x22

/-! ### Areas -/

/-- BAR0 offsets of the command and the response area of mailbox m. -/
def cmdArea (m : Nat) : Nat := 0x2_0000 + 8192 * m
def respArea (m : Nat) : Nat := cmdArea m + 4096

def State.areaBytes (s : State) (off n : Nat) : List Byte := sgets (fun _ => (0 : Byte)) s.mbArea off n
def State.areaNat (s : State) (off n : Nat) : Nat := leNat (s.areaBytes off n)
def State.areaWrite (s : State) (off : Nat) (bs : List Byte) : State :=
  { s with mbArea := sputs (fun _ => (0 : Byte)) s.mbArea off bs }

/-- A field of a command's arguments, by its offset from argument byte 0. -/
def Taken.arg (t : Taken) (off n : Nat) : Nat := leNat ((t.args.drop off).take n)

/-! ### Responses -/

/-- Response header (response-header table). -/
def respHeader (t : Taken) (status len : Nat) : List Byte :=
  [BitVec.ofNat 8 status, BitVec.ofNat 8 t.opcode] ++ leBytes 2 len ++ leBytes 4 t.seq.toNat ++ leBytes 8 t.tag.toNat

/-- Write a response (R469): the result, the header, then MB_RESP_SEQ and MB_RESP_STATUS; a final one ends the command
and raises the mailbox's vector when its irq flag is set (R460). -/
def State.writeResponse (s : State) (m : Nat) (t : Taken) (status : Nat) (result : List Byte) : State :=
  let final := status != stAccepted
  let s := (s.areaWrite (respArea m + 16) result).areaWrite (respArea m) (respHeader t status result.length)
  let s := s.setMailbox m
    { s.mailbox m with
      respSeq := t.seq
      respStatus := BitVec.ofNat 32 ((if final then 2 ^ 16 else 0) + t.opcode % 256 * 256 + status)
      outstanding := if final then none else some { t with begun := true } }
  if final then
    let s := { s with mbTaken := s.mbTaken.filter (· != m) }
    if t.irq then s.raiseVector m else s
  else s

/-- Respond to the command outstanding in mailbox m. -/
def State.respond (s : State) (m status : Nat) (result : List Byte) : State :=
  match (s.mailbox m).outstanding with
  | none => s
  | some t => s.writeResponse m t status result

/-- OK with a result. -/
def State.ok (s : State) (m : Nat) (result : List Byte) : State := s.respond m stOk result

/-- ACCEPTED: the final response follows. -/
def State.accept (s : State) (m : Nat) : State := s.respond m stAccepted []

/-- BAD_ARG with the first bad field and the least acceptable value (error-result table). -/
def State.badArg (s : State) (m off least : Nat) : State :=
  s.respond m stBadArg (leBytes 2 off ++ List.replicate 6 0 ++ leBytes 8 least)

/-- BAD_ARG where no argument field is at fault: the offset it carries is not stated (log entry 26). -/
def State.badCommand (s : State) (m : Nat) : State :=
  let (n, s) := s.freeNat
  s.badArg m n 0

/-- NOT_ALLOWED with a state code; 0xFF for a package-scoped refusal. -/
def State.notAllowed (s : State) (m code : Nat) : State := s.respond m stNotAllowed [BitVec.ofNat 8 code]

/-- VERIFY_FAILED (error-result table). -/
def State.verifyFailed (s : State) (m sect cls off : Nat) : State :=
  s.respond m stVerify (leBytes 2 sect ++ leBytes 1 cls ++ List.replicate 5 0 ++ leBytes 8 off)

/-- FAULTED with a fault code and its tick. -/
def State.answerFaulted (s : State) (m code tick : Nat) : State :=
  s.respond m stFaulted (leBytes 2 code ++ List.replicate 6 0 ++ leBytes 8 tick)

/-! ### Scopes and states -/

/-- The code of a partition state (partition-state table). -/
def PState.code : PState → Nat
  | .free => 0
  | .created => 1
  | .loaded => 2
  | .verified => 3
  | .running => 4
  | .stopping => 5
  | .stopped => 6
  | .preempted => 7
  | .faulted => 8
  | .recovering => 9

/-- Commands that act on one partition (Linso command table), DUMP and COUNTERS_READ by their scope field. -/
def Taken.scoped (t : Taken) : Bool :=
  [0x10, 0x11, 0x12, 0x20, 0x21, 0x22, 0x23, 0x24, 0x30, 0x31, 0x32, 0x82, 0x83].contains t.opcode
    || ((t.opcode == 0x60 || t.opcode == 0x61) && t.arg 8 1 == 1)

/-- The partition a command names (R474): the mailbox's own, or argument byte 0 in mailbox 0. -/
def Taken.target (m : Nat) (t : Taken) : Option Nat :=
  if t.scoped then some (if m = 0 then t.arg 0 1 else m - 1) else none

/-- arg_len of a command (R475); none for an unknown opcode. -/
def Taken.argLen (t : Taken) : Option Nat :=
  match t.opcode with
  | 0x01 | 0x02 | 0x11 | 0x21 | 0x23 | 0x24 => some 8
  | 0x10 | 0x12 => some (80 + 16 * t.arg 72 2)
  | 0x20 | 0x31 | 0x32 | 0x60 | 0x61 | 0x70 | 0x72 | 0x81 => some 32
  | 0x22 | 0x30 => some 24
  | 0x33 | 0x50 | 0x51 | 0x80 | 0x82 | 0x83 => some 16
  | 0x71 => some 40
  | _ => none

/-- Whether a command may be posted in mailbox 0 only (Mailbox column). -/
def adminOnly (op : Nat) : Bool := [0x10, 0x33, 0x50, 0x51, 0x70, 0x72, 0x80, 0x81].contains op

/-- Commands that change package-wide state run one at a time (R472). -/
def packageWide (op : Nat) : Bool :=
  [0x10, 0x11, 0x12, 0x32, 0x33, 0x50, 0x51, 0x70, 0x72, 0x80, 0x81].contains op

/-- First non-zero byte among argument bytes 1 to 7 (R474). -/
def Taken.badHead (t : Taken) : Option Nat := (rangeFrom 1 7).find? fun i => t.arg i 1 != 0

/-- Whether argument byte 0 may stand in mailbox m (R474). -/
def Taken.byte0Ok (m : Nat) (t : Taken) : Bool :=
  let b := t.arg 0 1
  if m = 0 then
    if t.opcode = 0x10 then decide (b < 16) || b == 0xFF
    else if t.scoped then decide (b < 16) else b == 0xFF
  else b == m - 1 || b == 0xFF

/-- Least acceptable value of argument byte 0 in mailbox m (R474, R477). -/
def Taken.leastByte0 (m : Nat) (t : Taken) : Nat := if m ≠ 0 then m - 1 else if t.scoped then 0 else 0xFF

/-- The checks made when a command is taken (R466, R474 to R477): its length and its flags, then byte 0, then bytes 1 to 7; the boot ROM accepts IDENTIFY and FW_UPDATE from the host (R571). -/
def State.takeChecks (s : State) (m : Nat) (t : Taken) : State :=
  match t.argLen with
  | none => s.badCommand m
  | some n =>
    if t.len ≠ n ∨ 4080 < t.len ∨ t.flags / 2 ≠ 0 then s.badCommand m
    else if !t.byte0Ok m then s.badArg m 0 (t.leastByte0 m)
    else match t.badHead with
      | some off => s.badArg m off 0
      | none =>
        if adminOnly t.opcode && m != 0 then s.notAllowed m 0xFF
        else if s.indus.hostServing && t.opcode != 0x01 && !(t.opcode == 0x70 && t.arg 8 1 == 0) then s.notAllowed m 0xFF
        else s

/-! ### Taking commands -/

/-- The command in the area of mailbox m. -/
def State.commandIn (s : State) (m : Nat) : Taken :=
  let a := cmdArea m
  { opcode := s.areaNat a 1, irq := s.areaNat (a + 1) 1 % 2 == 1, flags := s.areaNat (a + 1) 1, len := s.areaNat (a + 2) 2, seq := BitVec.ofNat 32 (s.areaNat (a + 4) 4)
    tag := BitVec.ofNat 64 (s.areaNat (a + 8) 8), args := s.areaBytes (a + 16) (min (s.areaNat (a + 2) 2) 4080), begun := false }

/-- A sequence fault: MB_TAKEN takes MB_CMD_SEQ and BAD_ARG answers it (R468). -/
def State.seqFault (s : State) (m : Nat) : State :=
  let b := s.mailbox m
  let s := s.setMailbox m
    { b with taken := b.cmdSeq, disagrees := false, outstanding := some { s.commandIn m with seq := b.cmdSeq } }
  s.badCommand m

/-- Whether the firmware serves mailbox m: at fw_state 3, and mailbox 0 from the boot ROM (R571, R616). -/
def State.mbServed (s : State) (m : Nat) : Bool :=
  s.pkg.pwrOk && !s.pkg.inWarmReset && (s.pkg.fwState == 3 || (s.indus.hostServing && m == 0))

/-- One mailbox of a rota (R468, R471). -/
def State.rotaOne (s : State) (m : Nat) : State :=
  let b := s.mailbox m
  if b.cmdSeq == b.taken || b.outstanding.isSome || !s.mbServed m then s
  else if b.cmdSeq != b.taken + 1 then s.seqFault m
  else
    let t := s.commandIn m
    if t.seq != b.cmdSeq then s.setMailbox m { b with disagrees := true }
    else
      let s := s.setMailbox m { b with taken := b.cmdSeq, disagrees := false, outstanding := some t }
      ({ s with mbTaken := s.mbTaken ++ [m] }).takeChecks m t

/-- MAILBOX_ROTA: the 17 headers in ascending order (R468). -/
def execMailboxRota (s : State) : Out := .next ((List.range 17).foldl State.rotaOne s)

/-- 500 µs of disagreement between the area's seq and MB_CMD_SEQ (R468). -/
def execMailboxSeqTimeout (m : Nat) (s : State) : Out :=
  onUnit (decide (m < 17)) (if (s.mailbox m).disagrees && (s.mailbox m).outstanding.isNone then s.seqFault m else s)

/-! ### Running commands -/

/-- Whether a command taken earlier holds this one back (R472): PREEMPT and PARTITION_DESTROY act at once whatever else
is outstanding for the partition, and a COUNTERS_READ that arrives while another waits for its hold is answered BUSY
(R414). -/
def State.heldBehind (s : State) (m : Nat) (t : Taken) : Bool :=
  (s.mbTaken.takeWhile (· != m)).any fun k => match (s.mailbox k).outstanding with
    | none => false
    | some e =>
      !(t.opcode == 0x61 && e.opcode == 0x61 && e.begun) && (
      (packageWide t.opcode && packageWide e.opcode && !(t.opcode == 0x11 && e.target k == t.target m))
        || (t.opcode != 0x24 && t.opcode != 0x11 && (t.target m).isSome && t.target m == e.target k))

/-- Commands that each partition state accepts (partition-state table, R538). -/
def accepts (st : PState) (ready : Bool) (op : Nat) : Bool :=
  if op = 0x60 ∨ op = 0x61 then true
  else match st with
    | .free => op == 0x10
    | .created => [0x20, 0x12, 0x11].contains op
    | .loaded => [0x20, 0x21, 0x31, 0x32, 0x12, 0x11].contains op
    | .verified => [0x20, 0x22, 0x31, 0x32, 0x82, 0x83, 0x12, 0x11].contains op
    | .running => [0x23, 0x24, 0x11].contains op
    | .stopping => [0x24, 0x11].contains op
    | .stopped | .preempted => [0x20, 0x22, 0x24, 0x30, 0x31, 0x32, 0x82, 0x83, 0x12, 0x11].contains op
    | .faulted => [0x23, 0x11].contains op
    | .recovering => op == 0x11 || (ready && [0x20, 0x21, 0x22, 0x30, 0x31, 0x32, 0x82, 0x83, 0x12].contains op)

/-- Judge a partition-scoped command against the state of its partition when it runs (R393, R472, R538): none when it is
accepted, otherwise its answer. -/
def State.judge (s : State) (m p op : Nat) : Option State :=
  let x := s.part p
  if accepts x.state x.ready op then none
  else match x.state with
    | .faulted => some (s.answerFaulted m x.faultCode x.faultTick)
    | .recovering => some (if x.ready then s.notAllowed m 9 else s.respond m stBusy [])
    | st => some (s.notAllowed m st.code)

/-- The response to a command that was taken and waits behind another (R470): ACCEPTED, once; its row runs it later. -/
def State.acceptHeld (s : State) (m : Nat) (t : Taken) : State :=
  let b := s.mailbox m
  if b.respSeq = t.seq then s
  else
    let s := s.accept m
    s.setMailbox m { s.mailbox m with outstanding := some t }

/-- A Linso row: the command outstanding in mailbox m has this opcode and form and has not begun; one that is held back is answered
ACCEPTED and waits. -/
def linsoRow (m op : Nat) (form : Taken → Bool) (run : Taken → State → State) (s : State) : Out :=
  onUnit (decide (m < 17))
    (match (s.mailbox m).outstanding with
     | none => s
     | some t =>
       if t.opcode == op && form t && !t.begun then (if s.heldBehind m t then s.acceptHeld m t else run t s) else s)

/-- A Linso row of one partition, judged against its state. -/
def linsoPart (m op : Nat) (form : Taken → Bool) (run : Nat → Taken → State → State) (s : State) : Out :=
  linsoRow m op form (fun t s =>
    let p := (t.target m).getD 0
    match s.judge m p op with
    | some s' => s'
    | none => run p t s) s

/-- Any form of an opcode. -/
def anyForm : Taken → Bool := fun _ => true

/-- Every command outstanding for partition p. -/
def State.outstandingFor (s : State) (p : Nat) : List Nat :=
  s.mbTaken.filter fun m => match (s.mailbox m).outstanding with
    | some t => t.target m == some p
    | none => false

/-- Commands outstanding for a partition that faults receive FAULTED (R476, R528). -/
def State.faultOutstanding (s : State) (p : Nat) : State :=
  let x := s.part p
  (s.outstandingFor p).foldl (fun s m => s.answerFaulted m x.faultCode x.faultTick) s

end Sys2Proof.Machine
end

