-- ==== Sys2Proof/WellFormed.lean ====
section
/-! DEFINITION. Which operands a command may carry: every field inside the width and the values its field map gives
it, with no reserved code. A descriptor row whose fields are outside its map is no descriptor of the manual; PLAN_VERIFY
rejects it (R51, R121, R136, R145, R218, R251 and the field maps), and `exec` stops on it by name. -/

namespace Sys2Proof

/-- A number of w bits. -/
def fits (w n : Nat) : Bool := decide (n < 2 ^ w)

/-- A number of w bits that is a multiple of k. -/
def aligned (k w n : Nat) : Bool := decide (n < 2 ^ w ∧ n % k = 0)

/-- lo ≤ n ≤ hi. -/
def within (lo hi n : Nat) : Bool := decide (lo ≤ n ∧ n ≤ hi)

/-- The header and tag fields (descriptor-header field map, program-tag field map). -/
def Issue.wf (i : Issue) : Bool :=
  fits 16 i.streamId && aligned 64 48 i.addr && fits 4 i.cls && fits 3 i.dim && fits 24 i.origin

/-- MOVE field map; format codes 0x0 to 0x8 as R346 gives them to a copy are judged where the copy runs. -/
def MoveBody.wf (b : MoveBody) : Bool :=
  fits 48 b.srcAddr && fits 7 b.srcFrond && (b.srcLayout == 0 || b.srcLayout == 2) && fits 3 b.srcSwz
    && fits 48 b.dstAddr && fits 7 b.dstFrond && within 0 2 b.dstLayout && fits 3 b.dstSwz
    && fits 48 b.srcScaleAddr && fits 48 b.dstScaleAddr && fits 8 b.shape && fits 4 b.srcFmt && fits 4 b.dstFmt
    && fits 8 b.numctl && fits 16 b.padValue && within 0 2 b.passes

/-- MULTICAST field map. -/
def MulticastBody.wf (b : MulticastBody) : Bool :=
  aligned 64 48 b.srcAddr && aligned 64 22 b.dstAddr && aligned 64 32 b.length && within 64 4194240 b.length
    && b.destMask != 0

/-- GATHER field map. -/
def GatherBody.wf (b : GatherBody) : Bool :=
  aligned 64 22 b.srcAddr && aligned 64 20 b.srcStride && within 0 7 b.fmt && fits 1 b.panel && within 1 512 b.rows
    && aligned 64 22 b.scaleAddr && within 1 128 b.cols && fits 2 b.map && aligned 64 22 b.listAddr
    && fits 10 b.listLen && within 0 512 b.listLen && aligned 64 22 b.swzTileAddr

/-- DENSE_TILE field map. -/
def DenseBody.wf (b : DenseBody) : Bool :=
  aligned 256 22 b.aAddr && aligned 256 22 b.bAddr && within 0 8 b.fmtA && within 0 8 b.fmtB && within 0 2 b.accMode
    && within 0 2 b.passes && fits 1 b.bank && fits 2 b.split && decide (b.sub < 2 ^ b.split)
    && within 1 4095 b.kBlocks && within 1 (128 / 2 ^ b.split) b.rowsValid && within 1 128 b.colsValid
    && aligned 128 22 b.aScaleAddr && aligned 128 22 b.bScaleAddr

/-- SPARSE_TILE field map. -/
def SparseBody.wf (b : SparseBody) : Bool :=
  aligned 64 22 b.tileAddr && within 0 7 b.fmtW && within 0 7 b.fmtAct && fits 1 b.panel && fits 2 b.quarter
    && (b.dir || b.quarter == 0) && fits 1 b.bank && fits 1 b.accMode && within 1 128 b.colsValid

/-- SAMPLED_TILE field map. -/
def SampledBody.wf (b : SampledBody) : Bool :=
  aligned 64 22 b.tileAddr && within 0 7 b.fmtStat && within 0 7 b.fmtSrv && fits 1 b.panel && fits 2 b.quarter
    && (b.dir || b.quarter == 0) && !(b.accumulate && b.outW) && fits 8 b.numctl && within 1 128 b.colsValid
    && aligned 256 22 b.statAddr && aligned 64 20 b.statStride && aligned 64 22 b.statScaleAddr && aligned 64 22 b.outAddr

/-- DRAIN field map. -/
def DrainBody.wf (b : DrainBody) : Bool :=
  aligned 64 22 b.outAddr && within 0 10 b.outFmt && fits 1 b.bank && fits 2 b.split && decide (b.sub < 2 ^ b.split)
    && fits 8 b.numctl && within 0 2 b.epiOp && (if b.epiOp == 0 then within 0 10 b.epiFmt else within 6 9 b.epiFmt)
    && within 1 (128 / 2 ^ b.split) b.rowsValid && within 1 128 b.colsValid && aligned 64 22 b.epiAddr
    && aligned 64 22 b.maskAddr && aligned 64 20 b.outStride && aligned 64 20 b.epiStride
    && aligned 64 22 b.outScaleAddr

/-- Instruction field map: rm 6 and 7 and type 7 are reserved in every instruction (R166). -/
def VFields.wf (v : VFields) : Bool :=
  fits 5 v.d && fits 5 v.a && fits 5 v.b && fits 5 v.c && fits 3 v.p && within 0 5 v.rm && within 0 6 v.t
    && decide (-(2 ^ 25) ≤ v.imm ∧ v.imm < 2 ^ 25)

/-- VEC field map. -/
def VecBody.wf (b : VecBody) : Bool := fits 13 b.entry && fits 8 b.numctl

/-- UPDATE field map. -/
def UpdateBody.wf (b : UpdateBody) : Bool :=
  fits 8 b.policy && fits 20 b.firstTile && fits 20 b.tileCount && within 0 2 b.phase && fits 8 b.numctl
    && aligned 64 48 b.shardAddr && aligned 64 48 b.gradAddr && aligned 32 48 b.healthAddr && aligned 64 48 b.sumAddr
    && aligned 64 48 b.regionAddr && fits 32 b.count && fits 22 b.denseCols && within 0 2 b.copyFmt

/-- SEM_WAIT field map. -/
def SemWaitBody.wf (b : SemWaitBody) : Bool := within 0 2 b.target && fits 4 b.plainSem && within 1 65535 b.count

/-- SEM_SIGNAL field map. -/
def SemSignalBody.wf (b : SemSignalBody) : Bool :=
  within 0 2 b.target && fits 4 b.plainSem && fits 7 b.destFrond && within 1 65535 b.count

/-- TICKET field map. -/
def TicketBody.wf (b : TicketBody) : Bool := within 1 255 b.bodyCount && aligned 64 48 b.counterAddr

/-- MASK_PRUNE field map. -/
def PruneBody.wf (b : PruneBody) : Bool :=
  fits 8 b.policy && fits 20 b.firstTile && within 1 1048575 b.tileCount && within 0 2 b.method
    && (!b.perRow || b.method == 1) && fits 32 b.param && (b.method != 1 || b.param != 0)
    && (b.method != 0 || decide (b.param < 0x7F800000)) && (b.method != 2 || b.param == 0) && aligned 64 48 b.cutAddr
    && (b.method == 2 || b.cutAddr == 0)

/-- MASK_REGROW field map. -/
def RegrowBody.wf (b : RegrowBody) : Bool :=
  fits 8 b.policy && fits 20 b.firstTile && within 1 1048575 b.tileCount && fits 4 b.fillBand
    && (b.fillAware == (b.fillBand != 0)) && fits 32 b.k && b.k != 0 && aligned 64 48 b.scoreAddr

/-- MASK_COMMIT field map. -/
def CommitBody.wf (b : CommitBody) : Bool :=
  fits 8 b.policy && fits 20 b.firstTile && within 1 1048575 b.tileCount && fits 2 b.freezeOp
    && aligned 64 48 b.freezeSrc && (b.freezeOp != 0 || b.freezeSrc == 0)

/-- REDUCE_SEND field map. -/
def SendBody.wf (b : SendBody) : Bool :=
  aligned 64 22 b.srcAddr && within 8 9 b.fmt && aligned 64 22 b.length && within 64 1048576 b.length
    && fits 16 b.dstChip && fits 4 b.dstPartition && fits 8 b.channel && aligned 32 22 b.healthAddr

/-- REDUCE_RECV field map. -/
def RecvBody.wf (b : RecvBody) : Bool :=
  aligned 64 22 b.dstAddr && within 8 9 b.fmt && aligned 64 22 b.length && within 64 1048576 b.length && fits 1 b.op
    && fits 16 b.srcChip && fits 4 b.srcPartition && fits 8 b.channel && aligned 32 22 b.healthAddr
    && aligned 64 22 b.localAddr && aligned 64 22 b.outAddr && fits 8 b.numctl
    && (if b.op == 0 then b.localAddr == 0 && b.outAddr == 0 && b.outFmt == 0 else within 6 9 b.outFmt)

end Sys2Proof
end

