-- ==== Sys2Proof/Machine/Bodies.lean ====
section
/-! DEFINITION. Descriptor bodies read from a descriptor's 512 bits, as their field maps lay them out. -/

namespace Sys2Proof.Machine

/-- Bits of a body that must be zero: (lowest body bit, width) (field maps; R51 for words beyond body_length). -/
def reservedBits : Nat → List (Nat × Nat)
  | 0x01 => [(320, 128), (302, 18), (240, 16), (176, 16), (126, 2), (62, 2)]
  | 0x02 => [(320, 128), (128, 64), (86, 10), (48, 16)]
  | 0x03 => [(192, 256), (184, 8), (97, 31), (57, 7)]
  | 0x10 => [(192, 256), (172, 20), (92, 36), (63, 1)]
  | 0x11 => [(64, 384), (49, 15)]
  | 0x12 => [(192, 256), (172, 20), (106, 22), (52, 12)]
  | 0x13 => [(256, 192), (214, 42), (180, 12), (47, 1)]
  | 0x20 => [(24, 40), (13, 3)]
  | 0x21 => [(441, 7), (368, 16), (304, 16), (240, 16), (176, 16), (112, 16), (54, 2)]
  | 0x30 => [(32, 416), (8, 8), (2, 2)]
  | 0x31 => [(32, 416), (8, 1), (2, 1)]
  | 0x32 => [(112, 336), (8, 56)]
  | 0x33 => [(64, 384), (8, 56)]
  | 0x40 => [(192, 256), (176, 16), (96, 32), (51, 13)]
  | 0x41 => [(192, 256), (176, 16), (96, 32), (56, 8), (48, 1)]
  | 0x42 => [(128, 320), (112, 16), (53, 11), (48, 2)]
  | 0x50 => [(192, 256), (150, 42), (93, 35), (48, 16)]
  | 0x51 => [(256, 192), (226, 30), (172, 20), (93, 35), (50, 14)]
  | _ => []

/-- Whether a descriptor's reserved bits and undefined kind_flags are zero; bit 10 is MULTICAST's streamed. -/
def reservedClear (d : Nat) : Bool :=
  ((reservedBits (dscKind d)).all fun r => dscBody d r.1 r.2 == 0)
    && (if dscKind d = 0x02 then decide (dscFlags d < 2) else dscFlags d == 0)

/-- A one-bit field. -/
def dscBit (d lo : Nat) : Bool := dscBody d lo 1 == 1

/-- MOVE. -/
def moveOf (d : Nat) : MoveBody :=
  { srcAddr := dscBody d 0 48, srcFrond := dscBody d 48 7, srcSpace := dscBit d 55, srcRel := dscBit d 56
    srcLayout := dscBody d 57 2, srcSwz := dscBody d 59 3
    dstAddr := dscBody d 64 48, dstFrond := dscBody d 112 7, dstSpace := dscBit d 119, dstRel := dscBit d 120
    dstLayout := dscBody d 121 2, dstSwz := dscBody d 123 3
    srcScaleAddr := dscBody d 128 48, dstScaleAddr := dscBody d 192 48, shape := dscBody d 256 8
    srcFmt := dscBody d 264 4, dstFmt := dscBody d 268 4, numctl := dscBody d 272 8, padValue := dscBody d 280 16
    unaligned := dscBit d 296, slot4 := dscBit d 297, passes := dscBody d 298 2, pieceRole := dscBit d 300
    scaleSupplied := dscBit d 301 }

/-- MULTICAST. -/
def multicastOf (d : Nat) : MulticastBody :=
  { srcAddr := dscBody d 0 48, dstAddr := dscBody d 64 22, length := dscBody d 96 32
    destMask := BitVec.ofNat 128 (dscBody d 192 128), streamed := dscFlags d % 2 == 1 }

/-- GATHER. -/
def gatherOf (d : Nat) : GatherBody :=
  { srcAddr := dscBody d 0 22, srcStride := dscBody d 22 20, fmt := dscBody d 42 4, panel := dscBody d 46 1
    rows := dscBody d 47 10, scaleAddr := dscBody d 64 22, cols := dscBody d 86 8, map := dscBody d 94 2
    scaleKind := dscBit d 96, listAddr := dscBody d 128 22, listLen := dscBody d 150 10
    swzTileAddr := dscBody d 160 22, swzUse := dscBit d 182, swzKind := dscBit d 183 }

/-- DENSE_TILE. -/
def denseOf (d : Nat) : DenseBody :=
  { aAddr := dscBody d 0 22, bAddr := dscBody d 22 22, fmtA := dscBody d 44 4, fmtB := dscBody d 48 4
    accMode := dscBody d 52 2, passes := dscBody d 54 2, bank := dscBody d 56 1, accumulate := dscBit d 57
    split := dscBody d 58 2, sub := dscBody d 60 3, kBlocks := dscBody d 64 12, rowsValid := dscBody d 76 8
    colsValid := dscBody d 84 8, aScaleAddr := dscBody d 128 22, bScaleAddr := dscBody d 150 22 }

/-- SPARSE_TILE. -/
def sparseOf (d : Nat) : SparseBody :=
  { tileAddr := dscBody d 0 22, fmtW := dscBody d 22 4, fmtAct := dscBody d 26 4, panel := dscBody d 30 1
    dir := dscBit d 31, quarter := dscBody d 32 2, bank := dscBody d 34 1, accumulate := dscBit d 35
    accMode := dscBody d 36 2, intersect := dscBit d 38, gbUse := dscBit d 39, demote := dscBit d 40
    colsValid := dscBody d 41 8 }

/-- SAMPLED_TILE. -/
def sampledOf (d : Nat) : SampledBody :=
  { tileAddr := dscBody d 0 22, fmtStat := dscBody d 22 4, fmtSrv := dscBody d 26 4, panel := dscBody d 30 1
    dir := dscBit d 31, quarter := dscBody d 32 2, accumulate := dscBit d 34, outW := dscBit d 35
    numctl := dscBody d 36 8, colsValid := dscBody d 44 8, statAddr := dscBody d 64 22
    statStride := dscBody d 86 20, statScaleAddr := dscBody d 128 22, outAddr := dscBody d 150 22 }

/-- DRAIN. -/
def drainOf (d : Nat) : DrainBody :=
  { outAddr := dscBody d 0 22, outFmt := dscBody d 22 4, bank := dscBody d 26 1, sub := dscBody d 27 3
    split := dscBody d 30 2, numctl := dscBody d 32 8, epiOp := dscBody d 40 2, epiFmt := dscBody d 42 4
    maskGate := dscBit d 46, rowsValid := dscBody d 48 8, colsValid := dscBody d 56 8, epiAddr := dscBody d 64 22
    maskAddr := dscBody d 86 22, outStride := dscBody d 108 20, outScale := BitVec.ofNat 32 (dscBody d 128 32)
    epiStride := dscBody d 160 20, outScaleAddr := dscBody d 192 22 }

/-- VEC. -/
def vecOf (d : Nat) : VecBody :=
  { entry := dscBody d 0 13, numctl := dscBody d 16 8, arg1 := BitVec.ofNat 64 (dscBody d 64 64)
    arg2 := BitVec.ofNat 64 (dscBody d 128 64), arg3 := BitVec.ofNat 64 (dscBody d 192 64)
    arg4 := BitVec.ofNat 64 (dscBody d 256 64), arg5 := BitVec.ofNat 64 (dscBody d 320 64)
    arg6 := BitVec.ofNat 64 (dscBody d 384 64) }

/-- UPDATE. -/
def updateOf (d : Nat) : UpdateBody :=
  { policy := dscBody d 0 8, firstTile := dscBody d 8 20, tileCount := dscBody d 28 20, dense := dscBit d 48
    phase := dscBody d 49 2, closeStep := dscBit d 51, gradW48 := dscBit d 52, rescale := dscBit d 53
    numctl := dscBody d 56 8, shardAddr := dscBody d 64 48, gradAddr := dscBody d 128 48
    healthAddr := dscBody d 192 48, sumAddr := dscBody d 256 48, regionAddr := dscBody d 320 48
    count := dscBody d 384 32, denseCols := dscBody d 416 22, copyFmt := dscBody d 438 2
    freezePresent := dscBit d 440 }

/-- SEM_WAIT. -/
def semWaitOf (d : Nat) : SemWaitBody := { target := dscBody d 0 2, plainSem := dscBody d 4 4, count := dscBody d 16 16 }

/-- SEM_SIGNAL. -/
def semSignalOf (d : Nat) : SemSignalBody :=
  { target := dscBody d 0 2, holdAll := dscBit d 3, plainSem := dscBody d 4 4, destFrond := dscBody d 9 7
    count := dscBody d 16 16 }

/-- TICKET. -/
def ticketOf (d : Nat) : TicketBody := { bodyCount := dscBody d 0 8, counterAddr := dscBody d 64 48 }

/-- Tick of a TICK_WAIT. -/
def tickWaitOf (d : Nat) : Nat := dscBody d 0 8

/-- MASK_PRUNE. -/
def pruneOf (d : Nat) : PruneBody :=
  { policy := dscBody d 0 8, firstTile := dscBody d 8 20, tileCount := dscBody d 28 20, method := dscBody d 48 2
    perRow := dscBit d 50, param := dscBody d 64 32, cutAddr := dscBody d 128 48 }

/-- MASK_REGROW. -/
def regrowOf (d : Nat) : RegrowBody :=
  { policy := dscBody d 0 8, firstTile := dscBody d 8 20, tileCount := dscBody d 28 20, scoreB32 := dscBit d 49
    perRow := dscBit d 50, fillAware := dscBit d 51, fillBand := dscBody d 52 4, k := dscBody d 64 32
    scoreAddr := dscBody d 128 48 }

/-- MASK_COMMIT. -/
def commitOf (d : Nat) : CommitBody :=
  { policy := dscBody d 0 8, firstTile := dscBody d 8 20, tileCount := dscBody d 28 20, freezeOp := dscBody d 50 2
    fillAware := dscBit d 52, freezeSrc := dscBody d 64 48 }

/-- REDUCE_SEND. -/
def sendOf (d : Nat) : SendBody :=
  { srcAddr := dscBody d 0 22, fmt := dscBody d 22 4, length := dscBody d 26 22, dstChip := dscBody d 64 16
    dstPartition := dscBody d 80 4, channel := dscBody d 84 8, withHealth := dscBit d 92, healthAddr := dscBody d 128 22 }

/-- REDUCE_RECV. -/
def recvOf (d : Nat) : RecvBody :=
  { dstAddr := dscBody d 0 22, fmt := dscBody d 22 4, length := dscBody d 26 22, op := dscBody d 48 2
    srcChip := dscBody d 64 16, srcPartition := dscBody d 80 4, channel := dscBody d 84 8, withHealth := dscBit d 92
    healthAddr := dscBody d 128 22, localAddr := dscBody d 150 22, outAddr := dscBody d 192 22
    outFmt := dscBody d 214 4, numctl := dscBody d 218 8 }

/-! ### Whether a descriptor is of a kind and has a body -/

def isMove (b : MoveBody) (d : Nat) : Bool := dscKind d == 0x01 && moveOf d == b
def isMulticast (b : MulticastBody) (d : Nat) : Bool := dscKind d == 0x02 && multicastOf d == b
def isGather (b : GatherBody) (d : Nat) : Bool := dscKind d == 0x03 && gatherOf d == b
def isDense (b : DenseBody) (d : Nat) : Bool := dscKind d == 0x10 && denseOf d == b
def isSparse (b : SparseBody) (d : Nat) : Bool := dscKind d == 0x11 && sparseOf d == b
def isSampled (b : SampledBody) (d : Nat) : Bool := dscKind d == 0x12 && sampledOf d == b
def isDrain (b : DrainBody) (d : Nat) : Bool := dscKind d == 0x13 && drainOf d == b
def isVec (b : VecBody) (d : Nat) : Bool := dscKind d == 0x20 && vecOf d == b
def isUpdate (b : UpdateBody) (d : Nat) : Bool := dscKind d == 0x21 && updateOf d == b
def isSemWait (b : SemWaitBody) (d : Nat) : Bool := dscKind d == 0x30 && semWaitOf d == b
def isSemSignal (b : SemSignalBody) (d : Nat) : Bool := dscKind d == 0x31 && semSignalOf d == b
def isTicket (b : TicketBody) (d : Nat) : Bool := dscKind d == 0x32 && ticketOf d == b
def isTickWait (n : Nat) (d : Nat) : Bool := dscKind d == 0x33 && tickWaitOf d == n
def isPrune (b : PruneBody) (d : Nat) : Bool := dscKind d == 0x40 && pruneOf d == b
def isRegrow (b : RegrowBody) (d : Nat) : Bool := dscKind d == 0x41 && regrowOf d == b
def isCommit (b : CommitBody) (d : Nat) : Bool := dscKind d == 0x42 && commitOf d == b
def isSend (b : SendBody) (d : Nat) : Bool := dscKind d == 0x50 && sendOf d == b
def isRecv (b : RecvBody) (d : Nat) : Bool := dscKind d == 0x51 && recvOf d == b

/-- The numeric control byte a descriptor carries, if its kind has one. -/
def numctlOf (d : Nat) : Option Nat :=
  match dscKind d with
  | 0x01 => some (moveOf d).numctl
  | 0x12 => some (sampledOf d).numctl
  | 0x13 => some (drainOf d).numctl
  | 0x20 => some (vecOf d).numctl
  | 0x21 => some (updateOf d).numctl
  | 0x51 => some (recvOf d).numctl
  | _ => none

end Sys2Proof.Machine
end

