-- ==== Sys2Proof/Machine/Buffer.lean ====
section
/-! DEFINITION. The stores of a frond under the Hsiao code (R427 to R435): errors that come up in their words, what a reader
finds, poison, and the writes of a frond buffer with the units they may not be performed on.

A store holds what a reader uses of each word, after correction; `frondFlips` holds the word's error pattern. -/

namespace Sys2Proof.Machine

/-! ### Errors in words -/

/-- Number of a store in the key of its words. -/
def storeCode : FrondStore → Nat
  | .buffer => 0
  | .accumulator => 1
  | .instructions => 2
  | .shapes => 3

/-- How many words a store of a frond holds: 3 MiB, two banks of 128 × 128 containers, 8,192 instructions, 256 records. -/
def storeWords : FrondStore → Nat
  | .buffer => frondBytes / 4
  | .accumulator => 65536
  | .instructions => 16384
  | .shapes => 4096

/-- Key of a word of a frond's store. -/
def frondWord (f : Nat) (st : FrondStore) (w : Nat) : Nat := (4 * f + storeCode st) * 2 ^ 20 + w

/-- The error pattern of a word of a frond's store. -/
def State.frondFlip (s : State) (f : Nat) (st : FrondStore) (w : Nat) : BitVec 40 :=
  sget (fun _ => (0 : BitVec 40)) s.frondFlips (frondWord f st w)

/-- Data bits in which what a reader uses differs from what was written (R428). -/
def wordDev (pat : BitVec 40) : BitVec 32 :=
  match readWord false pat with
  | .data d _ _ => d
  | _ => 0

/-- Change the data bits of a word that a reader uses. -/
def State.deviate (s : State) (f : Nat) (st : FrondStore) (w : Nat) (d : BitVec 32) : State :=
  if d = 0 then s
  else match st with
    | .buffer => { s with fbuf := (List.range 4).foldl (fun m i =>
        let k := f * frondBytes + 4 * w + i
        sput (fun _ => (0 : Byte)) m k (sget (fun _ => (0 : Byte)) m k ^^^ (d >>> (8 * i)).setWidth 8)) s.fbuf }
    | .accumulator =>
      let k := f * 32768 + w / 2
      { s with acc := sput (fun _ => (0 : Dword)) s.acc k (sget (fun _ => (0 : Dword)) s.acc k ^^^ (d.setWidth 64 <<< (32 * (w % 2)))) }
    | .instructions =>
      let k := f * 8192 + w / 2
      { s with imem := sput (fun _ => (0 : Dword)) s.imem k (sget (fun _ => (0 : Dword)) s.imem k ^^^ (d.setWidth 64 <<< (32 * (w % 2)))) }
    | .shapes =>
      let k := f * 256 + w / 16
      { s with shapeTab := sput (fun _ => (0 : BitVec 512)) s.shapeTab k
                (sget (fun _ => (0 : BitVec 512)) s.shapeTab k ^^^ (d.setWidth 512 <<< (32 * (w % 16)))) }

/-- An error comes up in a word, beside what the word holds of earlier errors (R427). -/
def State.strikeWord (s : State) (x : Strike) : State :=
  if 128 ≤ x.frond ∨ storeWords x.store ≤ x.word then s
  else
    let old := s.frondFlip x.frond x.store x.word
    let new := old ^^^ (x.pattern.setWidth 39).setWidth 40
    { s with frondFlips := sput (fun _ => (0 : BitVec 40)) s.frondFlips (frondWord x.frond x.store x.word) new }.deviate
      x.frond x.store x.word (wordDev old ^^^ wordDev new)

/-- The errors that come up before a row. -/
def State.strike (s : State) (xs : List Strike) : State := xs.foldl State.strikeWord s

/-- What a reader finds in a word of a frond's store: 1 an uncorrectable error, 2 poison (R428, R433, R435). -/
def State.wordCause (s : State) (f : Nat) (st : FrondStore) (w : Nat) : Option Nat :=
  match readWord false (s.frondFlip f st w) with
  | .uncorrectable => some 1
  | .poison => some 2
  | .data .. => none

/-- The pattern of a poisoned word: its check bits are inverted (R433). -/
def poisonPattern : BitVec 40 := 0x7F00000000#40

/-- Clear the error patterns of words of a frond's store. -/
def State.cleanWords (s : State) (f : Nat) (st : FrondStore) (lo n : Nat) : State :=
  if s.frondFlips.isEmpty then s
  else { s with frondFlips := sclear (fun k => decide (frondWord f st lo ≤ k ∧ k < frondWord f st lo + n)) s.frondFlips }

/-! ### The frond buffer -/

/-- Poison a unit of a frond's buffer. -/
def State.poisonBuf (s : State) (f u : Nat) : State :=
  { s.cleanWords f .buffer (16 * u) 16 with
    fbufBad := sput (fun _ => false) s.fbufBad (f * (frondBytes / 64) + u) true }

/-- What a reader of addresses `as` finds in unit u of them: the cause of an UNCORRECTABLE, or none. -/
def State.bufCause (s : State) (f : Nat) (as : List Nat) (u : Nat) : Option Nat :=
  if sget (fun _ => false) s.fbufBad (f * (frondBytes / 64) + u) then some 2
  else if s.frondFlips.isEmpty then none
  else (as.filter fun a => a / 64 == u).findSome? fun a => s.wordCause f .buffer (a / 4)

/-- First unit of a range of a frond's buffer that its reader cannot use: its buffer address and the cause. -/
def State.bufBad (s : State) (f : Nat) (as : List Nat) : Option (Nat × Nat) :=
  (unitsOf as).findSome? fun u => (s.bufCause f as u).map fun k => (64 * u, k)

/-- Detail of an UNCORRECTABLE of source 5 (UNCORRECTABLE detail field map). -/
def storeDetail (f cause addr : Nat) : Nat := 5 * 2 ^ 60 + cause * 2 ^ 56 + f / 8 * 2 ^ 52 + addr % 2 ^ 48

/-- Whether a frond is retired for repeated errors (R544): RESIDUE_MISMATCH twice within 1,000,000 ticks, or source-5
UNCORRECTABLE twice at one address. -/
def Frond.repeats (x : Frond) : Bool :=
  (x.residueTicks.zip (x.residueTicks.drop 1)).any (fun e => decide (e.1 - e.2 ≤ 1000000 ∧ e.2 - e.1 ≤ 1000000))
    || x.source5.any (fun a => decide (2 ≤ (x.source5.filter (· == a)).length))

/-- Retire a frond (R544). -/
def State.retireFrond (s : State) (f : Nat) : State := s.modFrond f fun x => { x with retired := true }

/-- A frond whose errors repeat is retired (R544). -/
def State.retireRepeated (s : State) (f : Nat) : State := if (s.frond f).repeats then s.retireFrond f else s

/-- A fault of partition p that counts in the history of frond f: while a stop message is on its way the stop judges the history
(PARTITION_STOP); a fault recorded as secondary after it is judged at once (R544). -/
def State.faultOfFrond (s : State) (p f : Nat) (raise : State → State) : State :=
  let s := raise s
  if s.stopMsgs.contains p then s else s.retireRepeated f

/-- Raise an UNCORRECTABLE of source 5, with the history of R544. -/
def State.raiseSource5 (s : State) (p f desc addr cause : Nat) : State :=
  (s.modFrond f fun x => { x with source5 := addr :: x.source5 }).faultOfFrond p f fun s =>
    s.descFault p cUncorrectable 0 (storeDetail f cause addr) clsFrond f desc

/-- UNCORRECTABLE of a word read from a frond's buffer: its first reader poisons the unit, and later ones read poison (R435). -/
def State.raiseBufBad (s : State) (p f desc : Nat) (bad : Nat × Nat) : State :=
  (if bad.2 = 2 then s else s.poisonBuf f (bad.1 / 64)).raiseSource5 p f desc bad.1 bad.2

/-- A frond-buffer address outside the buffer (BUFFER_OVERFLOW, subcode 2), or a word that cannot be used (R434, R435): the
first of either among the bytes an engine uses. -/
def State.bufFault (s : State) (p f desc : Nat) (as : List Nat) : Option State :=
  match as.find? fun a => decide (frondBytes ≤ a) with
  | some a => some (s.raiseOverflow p 2 a clsFrond f desc)
  | none => (s.bufBad f as).map fun b => s.raiseBufBad p f desc b

/-- A masked byte write: address, bits written, value. -/
structure ByteWrite where
  addr : Nat
  mask : Byte
  value : Byte
  deriving DecidableEq, Repr

/-- Whole bytes to write. -/
def wholeBytes (cs : List (Nat × Byte)) : List ByteWrite := cs.map fun c => ⟨c.1, 0xFF, c.2⟩

/-- Clear the patterns of the words that addresses of a frond's buffer lie in: a written word is stored under its code again. -/
def State.rewordBuf (s : State) (f : Nat) (as : List Nat) : State :=
  if s.frondFlips.isEmpty then s
  else { s with frondFlips := as.foldl (fun m a => sput (fun _ => (0 : BitVec 40)) m (frondWord f .buffer (a / 4)) 0) s.frondFlips }

/-- Write masked bytes into a frond's buffer; a 64-byte unit written whole loses its poison (R434). -/
def State.bufPut (s : State) (f : Nat) (ws : List ByteWrite) : State :=
  let as := ws.map (·.addr)
  let cov := (unitsOf as).filter (coversUnit as)
  let s := s.rewordBuf f as
  { s with
    fbufBad := cov.foldl (fun m u => sput (fun _ => false) m (f * (frondBytes / 64) + u) false) s.fbufBad
    fbuf := ws.foldl (fun m w =>
      let k := f * frondBytes + w.addr
      sput (fun _ => (0 : Byte)) m k ((sget (fun _ => (0 : Byte)) m k &&& ~~~w.mask) ||| (w.value &&& w.mask))) s.fbuf }

/-- Units of a write that it may not be performed on, with what stands against each: parts of a unit with poison or an
uncorrectable word (R434). -/
def State.bufRefused (s : State) (f : Nat) (as : List Nat) : List (Nat × Nat) :=
  (unitsOf as).filterMap fun u => if coversUnit as u then none else (s.bufCause f (rangeFrom (64 * u) 64) u).map fun k => (u, k)

/-- Write bytes of a frond's buffer for a descriptor: none when an address lies outside, else every unit but those refused
(R434); whether nothing faulted. -/
def State.bufPutFor (s : State) (p f desc : Nat) (ws : List ByteWrite) : State × Bool :=
  match ws.find? fun w => decide (frondBytes ≤ w.addr) with
  | some w => (s.raiseOverflow p 2 w.addr clsFrond f desc, false)
  | none =>
    match s.bufRefused f (ws.map (·.addr)) with
    | [] => (s.bufPut f ws, true)
    | r :: rs =>
      let t := s.bufPut f (ws.filter fun w => !(r :: rs).any fun u => w.addr / 64 == u.1)
      let t := (r :: rs).foldl (fun t u => if u.2 = 2 then t else t.poisonBuf f u.1) t
      (t.raiseBufBad p f desc (64 * r.1, 2), false)

/-! ### The other stores -/

/-- First of some words of a frond's store that its reader cannot use; poison is kept for the 16 words of a unit (R433). -/
def State.storeBad (s : State) (f : Nat) (st : FrondStore) (ws : List Nat) : Option (Nat × Nat) :=
  if s.frondFlips.isEmpty then none
  else ws.findSome? fun w =>
    if (rangeFrom (w / 16 * 16) 16).any fun v => s.wordCause f st v == some 2 then some (w, 2)
    else (s.wordCause f st w).map fun k => (w, k)

/-- UNCORRECTABLE of a word read from a store that has no buffer addresses: the address of its detail is free (log entry 131).
The first reader poisons the word. -/
def State.raiseStoreBad (s : State) (p f desc : Nat) (st : FrondStore) (bad : Nat × Nat) : State :=
  let s := if bad.2 = 2 then s else
    { s with frondFlips := sput (fun _ => (0 : BitVec 40)) s.frondFlips (frondWord f st bad.1) poisonPattern }
  let (a, s) := s.freeBits 48
  s.raiseSource5 p f desc a.toNat bad.2

/-- What stops a reader of words of such a store. -/
def State.storeFault (s : State) (p f desc : Nat) (st : FrondStore) (ws : List Nat) : Option State :=
  (s.storeBad f st ws).map fun b => s.raiseStoreBad p f desc st b

end Sys2Proof.Machine
end

