-- ==== Sys2Proof/Machine/Issue.lean ====
section
/-! DEFINITION. Issue of descriptors: the frame program and its buffer, the two sequencers of a frond, the queue between
them, fences, guarded tiles, frame ends and ticket-loop passes (R47, R48, R376 to R380, R389, R327), and the bookkeeping of
completion. -/

namespace Sys2Proof.Machine

/-- Whether a wait holds its sequencer until a row of its own ends it. An engine or queue wait ends when the
descriptor is presented again (log entry 11). -/
def waitBlocks : Option Wait → Bool
  | none => false
  | some .engine => false
  | some (.credit _) => false
  | some .queue => false
  | some _ => true

/-- The pass a descriptor issued now belongs to, inside a ticket loop's body. -/
def Frond.passNow (x : Frond) : Option PassRef :=
  match x.loop with
  | some l => l.current.map fun t => (l.jobId, t)
  | none => none

/-- Whether the fetch sequencer may place or issue: it waits on nothing and no ticket reply is outstanding. -/
def Frond.fetchFree (x : Frond) : Bool :=
  !waitBlocks x.fetch.wait &&
    (match x.loop with | some l => l.current.isSome | none => true)

/-- Descriptors of a sequencer issued and not complete; the TICKET whose loop runs is not counted (R327). -/
def Frond.openJobs (x : Frond) (q : SeqSel) : List Job :=
  x.jobs.filter fun j => j.seq == q && !(match x.loop with | some l => l.jobId == j.id | none => false)

/-! ### The frame program (R376, R377) -/

/-- Address and descriptor count of a frond's program for a set and frame (R376). -/
def State.programAt (s : State) (p : Nat) (pl : Plan) (set frame f : Nat) : Nat × Nat :=
  let e := s.peekNat (some p) (pl.progBase + 8 * ((set * pl.framesPerStep + frame) * 128 + f)) 8
  (pl.progBase + 64 * bitsOf e 0 32, bitsOf e 32 20)

/-- Tag of the descriptor at an address (R374). -/
def State.tagAt (s : State) (p : Nat) (pl : Plan) (addr : Nat) : Nat :=
  s.peekNat (some p) (pl.tagBase + (addr - pl.progBase) / 64 * 4) 4

/-- Descriptors of the program from address a up to the end of its 128-byte line (R377). -/
def lineDescriptors (a fin : Nat) : List Nat :=
  if fin ≤ a then [] else if a % 128 = 0 ∧ a + 64 < fin then [a, a + 64] else [a]

/-- The fetch sequencer of frond f reads the next line of its program into its buffer, as one request of the Sphagnum that
takes no regulator tokens (R377); the first unit it cannot read. -/
def State.readLine (s : State) (p f : Nat) : State × Option (Nat × Nat) :=
  let x := s.frond f
  match (s.part p).plan, lineDescriptors x.progNext x.progEnd with
  | some pl, a :: l =>
    let as := a :: l
    let r := s.readPhys (some p) ((rangeFrom a (64 * as.length)).map fun y => (s.resolve (some p) y).getD 0)
    match r.bad with
    | some b => (r.state.modFrond f fun x => { x with progNext := x.progEnd }, some b)
    | none =>
      let ds := as.map fun y => { addr := y, raw := BitVec.ofNat 512 (leNat ((r.bytes.drop (y - a)).take 64))
                                  tag := BitVec.ofNat 32 (s.tagAt p pl y) : ProgDsc }
      (r.state.modFrond f fun x => { x with prog := x.prog ++ ds, progNext := a + 64 * as.length }, none)
  | _, _ => (s, none)

/-- Fill the program buffer while it has room for a line: at most 8 lines (R377; log entry 120). -/
def State.fillProg (p f : Nat) : Nat → State → State × Option (Nat × Nat)
  | 0, s => (s, none)
  | n + 1, s =>
    let x := s.frond f
    if 16 < x.prog.length + (lineDescriptors x.progNext x.progEnd).length || x.progEnd ≤ x.progNext then (s, none)
    else match s.readLine p f with
      | (s, some b) => (s, some b)
      | (s, none) => State.fillProg p f n s

/-- The buffer holds the program from address a (R379, and each pass of a ticket loop): what it holds of it stays. -/
def Frond.programFrom (x : Frond) (a : Nat) : Frond :=
  match x.prog.dropWhile (fun d => d.addr != a) with
  | [] => { x with prog := [], progNext := a }
  | l => { x with prog := l }

/-- Fill the buffer of a frond whose partition runs: a line that cannot be read raises UNCORRECTABLE (the text after R52). -/
def State.refill (s : State) (p f : Nat) : State :=
  match State.fillProg p f 8 s with
  | (t, some b) => t.raiseUnc p clsFrond f (b.1 * 64) b
  | (t, none) => t

/-! ### Where an issue stands -/

/-- Whether the row spells a descriptor: its address, header and tag are the row's, and its kind and body the row's own
(`is`). -/
def ProgDsc.spells (d : ProgDsc) (i : Issue) (is : Nat → Bool) : Bool :=
  let n := d.raw.toNat
  let t := d.tag.toNat
  d.addr == i.addr && dscStream n == i.streamId && dscFence n == i.fence && dscEnd n == i.frameEnd
    && (tagRoute t == 1) == (i.seq == .execute) && tagClass t == i.cls && tagDim t == i.dim && tagOrigin t == i.origin && is n

/-- Where an issue stands. -/
inductive Gate where
  /-- Nothing happens. -/
  | stay
  /-- It is issued now, in the pass given; `head` when it is taken from the queue. -/
  | go (pass : Option PassRef) (head : Bool)
  /-- It waits at its sequencer. -/
  | hold (w : Wait)
  /-- It is placed in the queue. -/
  | place
  /-- It would be placed in the queue, but the fetch sequencer waits (R48). -/
  | fetchWaits (w : Wait)
  deriving DecidableEq, Repr

/-- Whether the row spells the next descriptor of the program, and the fetch sequencer is free to take it. -/
def Frond.nextIs (x : Frond) (i : Issue) (is : Nat → Bool) : Bool := (x.prog.take 1).any (·.spells i is) && x.fetchFree

/-- Whether the regulator withholds tokens from a request of a MOVE or MULTICAST that has not completed: the fetch sequencer
waits (R48). The row says whether it does so in its cycle. -/
def Frond.starved (x : Frond) (i : Issue) : Bool :=
  i.withheld && x.jobs.any fun j => match j.body with
    | .move => true
    | .multicast .. => true
    | _ => false

/-- R47, R48, R380 and the fence of the header. The fetch sequencer takes the descriptors of its program in order: a row that
spells neither the next of them nor the front of the queue changes nothing. -/
def Frond.gate (x : Frond) (i : Issue) (is : Nat → Bool) : Gate :=
  let fenced := fun (q : SeqSel) => i.fence && !(x.openJobs q).isEmpty
  match i.seq with
  | .fetch =>
    if x.fetch.ended || !x.nextIs i is then .stay
    else if x.starved i || fenced .fetch then .hold .engine
    else .go x.passNow false
  | .execute =>
    match x.queue with
    | e :: _ =>
      if e.dsc.spells i is then
        if x.execute.ended || waitBlocks x.execute.wait then .stay
        else if fenced .execute then .hold .engine
        else .go e.pass true
      else if !x.nextIs i is then .stay
      else if x.starved i then .fetchWaits .engine
      else if 64 ≤ x.queue.length then .fetchWaits .queue
      else .place
    | [] =>
      if !x.nextIs i is || x.execute.ended then .stay
      else if x.starved i then .fetchWaits .engine
      else if waitBlocks x.execute.wait || fenced .execute then .place
      else .go x.passNow false

/-- The request ID of a claim (R324): the frond, and its claim number within the frame. -/
def requestId (f n : Nat) : Nat := f * 2 ^ 24 + n % 2 ^ 24

/-- Send the next claim of the loop on frond f; TKT_CLAIMS counts it (R324, R327). -/
def State.sendClaim (s : State) (f p : Nat) : State :=
  let x := s.frond f
  match x.loop with
  | none => s
  | some l =>
    let r := requestId f x.claimNo
    let s := s.setFrond f
      { x with claimNo := x.claimNo + 1
               loop := some { l with outstanding := some r, current := none, issued := 0 }
               fetch := { x.fetch with wait := some .ticket } }
    let s := s.count32 clsFrond f 0x118C 1
    { s with hyphae := { s.hyphae with claims := s.hyphae.claims ++
        [{ frond := f, requestId := r, addr := l.counterAddr, stream := l.stream, partition := p, epoch := (s.part p).epoch }] } }

/-- One more descriptor of the loop's body has been issued; after the last the pass waits for its completions and the
next claim is sent (R327). -/
def State.advanceLoop (s : State) (f p : Nat) : State :=
  let x := s.frond f
  match x.loop with
  | some l =>
    match l.current with
    | none => s
    | some t =>
      if l.issued + 1 < l.bodyCount then s.setFrond f { x with loop := some { l with issued := l.issued + 1 } }
      else
        (s.setFrond f
          { x with passes := x.passes ++
              [{ jobId := l.jobId, ticket := t, counterAddr := l.counterAddr, stream := l.stream }] }).sendClaim f p
  | none => s

/-- The sequencer issues one descriptor: it waits no longer, counts it, and ends its frame at frame_end (R380). -/
def Sequencer.took (q : Sequencer) (frameEnd : Bool) : Sequencer :=
  { q with wait := none, pos := q.pos + 1, ended := q.ended || frameEnd }

/-- Whether issuing a descriptor ends its sequencer's frame. Inside a ticket loop's body frame_end takes effect when no
pass of the loop is left to issue: for the fetch sequencer when the loop is left (TICKET_REPLY), for the execute
sequencer once the loop has been left and the queue holds no later pass (log entry 25). -/
def Frond.endsFrame (x : Frond) (i : Issue) (pass : Option PassRef) : Bool :=
  i.frameEnd &&
    match pass with
    | none => true
    | some _ => i.seq == .execute && x.loop.isNone && decide (x.queue.length ≤ 1)

/-- A fetch sequencer that waits for a place in the queue waits no longer once an entry has been taken (R48). -/
def Sequencer.placeFreed (q : Sequencer) : Sequencer := if q.wait = some .queue then { q with wait := none } else q

/-- The fetch sequencer has passed the next descriptor of its program: it leaves the buffer, which is filled again. -/
def State.fetched (s : State) (f p : Nat) : State :=
  ((s.modFrond f fun x => { x with prog := x.prog.drop 1 }).refill p f).advanceLoop f p

/-- Bookkeeping of an issue before the descriptor's own effect. -/
def State.took (s : State) (i : Issue) (p : Nat) (pass : Option PassRef) (head : Bool) : State :=
  let x := s.frond i.frond
  let x := x.setSq i.seq ((x.sq i.seq).took (x.endsFrame i pass))
  if head then s.setFrond i.frond { x with queue := x.queue.drop 1, fetch := x.fetch.placeFreed }
  else
    let x := match i.seq with
      | .execute => { x with fetch := { x.fetch with wait := none } }
      | .fetch => x
    (s.setFrond i.frond x).fetched i.frond p

/-- Record that a sequencer waits. -/
def State.waitOn (s : State) (f : Nat) (q : SeqSel) (w : Wait) : State :=
  s.modFrond f fun x => x.setSq q { x.sq q with wait := some w }

/-- The fetch sequencer places a descriptor in the queue: that placing is its issue of the descriptor (R48). -/
def State.place (s : State) (i : Issue) (p : Nat) : State :=
  let x := s.frond i.frond
  (s.setFrond i.frond
    { x with queue := x.queue ++ (x.prog.take 1).map fun d => { dsc := d, pass := x.passNow }
             fetch := { x.fetch with wait := none, pos := x.fetch.pos + 1 } }).fetched i.frond p

/-- An issue that cannot go on now waits: a fetch descriptor at its sequencer, an execute descriptor in the queue. -/
def State.holdIssue (s : State) (i : Issue) (p : Nat) (head : Bool) (w : Wait) : State :=
  let s := if i.seq == .execute && !head then s.place i p else s
  s.waitOn i.frond i.seq w

/-- The step's extent of a shape class and dimension (R385, R386). -/
def Partition.extent (x : Partition) (c d : Nat) : Nat := x.extents.getD (4 * c + d) 0

/-- Whether a guarded descriptor is skipped (R389). -/
def Partition.skips (x : Partition) (i : Issue) : Bool := i.cls != 0xF && decide (x.extent i.cls i.dim ≤ i.origin)

/-- Count one skipped descriptor (R389), with the sticky bit and the trace item of the step. -/
def State.countSkip (s : State) (p : Nat) : State :=
  let s := (s.count32 clsPart p 0x1134 1).setBit clsPart p offStatus 13
  if (s.part p).skippedInStep then s
  else (s.modPart p fun x => { x with skippedInStep := true }).traceEvent p 4

/-- Hold a descriptor that has been issued until its completion row. -/
def State.addJob (s : State) (i : Issue) (pass : Option PassRef) (id : Nat) (b : JobBody) : State :=
  s.modFrond i.frond fun x =>
    { x with jobs := x.jobs ++ [{ id := id, seq := i.seq, streamId := i.streamId, addr := i.addr, pass := pass, body := b }] }

/-- What runs a descriptor of partition p, in a ticket-loop pass or none, as issue number id: the state, and what its
engine holds until completion. -/
abbrev Run := Nat → Option PassRef → Nat → State → State × Option JobBody

/-- Issue a descriptor whose kind and body are the row's (`is`): `ready` says what it still waits on, `skip` what a skipped
one does (R389), `run` its effect. -/
def State.issueWith (s : State) (i : Issue) (is : Nat → Bool) (ready : Nat → State → Option Wait) (skip run : Run) : State :=
  match s.workOf i.frond with
  | none => s
  | some p =>
    match (s.frond i.frond).gate i is with
    | .stay => s
    | .hold w => s.waitOn i.frond i.seq w
    | .place => s.place i p
    | .fetchWaits w => s.waitOn i.frond .fetch w
    | .go pass head =>
      match ready p s with
      | some w => s.holdIssue i p head w
      | none =>
        let id := (s.frond i.frond).nextId
        let s := (s.took i p pass head).modFrond i.frond fun x => { x with nextId := x.nextId + 1 }
        let r := if (s.part p).skips i then skip p pass id (s.countSkip p) else run p pass id s
        match r.2 with
        | none => r.1
        | some b => r.1.addJob i pass id b

/-- A descriptor that is always ready. -/
def noWait : Nat → State → Option Wait := fun _ _ => none

/-- A skipped descriptor completes in the cycle it is issued. -/
def skipNow : Run := fun _ _ _ s => (s, none)

/-- A descriptor row that may be skipped in its own way: the frond exists (R15), the fields are inside their maps
(`wf`), and the descriptor is issued; errors that have come up in frond stores, and what the devices show of units of memory, stand before it (R427, R432). -/
def issueRowWith (s : State) (i : Issue) (is : Nat → Bool) (wf : Bool) (ready : Nat → State → Option Wait) (skip run : Run) :
    Out :=
  if decide (i.frond < 128) then
    if i.wf && wf then .next (((s.strike i.strikes).showAll i.reports).issueWith i is ready skip run) else .fault .reservedCode
  else .fault .noSuchUnit

/-- A descriptor row whose skip completes at once. -/
def issueRow (s : State) (i : Issue) (is : Nat → Bool) (wf : Bool) (ready : Nat → State → Option Wait) (run : Run) : Out :=
  issueRowWith s i is wf ready skipNow run

/-! ### The banks of the frond buffer (R119, R120) -/

/-- Rank in the order of R120, the first served first. -/
def bankRank : BankUser → Nat
  | .feed _ => 0
  | .rhizoid => 0
  | .drain => 1
  | .vector => 2
  | .copy => 3
  | .port => 3

/-- Whether `a` is served before `b` in one bank and cycle. R120 orders two array feeds by sub-array, and leaves the order of
the Rhizoid and a feed, and of the hyphal port and the copy engine, open. -/
def servedBefore (a b : BankUser) : Bool :=
  decide (bankRank a < bankRank b) || match a, b with
    | .feed i, .feed j => decide (i < j)
    | .rhizoid, .feed _ => Config.rhizoidBeforeFeed
    | .feed _, .rhizoid => !Config.rhizoidBeforeFeed
    | .port, .copy => Config.portBeforeCopy
    | .copy, .port => !Config.portBeforeCopy
    | _, _ => false

/-- Whether a user of the bank loses a contested cycle, and retries in the next (R120). -/
def lostBy (u : BankUser) (c : Contest) : Bool := c.others.any fun o => servedBefore o u

/-- A user at frond f's own buffer alone. -/
def ownBank (f : Nat) (u : BankUser) : Nat → Option BankUser := fun g => if g = f then some u else none

/-- Count each contested cycle that is lost, at the frond whose bank it is; `who` says as what an access addresses a frond's
banks (R120). -/
def State.countStalls (s : State) (who : Nat → Option BankUser) (cs : List Contest) : State :=
  cs.foldl (fun s c => if c.frond < 128 ∧ (who c.frond).any fun u => lostBy u c then s.countFlag clsFrond c.frond 0x110C 1 13 else s) s

/-- Contested cycles that are lost. -/
def stallCount (who : Nat → Option BankUser) (cs : List Contest) : Nat :=
  (cs.filter fun c => (who c.frond).any fun u => lostBy u c).length

/-- The job a completion row names. -/
def Frond.job (x : Frond) (id : Nat) : Option Job := x.jobs.find? fun j => j.id == id

/-- Drop a job. -/
def State.endJob (s : State) (f id : Nat) : State :=
  s.modFrond f fun x => { x with jobs := x.jobs.filter fun j => j.id != id }

/-- A completion row: the descriptor was issued and its engine still holds it; `done` is what completion does. -/
def completeRow (s : State) (f id : Nat) (done : Job → State → Option State) : Out :=
  onUnit (decide (f < 128))
    (match (s.frond f).job id with
     | none => s
     | some j => match done j s with
       | none => s
       | some s' => s'.endJob f id)

/-- Whether an element code array lies inside the frond buffer. -/
def bufFits (a n : Nat) : Bool := decide (a + n ≤ frondBytes)

/-- Item at a position: base + (position mod depth) × 64 × item_units (R310). -/
def Stream.item (x : Stream) (pos : Nat) : Nat := x.base + pos % x.depth * 64 * x.itemUnits

/-- Destination fronds of a MULTICAST in ascending order. -/
def destsOf (m : BitVec 128) : List Nat := (List.range 128).filter fun f => m.getLsbD f

/-- What a sequencer's signals that have not left yet will add to a semaphore: those in its signal queue, and the one of each
incomplete streamed MULTICAST (R314, R320). -/
def Frond.unsent (x : Frond) (q : SeqSel) (r : SemRef) : Nat :=
  (((x.sq q).sigq.filter fun h => h.target == r).map (·.count)).sum
    + (x.jobs.filter fun j => j.seq == q && match j.body, r with
        | .multicast b base, .filled n => b.streamed && decide (base ≤ n ∧ n < base + (destsOf b.destMask).length)
        | _, _ => false).length

/-- Where an end's current item lies for a descriptor that a sequencer issues now: each earlier signal of the end in program
order has moved the end on, whether or not it has left (R310 and the prefetch table; log entry 92). The consumer end of a
ticketed array stands where its last ticket put it (R327). -/
def State.endItem (s : State) (n : Nat) (x : Stream) (f : Nat) (q : SeqSel) : Nat :=
  let y := s.frond f
  if x.kind = 1 then x.base + ((y.arrayPos.find? fun e => e.1 == n).map (·.2)).getD 0 * 64 * x.itemUnits
  else if x.consumerFrond == f && x.consumerSeq == q then x.item (x.consPos + BitVec.ofNat 32 (y.unsent q (.freed n))).toNat
  else x.item (x.prodPos + BitVec.ofNat 32 (y.unsent q (.filled n))).toNat

end Sys2Proof.Machine
end

