-- ==== Sys2Proof/Machine/Num.lean ====
section
/-! DEFINITION. Numbers, formats and rounding (chapter 2): exact values, the two rounding rules, the short and long
formats, W48, block scales, and the pieces of a binary32 operand. -/

namespace Sys2Proof.Machine

/-- An exact value: a NaN, an infinity, or (−1)^neg × mag × 2^exp. -/
inductive Val where
  | nan
  | inf (neg : Bool)
  | fin (neg : Bool) (mag : Nat) (exp : Int)
  deriving DecidableEq, Repr, Inhabited

/-- +0. -/
def Val.zero : Val := .fin false 0 0

/-- One. -/
def Val.one : Val := .fin false 1 0

/-- Whether a value is a NaN or an infinity. -/
def Val.nonfinite : Val → Bool
  | .nan => true
  | .inf _ => true
  | .fin .. => false

/-- Whether a value is a zero of either sign. -/
def Val.isZero : Val → Bool
  | .fin _ 0 _ => true
  | _ => false

/-- The sign bit of a value (a NaN shows none). -/
def Val.neg? : Val → Bool
  | .nan => false
  | .inf n => n
  | .fin n _ _ => n

/-- The value with its sign flipped. -/
def Val.negate : Val → Val
  | .nan => .nan
  | .inf n => .inf (!n)
  | .fin n m e => .fin (!n) m e

/-- The value without its sign. -/
def Val.absolute : Val → Val
  | .nan => .nan
  | .inf _ => .inf false
  | .fin _ m e => .fin false m e

/-- Exact integer numerator of `mag × 2^e` at scale 2^s, for s ≤ e. -/
def scaled (neg : Bool) (mag : Nat) (e s : Int) : Int :=
  let m : Int := (mag * 2 ^ (e - s).toNat : Nat)
  if neg then -m else m

/-- A finite value from an integer at scale 2^s; a zero takes the sign given. -/
def finOfInt (z s : Int) (zeroNeg : Bool) : Val :=
  if z = 0 then .fin zeroNeg 0 0 else .fin (decide (z < 0)) z.natAbs s

/-- Exact sum. Infinities of opposite signs give NaN; an exact zero sum of unlike signs is `negZero`. -/
def Val.add (negZero : Bool) : Val → Val → Val
  | .nan, _ => .nan
  | _, .nan => .nan
  | .inf a, .inf b => if a = b then .inf a else .nan
  | .inf a, _ => .inf a
  | _, .inf b => .inf b
  | .fin na ma ea, .fin nb mb eb =>
    let s := min ea eb
    finOfInt (scaled na ma ea s + scaled nb mb eb s) s (if na = nb then na else negZero)

/-- Exact product. Infinity times zero gives NaN. -/
def Val.mul : Val → Val → Val
  | .nan, _ => .nan
  | _, .nan => .nan
  | .inf a, .inf b => .inf (a ^^ b)
  | .inf a, .fin b m _ => if m = 0 then .nan else .inf (a ^^ b)
  | .fin a m _, .inf b => if m = 0 then .nan else .inf (a ^^ b)
  | .fin a m e, .fin b n f => .fin (a ^^ b) (m * n) (e + f)

/-- Order of two values that are not NaN: whether x < y, zeros of both signs equal. -/
def Val.lt : Val → Val → Bool
  | .nan, _ => false
  | _, .nan => false
  | .inf a, .inf b => a && !b
  | .inf a, .fin .. => a
  | .fin .., .inf b => !b
  | .fin na ma ea, .fin nb mb eb =>
    let s := min ea eb
    decide (scaled na ma ea s < scaled nb mb eb s)

/-- Equality of two values that are not NaN, zeros of both signs equal. -/
def Val.eqv : Val → Val → Bool
  | .nan, _ => false
  | _, .nan => false
  | .inf a, .inf b => a == b
  | .inf _, .fin .. => false
  | .fin .., .inf _ => false
  | .fin na ma ea, .fin nb mb eb =>
    let s := min ea eb
    decide (scaled na ma ea s = scaled nb mb eb s)

/-- The larger of two magnitudes; NaN and infinities are skipped by the callers. -/
def Val.maxMag (x y : Val) : Val := if x.absolute.lt y.absolute then y.absolute else x.absolute

/-- A binary floating format: exponent and fraction widths, bias, and what its top codes mean. -/
structure Fmt where
  ebits : Nat
  fbits : Nat
  bias : Nat
  /-- The exponent of all ones encodes infinities and NaNs (binary16, binary32, bfloat16, W48). -/
  ieee : Bool
  /-- Exponent and fraction all ones are a NaN (f8r, f8p). -/
  nanTop : Bool
  deriving DecidableEq, Repr, Inhabited

def Fmt.f4 : Fmt := ⟨2, 1, 1, false, false⟩
def Fmt.f6 : Fmt := ⟨3, 2, 3, false, false⟩
def Fmt.f8r : Fmt := ⟨5, 2, 15, false, true⟩
def Fmt.f8p : Fmt := ⟨4, 3, 7, false, true⟩
def Fmt.bf16 : Fmt := ⟨8, 7, 127, true, false⟩
def Fmt.b16 : Fmt := ⟨5, 10, 15, true, false⟩
def Fmt.b32 : Fmt := ⟨8, 23, 127, true, false⟩
def Fmt.w48 : Fmt := ⟨10, 37, 511, true, false⟩

/-- Width of a code. -/
def Fmt.width (f : Fmt) : Nat := 1 + f.ebits + f.fbits

/-- Exponent of the unit in the last place of the smallest normal and of every subnormal. -/
def Fmt.emin (f : Fmt) : Int := 1 - (f.bias : Int) - (f.fbits : Int)

/-- Exponent of the unit in the last place at the top exponent of finite values. -/
def Fmt.etop (f : Fmt) : Int :=
  (if f.ieee then (2 ^ f.ebits : Int) - 2 else (2 ^ f.ebits : Int) - 1) - (f.bias : Int) - (f.fbits : Int)

/-- Significand of the largest finite value. -/
def Fmt.topSig (f : Fmt) : Nat := if f.nanTop then 2 ^ (f.fbits + 1) - 2 else 2 ^ (f.fbits + 1) - 1

/-- The largest finite value. -/
def Fmt.largest (f : Fmt) (neg : Bool) : Val := .fin neg f.topSig f.etop

/-- The canonical NaN code (canonical-NaN table, R73, R79). -/
def Fmt.canonicalNaN (f : Fmt) : Nat :=
  if f.ieee then (2 ^ f.ebits - 1) * 2 ^ f.fbits + 2 ^ (f.fbits - 1) else 2 ^ (f.ebits + f.fbits) - 1

/-- Decode a code of a floating format (R63 to R65, R99 to R101 and IEEE 754-2019). -/
def Fmt.decode (f : Fmt) (code : Nat) : Val :=
  let neg := bitAt code (f.ebits + f.fbits)
  let e := bitsOf code f.fbits f.ebits
  let m := bitsOf code 0 f.fbits
  if f.ieee && e == 2 ^ f.ebits - 1 then (if m = 0 then .inf neg else .nan)
  else if f.nanTop && e == 2 ^ f.ebits - 1 && m == 2 ^ f.fbits - 1 then .nan
  else if e = 0 then .fin (if f.ieee then neg else neg && m != 0) m f.emin
  else .fin neg (m + 2 ^ f.fbits) ((e : Int) - f.bias - f.fbits)

/-- W48 decoding of a whole 64-bit container (R100). -/
def decodeW48 (c : Nat) : Val := if bitsOf c 48 16 = 0 then Fmt.w48.decode c else .nan

/-- The rounding rules: nearest even, the directed roundings of R80, and stochastic rounding with `q` random bits of
which `rnd` has been drawn (R84). -/
inductive Rounding where
  | nearest
  | towardZero
  | towardPos
  | towardNeg
  | stochastic (q rnd : Nat)
  deriving DecidableEq, Repr, Inhabited

/-- Round a quotient num / den, in units of the last place, to an integer magnitude. `sticky` adds a non-zero amount
below every bit of the quotient. -/
def roundQuot (r : Rounding) (neg : Bool) (num den : Nat) (sticky : Bool) : Nat :=
  let q := num / den
  let rem := num % den
  let exact := rem = 0 && !sticky
  match r with
  | .nearest =>
    if 2 * rem > den || (2 * rem = den && (sticky || q % 2 = 1)) then q + 1 else q
  | .towardZero => q
  | .towardPos => if !neg && !exact then q + 1 else q
  | .towardNeg => if neg && !exact then q + 1 else q
  | .stochastic b rnd => if rem * 2 ^ b / den + rnd ≥ 2 ^ b then q + 1 else q

/-- Whether the quotient is not an integer. -/
def inexactQuot (num den : Nat) (sticky : Bool) : Bool := num % den != 0 || sticky

/-- ⌊log2 n⌋ for n > 0. -/
def ilog2 (n : Nat) : Int := (Nat.log2 n : Int)

/-- What rounding into a format did, besides its result. -/
structure RoundInfo where
  inexact : Bool
  overflow : Bool
  /-- The magnitude lies below the smallest normal before rounding. -/
  tinyBefore : Bool
  /-- It does after rounding to the target precision with an unbounded exponent. -/
  tinyAfter : Bool
  /-- A short format saturated. -/
  saturated : Bool
  deriving DecidableEq, Repr, Inhabited

def RoundInfo.exact : RoundInfo := ⟨false, false, false, false, false⟩

/-- Exponent of the last place that num / den × 2^e has in format `f`. -/
def lastPlace (f : Fmt) (num den : Nat) (e : Int) : Int :=
  let g := ilog2 num - ilog2 den + e
  -- the leading bit lies at g or at g − 1
  let lead := if den * 2 ^ (ilog2 num - ilog2 den).toNat ≤ num * 2 ^ (ilog2 den - ilog2 num).toNat then g else g - 1
  max (lead - f.fbits) f.emin

/-- Round (−1)^neg × num / den × 2^e into `f` (R72, R79, R83 to R85); the result is a value of `f`. -/
def Fmt.roundRat (f : Fmt) (r : Rounding) (neg : Bool) (num den : Nat) (e : Int) (sticky : Bool) : Val × RoundInfo :=
  if num = 0 && !sticky then (.fin neg 0 0, .exact)
  else if num = 0 then
    -- a non-zero amount below every bit
    let up := roundQuot r neg 0 1 true
    (.fin neg up f.emin, { RoundInfo.exact with inexact := true, tinyBefore := true, tinyAfter := true })
  else
    let u := lastPlace f num den e
    let n := num * 2 ^ (e - u).toNat
    let d := den * 2 ^ (u - e).toNat
    let m := roundQuot r neg n d sticky
    let inex := inexactQuot n d sticky
    let tiny := u = f.emin && n < d * 2 ^ f.fbits
    let tinyA := tiny &&
      (let u' := ilog2 num - ilog2 den + e - f.fbits
       let u'' := if den * 2 ^ (ilog2 num - ilog2 den).toNat ≤ num * 2 ^ (ilog2 den - ilog2 num).toNat then u' else u' - 1
       let n' := num * 2 ^ (e - u'').toNat
       let d' := den * 2 ^ (u'' - e).toNat
       Val.lt (.fin false (roundQuot r neg n' d' sticky) u'') (.fin false (2 ^ f.fbits) f.emin))
    let beyond := (Val.fin false f.topSig f.etop).lt (.fin false m u)
    if beyond then
      if f.ieee then
        let toInf := match r with
          | .nearest => true
          | .towardZero => false
          | .towardPos => !neg
          | .towardNeg => neg
          | .stochastic .. => true
        (if toInf then .inf neg else f.largest neg, ⟨true, true, false, false, false⟩)
      else (f.largest neg, ⟨true, true, false, false, true⟩)
    else (.fin neg m u, ⟨inex, false, tiny, tinyA, false⟩)

/-- Round an exact value into `f`: an infinity or a NaN stays (a short format saturates an infinity, R72). -/
def Fmt.round (f : Fmt) (r : Rounding) : Val → Val × RoundInfo
  | .nan => (.nan, .exact)
  | .inf n => if f.ieee then (.inf n, .exact) else (f.largest n, ⟨true, true, false, false, true⟩)
  | .fin n m e => f.roundRat r n m 1 e false

/-- The code of a value that `f` holds. No short-format code is −0 (R65). -/
def Fmt.encode (f : Fmt) : Val → Nat
  | .nan => f.canonicalNaN
  | .inf n => (if n then 2 ^ (f.ebits + f.fbits) else 0) + (2 ^ f.ebits - 1) * 2 ^ f.fbits
  | .fin n m e =>
    let s := if n then 2 ^ (f.ebits + f.fbits) else 0
    if m = 0 then (if f.ieee then s else 0)
    else
      let u := max (ilog2 m + e - f.fbits) f.emin
      let sig := m * 2 ^ (e - u).toNat / 2 ^ (u - e).toNat
      if sig < 2 ^ f.fbits then s + sig
      else s + (u + f.bias + f.fbits).toNat * 2 ^ f.fbits + (sig - 2 ^ f.fbits)

/-- Round and encode. -/
def Fmt.convert (f : Fmt) (r : Rounding) (v : Val) : Nat := f.encode (f.round r v).1

/-- Round to nearest even, as a value. -/
def Fmt.rn (f : Fmt) (v : Val) : Val := (f.round .nearest v).1

/-- Quotient rounded to nearest even (correctly rounded division). -/
def Fmt.divide (f : Fmt) (r : Rounding) : Val → Val → Val × RoundInfo
  | .nan, _ => (.nan, .exact)
  | _, .nan => (.nan, .exact)
  | .inf _, .inf _ => (.nan, .exact)
  | .inf a, .fin b _ _ => (.inf (a ^^ b), .exact)
  | .fin a _ _, .inf b => (.fin (a ^^ b) 0 0, .exact)
  | .fin a m e, .fin b n g =>
    if n = 0 then (if m = 0 then (.nan, .exact) else (.inf (a ^^ b), .exact))
    else f.roundRat r (a ^^ b) m n (e - g) false

/-- Newton's iteration for the integer square root, from above. -/
def sqrtFrom (n : Nat) : Nat → Nat → Nat
  | 0, x => x
  | k + 1, x => let y := (x + n / x) / 2; if y < x then sqrtFrom n k y else x

/-- ⌊√n⌋; 64 iterations from above reach it for every n below 2^(2^60). -/
def isqrt (n : Nat) : Nat := if n ≤ 1 then n else sqrtFrom n 64 (2 ^ (n.log2 / 2 + 1))

/-- Square root, correctly rounded: the integer root of the significand with 16 bits and more below the last place of the
target, which a stochastic rounding reads (R84), and a sticky remainder. -/
def Fmt.squareRoot (f : Fmt) (r : Rounding) : Val → Val × RoundInfo
  | .nan => (.nan, .exact)
  | .inf n => (if n then .nan else .inf false, .exact)
  | .fin n m e =>
    if m = 0 then (.fin n 0 0, .exact)
    else if n then (.nan, .exact)
    else
      let k := 2 * (f.fbits + 19)
      let sh := if (e - k) % 2 = 0 then k else k + 1
      let x := m * 2 ^ sh
      let root := isqrt x
      f.roundRat r false root 1 ((e - sh) / 2) (root * root != x)

/-- Fraction bits that exponentials and logarithms are carried with. Every bound below errs by less than 2^−200 of its
value, and no result of a binary32 operand other than an exact one comes that near a rounding boundary (log entry 48). -/
def trBits : Nat := 256

/-- 2^(n / 2^k) for n < 2^k, rounded down, as a multiple of 2^−trBits: the product of the roots 2^(2^−i) of n's bits, from
the highest. -/
def pow2Frac (n : Nat) : Nat → Nat → Nat → Nat
  | 0, _, y => y
  | k + 1, root, y =>
    let root := isqrt (root * 2 ^ trBits)
    pow2Frac n k root (if bitAt n k then y * root / 2 ^ trBits else y)

/-- 2^x correctly rounded into `f`, for a finite x = (−1)^neg × mag × 2^e. -/
def Fmt.exp2 (f : Fmt) (r : Rounding) : Val → Val × RoundInfo
  | .nan => (.nan, .exact)
  | .inf n => (if n then .fin false 0 0 else .inf false, .exact)
  | .fin neg mag e =>
    if mag = 0 then (.fin false 1 0, .exact)
    else
      -- beyond these integers every result overflows or lies below half the smallest subnormal
      let bound : Int := 2 * (2 ^ f.ebits)
      let big := Val.lt (.fin false bound.toNat 0) (.fin false mag e)
      if big then
        if neg then f.roundRat r false 0 1 0 true else f.roundRat r false 1 1 bound false
      else
        let k := (-e).toNat
        let z : Int := if neg then -((mag * 2 ^ e.toNat : Nat) : Int) else ((mag * 2 ^ e.toNat : Nat) : Int)
        let lead := z / 2 ^ k
        let part := (z % 2 ^ k).toNat
        if part = 0 then f.roundRat r false 1 1 lead false
        else f.roundRat r false (pow2Frac part k (2 ^ (trBits + 1)) (2 ^ trBits)) 1 (lead - trBits) true

/-- The first `n` fraction bits of log2 of y × 2^−trBits, for 1 ≤ y × 2^−trBits < 2: each squaring gives one. -/
def log2Frac : Nat → Nat → Nat → Nat
  | 0, _, a => a
  | n + 1, y, a =>
    let y := y * y / 2 ^ trBits
    if 2 ^ (trBits + 1) ≤ y then log2Frac n (y / 2) (2 * a + 1) else log2Frac n y (2 * a)

/-- ⌊2^n × log2 (num × 2^e)⌋, for num > 0. -/
def log2Floor (num : Nat) (e : Int) (n : Nat) : Int :=
  (ilog2 num + e) * 2 ^ n + (log2Frac n (num * 2 ^ (trBits - num.log2)) 0 : Nat)

/-- log2 x correctly rounded into `f`, for x > 0. The logarithm of a number that is no power of two is irrational: it is never
a tie, and 2 × fbits + 8 fraction bits separate it from every representable value and midpoint; 16 more hold every bit that a
stochastic rounding reads (R84). -/
def Fmt.log2 (f : Fmt) (r : Rounding) : Val → Val × RoundInfo
  | .nan => (.nan, .exact)
  | .inf n => (if n then .nan else .inf false, .exact)
  | .fin neg mag e =>
    if mag = 0 then (.inf true, .exact)
    else if neg then (.nan, .exact)
    else if mag = 2 ^ mag.log2 then
      let z := ilog2 mag + e
      f.round r (finOfInt z 0 false)
    else
      let j := 2 * f.fbits + 24
      let a := log2Floor mag e j
      -- a / 2^j < log2 x < (a + 1) / 2^j: round the magnitude with a sticky remainder
      if 0 ≤ a then f.roundRat r false a.toNat 1 (-(j : Int)) true
      else f.roundRat r true ((-a).toNat - 1) 1 (-(j : Int)) true

/-- Round a value to an integer under a rounding rule; none for a NaN or an infinity. -/
def roundInt (r : Rounding) : Val → Option Int
  | .nan => none
  | .inf _ => none
  | .fin n m e =>
    let q := roundQuot r n (m * 2 ^ e.toNat) (2 ^ (-e).toNat) false
    some (if n then -(q : Int) else q)

/-- Saturate or wrap an integer into `w` bits (R91), as a number below 2^w. -/
def narrowInt (w : Nat) (wrap : Bool) (z : Int) : Nat :=
  if wrap then unsignedOf w z
  else
    let lo : Int := -(2 ^ (w - 1))
    let hi : Int := 2 ^ (w - 1) - 1
    unsignedOf w (if z < lo then lo else if hi < z then hi else z)

/-- Whether narrowing an integer into `w` bits saturates. -/
def saturatesInt (w : Nat) (z : Int) : Bool := decide (z < -(2 ^ (w - 1)) ∨ 2 ^ (w - 1) - 1 < z)

/-- The xorshift step of R86. -/
def genStep (s : Dword) : Dword :=
  let s := s ^^^ (s <<< 13)
  let s := s ^^^ (s >>> 7)
  s ^^^ (s <<< 17)

/-- rnd: the top q bits of an output (R84). -/
def genTop (q : Nat) (out : Dword) : Nat := out.toNat / 2 ^ (64 - q)

/-- mix64 of R89. -/
def mix64 (z : Dword) : Dword :=
  let z := (z ^^^ (z >>> 30)) * 0xBF58476D1CE4E5B9
  let z := (z ^^^ (z >>> 27)) * 0x94D049BB133111EB
  z ^^^ (z >>> 31)

/-- The seeding procedure of R89. -/
def seedOf (partitionSeed n : Dword) (fInStep : Nat) (laneId : Nat) : Dword :=
  let z := mix64 (n ^^^ (BitVec.ofNat 64 fInStep <<< 56))
  let z := mix64 (z ^^^ partitionSeed ^^^ BitVec.ofNat 64 laneId)
  if z = 0 then 0x9E3779B97F4A7C15 else z

/-- Fields of the numeric control byte. -/
def ncStochastic (n : Nat) : Bool := bitAt n 7
def ncFlush (n : Nat) : Bool := bitAt n 6
def ncWrap (n : Nat) : Bool := bitAt n 5
/-- Random bits selected: 0 selects 12. -/
def ncBits (n : Nat) : Nat := if bitsOf n 0 5 = 0 then 12 else bitsOf n 0 5

/-- The floating format of a format code (format-code table), with code 0x8 as binary32. -/
def fmtOf : Nat → Option Fmt
  | 0x0 => some .f4
  | 0x2 => some .f6
  | 0x3 => some .f8r
  | 0x4 => some .f8p
  | 0x6 => some .bf16
  | 0x7 => some .b16
  | 0x8 => some .b32
  | 0x9 => some .w48
  | _ => none

/-- Width in bits of one element of a format code, as stored in a frond buffer or in memory. -/
def codeBits : Nat → Nat
  | 0x0 => 4
  | 0x1 => 4
  | 0x2 => 8
  | 0x3 => 8
  | 0x4 => 8
  | 0x5 => 8
  | 0x6 => 16
  | 0x7 => 16
  | 0x8 => 32
  | 0x9 => 64
  | 0xA => 32
  | _ => 0

/-- Whether a code names a short format, which carries block scales (R67). -/
def isShort (c : Nat) : Bool := decide (c ≤ 5)

/-- Whether a code names an integer format, and its width. -/
def intWidth : Nat → Option Nat
  | 0x1 => some 4
  | 0x5 => some 8
  | 0xA => some 32
  | _ => none

/-- The value of an element code of a format, before its scales. -/
def decodeElem (fmt code : Nat) : Val :=
  match intWidth fmt with
  | some w => finOfInt (signed w code) 0 false
  | none =>
    if fmt = 0x9 then decodeW48 code
    else match fmtOf fmt with
      | some f => f.decode (code % 2 ^ f.width)
      | none => .nan

/-- Multiply by the block scale code (R67, R68). -/
def applyScale (scale : Nat) (v : Val) : Val :=
  if scale = 0xFF then .nan
  else match v with
    | .fin n m e => .fin n m (e + (scale : Int) - 127)
    | w => w

/-- Largest finite magnitude of a short format (short-format value table). -/
def shortLargest (fmt : Nat) : Val :=
  match fmt with
  | 0x1 => .fin false 7 0
  | 0x5 => .fin false 127 0
  | f => match fmtOf f with
    | some g => g.largest false
    | none => .zero

/-- The choosing rule of R71. -/
def chooseScale (fmt : Nat) (block : List Val) : Nat :=
  let amax := block.foldl (fun a v => if v.nonfinite then a else a.maxMag v) Val.zero
  let hasNaN := block.any (· == .nan)
  if hasNaN && fmt != 0x3 && fmt != 0x4 then 0xFF
  else match amax, shortLargest fmt with
    | .fin _ m e, .fin _ n g =>
      if m = 0 then 0x7F
      else
        -- ⌈log2 (m × 2^e / (n × 2^g))⌉: the least c with m × 2^e ≤ n × 2^(g + c)
        let c0 := ilog2 m + e - (ilog2 n + g)
        let fits := fun (c : Int) => !(Val.fin false n (g + c)).lt (.fin false m e)
        let c := if fits (c0 - 1) then c0 - 1 else if fits c0 then c0 else c0 + 1
        ((max (-127) (min 127 c)) + 127).toNat
    | _, _ => 0x7F

/-- Result of converting one element: its code, whether it saturated, and whether a NaN became an integer 0. -/
structure Conv where
  code : Nat
  saturated : Bool
  nanToInt : Bool
  deriving DecidableEq, Repr, Inhabited

/-- Convert a value into an element code of `fmt` (after division by its block scale, for a short format). -/
def convElem (fmt : Nat) (r : Rounding) (wrap : Bool) (v : Val) : Conv :=
  match intWidth fmt with
  | some w =>
    match v with
    | .nan => ⟨0, false, true⟩
    | .inf n =>
      -- the manual gives a wrapped infinity no value (log entry 123)
      if wrap && fmt == 0xA then ⟨(Config.wrapInfinity w n).toNat, false, false⟩
      else ⟨narrowInt w false (if n then -(2 ^ w) else 2 ^ w), true, false⟩
    | v =>
      match roundInt r v with
      | some z => ⟨narrowInt w (wrap && fmt == 0xA) z, !(wrap && fmt == 0xA) && saturatesInt w z, false⟩
      | none => ⟨0, false, true⟩
  | none =>
    match fmtOf fmt with
    | some f =>
      let (x, i) := f.round r v
      ⟨f.encode x, i.saturated, false⟩
    | none => ⟨0, false, false⟩

/-- Divide by a block scale code before conversion: exact. -/
def unscale (scale : Nat) (v : Val) : Val :=
  match v with
  | .fin n m e => .fin n m (e + 127 - (scale : Int))
  | w => w

/-- Odd part of a number, and the power of two beside it, in n steps. -/
def stripTwos : Nat → Nat → Nat → Nat × Nat
  | 0, m, k => (m, k)
  | n + 1, m, k => if m % 2 = 0 then stripTwos n (m / 2) (k + 1) else (m, k)

/-- The code of an element whose block reads as NaN whatever it holds: free, but one for each value (R117), and never a sign
alone (R65; log entry 5). -/
def nanBlockCode (fmt : Nat) (v : Val) : Nat :=
  let c := (match v with
    | .fin n m e =>
      let o := stripTwos m.log2 m 0
      if m = 0 then Config.nanBlockCode fmt 1 0 0 else Config.nanBlockCode fmt (if n then 2 else 1) o.1 (e + o.2)
    | _ => Config.nanBlockCode fmt 0 0 0) % 2 ^ (if fmt = 2 then 6 else codeBits fmt)
  match fmtOf fmt with
  | some f => if c = 2 ^ (f.ebits + f.fbits) then 0 else c
  | none => c

/-- Convert a value into an element of `fmt`, under its block scale for a short format (R72 to R74). A NaN in f4 or f6, and a
finite value under the NaN block's scale, have no code of their own. -/
def scaledElem (fmt scale : Nat) (r : Rounding) (wrap : Bool) (v : Val) : Conv :=
  let c := convElem fmt r wrap (if isShort fmt then unscale scale v else v)
  let open_ := match v with
    | .nan => fmt == 0 || fmt == 2
    | .inf _ => false
    | .fin .. => isShort fmt && scale == 0xFF
  if open_ then { c with code := nanBlockCode fmt v, saturated := false } else c

/-- Whether a value makes its block a NaN block of `fmt` (R73). -/
def spoilsBlock (fmt : Nat) (v : Val) : Bool := v == .nan && isShort fmt && fmt != 3 && fmt != 4

/-- The top `n` significant bits of a binary32 magnitude from bit `skip` below its leading bit on (R105). The rule speaks of
finite values: the first piece of an infinity is the infinity and the others are zeros of its sign, and every piece of a NaN is
a NaN (DESIGN CHOICE, log entry 124). -/
def pieceOf (i : Nat) : Val → Val
  | .fin neg m e =>
    if m = 0 then .fin neg 0 0
    else
      -- align the significand to 24 bits, so that pieces are 8-bit groups from the top
      let up := 24 - (Nat.log2 m + 1)
      let sig := m * 2 ^ up
      let e' := e - up
      let part := sig / 2 ^ (16 - 8 * i) % 256
      let w : Int := e' + (16 - 8 * i : Nat)
      -- bits of weight below 2^−133 are dropped (R106)
      let drop := (-133 - w).toNat
      .fin neg (part / 2 ^ drop) (w + drop)
  | .nan => .nan
  | .inf n => if i = 0 then .inf n else .fin n 0 0

/-- Pieces of each group of 32 steps, for operand A (role false) or B (piece-order table): 0 hi, 1 mid, 2 lo. -/
def pieceOrder (passes : Nat) (roleB : Bool) : List Nat :=
  match passes with
  | 0 => [0]
  | 1 => if roleB then [0, 1, 0] else [0, 0, 1]
  | 2 => if roleB then [0, 1, 0, 2, 0, 1] else [0, 0, 1, 0, 2, 1]
  | _ => []

end Sys2Proof.Machine
end

