-- ==== Sys2Proof/Machine/Array.lean ====
section
/-! DEFINITION. The array and the accumulators: DENSE_TILE and DRAIN (chapter 3, R119 to R158, and R94 to R107). The
accumulators are held as W48 codes, into which binary32 and bfloat16 widen exactly (log entry 12). -/

namespace Sys2Proof.Machine

/-! ### Accumulators -/

/-- Key of an accumulator. -/
def accKey (f bank r c : Nat) : Nat := ((f * 2 + bank) * 128 + r) * 128 + c

def State.accVal (s : State) (f bank r c : Nat) : Val := decodeW48 (sget (fun _ => (0 : Dword)) s.acc (accKey f bank r c)).toNat

/-- The accumulator format of a mode (acc_mode). -/
def accFmt : Nat → Fmt
  | 0 => .w48
  | 1 => .b32
  | _ => .bf16

/-- Write accumulator values, as (row, column, value); a written word is stored under its code again. -/
def State.putAcc (s : State) (f bank : Nat) (vs : List (Nat × Nat × Val)) : State :=
  let s := if s.frondFlips.isEmpty then s
    else vs.foldl (fun s v => s.cleanWords f .accumulator (2 * ((bank * 128 + v.1) * 128 + v.2.1)) 2) s
  { s with acc := vs.foldl (fun m v =>
      sput (fun _ => (0 : Dword)) m (accKey f bank v.1 v.2.1) (BitVec.ofNat 64 (Fmt.w48.encode v.2.2))) s.acc }

/-! ### Products and block sums -/

/-- Exact sum of a block's products (R95, R98). -/
def sumExact (ps : List Val) : Val := ps.foldl (Val.add false) Val.zero

/-- Exponent of a product's leading bit. -/
def leadOf : Val → Option Int
  | .fin _ m e => if m = 0 then none else some (ilog2 m + e)
  | _ => none

/-- The sum of a block of 16-bit products in the 72-bit window of R96: bits more than 70 places below the largest
product exponent are collected in a sticky bit. The exponent is taken as that of the product's leading bit
(log entry 13). -/
def sumWindow (ps : List Val) : Val × Bool :=
  match ps.foldl (fun (a : Option Int) v => match a, leadOf v with
      | none, x => x
      | x, none => x
      | some p, some q => some (max p q)) none with
  | none => (sumExact ps, false)
  | some top =>
    let low := top - 70
    let cut := fun (v : Val) => match v with
      | .fin n m e => if e < low then Val.fin n (m / 2 ^ (low - e).toNat) low else .fin n m e
      | w => w
    let lost := ps.any fun v => match v with
      | .fin _ m e => decide (e < low) && m % 2 ^ (low - e).toNat != 0
      | _ => false
    (sumExact (ps.map cut), lost)

/-- Round a block sum into the accumulator format (R97). -/
def roundSum (f : Fmt) (v : Val) (sticky : Bool) : Val :=
  match v with
  | .fin n m e => (f.roundRat .nearest n m 1 e sticky).1
  | w => (f.round .nearest w).1

/-- Weight of the lowest place of a sum of products: the least exponent of a product that is not zero. -/
def lowPlace (ps : List Val) : Int :=
  (ps.foldl (fun (a : Option Int) v => match v with
    | .fin _ m e => if m = 0 then a else some (match a with | some x => min x e | none => e)
    | _ => a) none).getD 0

/-- Residue modulo 3 of a finite value as a multiple of 2^lo. -/
def Val.mod3 (lo : Int) : Val → Nat
  | .fin n m e =>
    let r := m % 3 * (if (e - lo) % 2 = 0 then 1 else 2) % 3
    if n then (3 - r) % 3 else r
  | _ => 0

/-- The residue cell's sum, modulo 3, of operand pairs, from their significands (R156, R157). -/
def pairResidue (lo : Int) (ps : List (Val × Val)) : Nat :=
  (ps.map fun x => match x.1, x.2 with
    | .fin _ _ ea, .fin _ _ eb => x.1.mod3 ea * x.2.mod3 eb * (if (ea + eb - lo) % 2 = 0 then 1 else 2)
    | _, _ => 0).sum % 3

/-- The exact sum of a group of four products with the error of one of them (R97). -/
def sumA16 (ps : List (Val × Val)) (u : Option Upset) : Val :=
  let prods := ps.map fun x => Val.mul x.1 x.2
  match u with
  | none => sumExact prods
  | some u =>
    let k := u.item % prods.length
    let q := prods.getD k .zero
    sumExact (prods.set k (Val.add false q (finOfInt u.error (lowPlace [q]) false)))

/-- The sum of one block with its sticky bit, and whether the residue cell disagrees. A short-format or integer block is
summed exactly and its sum is checked (R95, R156); of 16-bit operands or pieces each product is (R96, R157). -/
def blockSum (exact : Bool) (ps : List (Val × Val)) (u : Option Upset) : (Val × Bool) × Bool :=
  let prods := ps.map fun x => Val.mul x.1 x.2
  let sum := fun (l : List Val) => if exact then (sumExact l, false) else sumWindow l
  match u with
  | none => (sum prods, false)
  | some u =>
    let bad := fun (v : Val) (lo : Int) (l : List (Val × Val)) => !v.nonfinite && v.mod3 lo != pairResidue lo l
    if exact then
      let lo := lowPlace prods
      let v := Val.add false (sumExact prods) (finOfInt u.error lo false)
      ((v, false), bad v lo ps)
    else
      let k := u.item % prods.length
      let q := ps.getD k (.zero, .zero)
      let lo := lowPlace [Val.mul q.1 q.2]
      let v := Val.add false (Val.mul q.1 q.2) (finOfInt u.error lo false)
      (sum (prods.set k v), bad v lo [q])

/-- Add block sums to an accumulator in ascending order; the first replaces it when it does not accumulate (R97,
R102, R144). -/
def accumulate (f : Fmt) (keep : Bool) (acc : Val) : List (Val × Bool) → Val
  | [] => acc
  | b :: bs =>
    let r := roundSum f b.1 b.2
    accumulate f true (if keep then f.rn (Val.add false acc r) else r) bs

/-- Split a list into groups of n. -/
def chunks {α : Type} (n : Nat) : Nat → List α → List (List α)
  | 0, _ => []
  | k + 1, l => l.take n :: chunks n k (l.drop n)

/-! ### DENSE_TILE -/

/-- Rows of a sub-array (R132). -/
def subRows (split : Nat) : Nat := 128 / 2 ^ split

/-- Whether a tile's operands are 16-bit elements in the buffer. -/
def is16 (fmt : Nat) : Bool := fmt == 6 || fmt == 7 || fmt == 8

/-- Elements per slot (format-code table; A16 mode doubles a 16-bit slot, R128, R129). -/
def slotElems (fmt accMode : Nat) : Nat :=
  if fmt ≤ 1 then 4 else if fmt ≤ 5 then 2 else if accMode = 2 then 2 else 1

def slotWidth (accMode : Nat) : Nat := if accMode = 2 then 4 else 2

/-- Piece products of the passes field (R107). -/
def pieceCount (fmt passes : Nat) : Nat := if fmt = 8 then (pieceOrder passes false).length else 1

/-- Steps of a tile (R129). -/
def denseSteps (b : DenseBody) : Nat := 32 * b.kBlocks * pieceCount b.fmtA b.passes / slotElems b.fmtA b.accMode

/-- The element code at position x of row or column j of a panel in the skewed layout (R128, R124). -/
def State.panelCode (s : State) (f addr fmt accMode j x : Nat) : Nat :=
  let e := slotElems fmt accMode
  let w := slotWidth accMode
  let slot := addr + (x / e + j) * 128 * w + j * w
  let k := x % e
  if fmt ≤ 1 then
    let byte := (s.bufByte f (slot + k / 2)).toNat
    if k % 2 = 0 then byte % 16 else byte / 16
  else if fmt ≤ 5 then
    let byte := (s.bufByte f (slot + k)).toNat
    if fmt = 2 then byte % 64 else byte
  else s.bufNat f (slot + 2 * k) 2

/-- Element value at position x, before scales; format 0x8 holds bfloat16 pieces. -/
def State.panelVal (s : State) (f addr fmt accMode j x : Nat) : Val :=
  decodeElem (if fmt = 8 then 6 else fmt) (s.panelCode f addr fmt accMode j x)

/-- Block scale of block kb for row or column j (R131). -/
def State.panelScale (s : State) (f addr kb j : Nat) : Nat := (s.bufByte f (addr + 128 * kb + j)).toNat

/-- Apply a short operand's block scale to a value (R67, R68). -/
def scaledBy (short : Bool) (scale : Nat) (v : Val) : Val := if short then applyScale scale v else v

/-- The error of a tile's arithmetic in block k of cell (i, c). -/
def upsetAt (u : Option Upset) (i c k : Nat) : Option Upset := u.filter fun u => u.row == i && u.col == c && u.block == k

/-- Block sums of cell (i, c) of a tile, in ascending order: one of each 32 elements (of each group of 32 steps for
pieces), or of each 4 products in A16 mode (R95 to R97, R107, R130); with each, whether its residue cell disagrees. Slots
beyond rows_valid or cols_valid are zero (R137). -/
def State.denseBlocks (s : State) (f : Nat) (b : DenseBody) (u : Option Upset) (i c : Nat) : List ((Val × Bool) × Bool) :=
  let n := 32 * b.kBlocks * pieceCount b.fmtA b.passes
  let liveA := decide (i < b.rowsValid)
  let liveB := decide (c < b.colsValid)
  let prods := (List.range n).map fun x =>
    let va := if liveA then scaledBy (isShort b.fmtA) (s.panelScale f b.aScaleAddr (x / 32) i)
        (s.panelVal f b.aAddr b.fmtA b.accMode i x) else Val.zero
    let vb := if liveB then scaledBy (isShort b.fmtB) (s.panelScale f b.bScaleAddr (x / 32) c)
        (s.panelVal f b.bAddr b.fmtB b.accMode c x) else Val.zero
    (va, vb)
  let a16 := b.accMode == 2
  ((if a16 then chunks 4 (n / 4) prods else chunks 32 (n / 32) prods).zipIdx).map fun g =>
    if a16 then
      -- the group sum of four products is exact, and their residue cells check each product (R97, R157)
      let r := blockSum false g.1 (upsetAt u i c g.2)
      ((sumA16 g.1 (upsetAt u i c g.2), false), r.2)
    else blockSum (isShort b.fmtA) g.1 (upsetAt u i c g.2)

/-- The value a tile leaves in cell (i, c) of its sub-array. -/
def State.denseCell (s : State) (f : Nat) (b : DenseBody) (u : Option Upset) (i c : Nat) : Val :=
  accumulate (accFmt b.accMode) b.accumulate (s.accVal f b.bank (subRows b.split * b.sub + i) c)
    ((s.denseBlocks f b u i c).map (·.1))

/-- Whether a residue cell disagrees while the tile runs. -/
def State.denseDisagrees (s : State) (f : Nat) (b : DenseBody) (u : Option Upset) : Bool :=
  u.any fun x => decide (x.row < subRows b.split) && decide (x.col < 128) && (s.denseBlocks f b u x.row x.col).any (·.2)

/-- Whether two row ranges meet. -/
def rowsMeet (a n b m : Nat) : Bool := decide (a < b + m ∧ b < a + n)

/-- The interlock of the accumulator banks (R134, R141, R142) and of lane-mode tiles (R187, R188): what a DENSE_TILE or
a DRAIN waits on. A drain that has not completed counts as still reading (log entry 15). -/
def State.bankWait (s : State) (f bank row0 rows split : Nat) (drain : Bool) : Option Wait :=
  let x := s.frond f
  let conflict := x.jobs.any fun j => match j.body with
    | .dense bk r n _ sp _ => if drain then bk == bank && rowsMeet row0 rows r n else sp != split
    | .drain bk r n => !drain && (bk == bank && rowsMeet row0 rows r n || x.split != split)
    | .sparse bk .. => !drain || bk == bank
    | .sampled .. => !drain
    | _ => false
  if conflict then some .engine else none

/-- Panel bytes of an operand: n + 127 lines of 128 slots (R128). -/
def panelBytes (b : DenseBody) : Nat := (denseSteps b + 127) * 128 * slotWidth b.accMode

/-- Every frond-buffer byte the tile's feed reads (R137, R131): of each line of A the slots of the sub-array's rows (R133). -/
def denseReads (b : DenseBody) : List Nat :=
  ((List.range (denseSteps b + 127)).flatMap fun t =>
      rangeFrom (b.aAddr + t * 128 * slotWidth b.accMode) (subRows b.split * slotWidth b.accMode))
    ++ rangeFrom b.bAddr (panelBytes b)
    ++ (if isShort b.fmtA then rangeFrom b.aScaleAddr (128 * b.kBlocks) else [])
    ++ (if isShort b.fmtB then rangeFrom b.bScaleAddr (128 * b.kBlocks) else [])

/-- Engine counters of a tile: cycles lost to bank conflicts and cycles the array fed (R120). -/
def State.arrayCycles (s : State) (i : Issue) (sub : Nat) : State :=
  (s.countStalls (ownBank i.frond (.feed sub)) i.contests).count64 clsFrond i.frond 0x1110 i.cycles

/-- Detail of a RESIDUE_MISMATCH: sub-array [63:56], row [55:48], column [47:40], bank [39:32] and block index [31:0]. The
manual names the fields without their places (R158; DESIGN CHOICE, log entry 6). -/
def residueDetail (sub bank : Nat) (u : Upset) : Nat :=
  sub % 256 * 2 ^ 56 + u.row % 256 * 2 ^ 48 + u.col % 256 * 2 ^ 40 + bank % 256 * 2 ^ 32 + u.block % 2 ^ 32

/-- RESIDUE_MISMATCH when a residue cell disagrees (R158). -/
def State.residue (s : State) (i : Issue) (p sub bank : Nat) (bad : Bool) : State :=
  if bad then
    let s := (s.count32 clsFrond i.frond 0x1124 1).setBit clsFrond i.frond offStatus 14
    let s := s.modFrond i.frond fun x => { x with residueTicks := s.tickNow :: x.residueTicks }
    s.faultOfFrond p i.frond fun s =>
      s.descFault p cResidue 0 ((i.upset.map (residueDetail sub bank)).getD 0) clsFrond i.frond i.addr
  else s

/-- Words of an accumulator bank's rows and columns. -/
def accWords (bank row0 rows cols : Nat) : List Nat :=
  (rangeFrom row0 rows).flatMap fun r => rangeFrom (2 * ((bank * 128 + r) * 128)) (2 * cols)

/-- DENSE_TILE (R125 to R137, R144). -/
def runDense (i : Issue) (b : DenseBody) : Run := fun p _ _ s =>
  let s := s.arrayCycles i b.sub
  match (s.bufFault p i.frond i.addr (denseReads b)).orElse fun _ =>
      if b.accumulate then s.storeFault p i.frond i.addr .accumulator (accWords b.bank (subRows b.split * b.sub) (subRows b.split) 128)
      else none with
  | some s => (s, none)
  | none =>
    let R := subRows b.split
    let vals := (List.range R).flatMap fun r => (List.range 128).map fun c => (R * b.sub + r, c, s.denseCell i.frond b i.upset r c)
    let bad := s.denseDisagrees i.frond b i.upset
    let s := (s.putAcc i.frond b.bank vals).modFrond i.frond fun x => { x with split := b.split }
    (s.residue i p b.sub b.bank bad, some (.dense b.bank (R * b.sub) R b.sub b.split (denseSteps b)))

def execDenseTile (i : Issue) (b : DenseBody) (s : State) : Out :=
  issueRow s i (isDense b) (b.wf && i.seq == .execute) (fun _ s => s.bankWait i.frond b.bank (subRows b.split * b.sub) (subRows b.split) b.split false) (runDense i b)

/-- DENSE_TILE completes when its flush marker reaches the last cell (R126, R138). -/
def execDenseTileComplete (f id : Nat) (s : State) : Out :=
  completeRow s f id fun j s => match j.body with
    | .dense .. => some s
    | _ => none

/-! ### DRAIN -/

/-- The writes of one element of a format at a row address (R124). -/
def elemWrites (fmt row x code : Nat) : List ByteWrite :=
  if fmt ≤ 1 then
    [if x % 2 = 0 then ⟨row + x / 2, 0x0F, BitVec.ofNat 8 (code % 16)⟩ else ⟨row + x / 2, 0xF0, BitVec.ofNat 8 (code % 16 * 16)⟩]
  else
    (cellsAt (row + x * (codeBits fmt / 8)) (leBytes (codeBits fmt / 8) (if fmt = 2 then code % 64 else code))).map
      fun c => ⟨c.1, 0xFF, c.2⟩

/-- Draw the rounding of one conversion under a numeric control byte from generator k (R84, R86): one output for each
converted element, also where the conversion widens and nothing is rounded away (DEDUCED, log entry 121). -/
def drawRound (gens : List (Nat × Dword)) (k numctl : Nat) : Rounding × List (Nat × Dword) :=
  if ncStochastic numctl then
    let v := genStep (sget (fun _ => genReset) gens k)
    (.stochastic (ncBits numctl) (genTop (ncBits numctl) v), sput (fun _ => genReset) gens k v)
  else (.nearest, gens)

/-- Bytes of n elements of a format in a row. -/
def rowBytes (fmt n : Nat) : Nat := cdiv (n * codeBits fmt) 8

/-- Accumulated work of a drain: the writes, generators and NaNs counted. -/
structure DrainAcc where
  writes : List ByteWrite
  gens : List (Nat × Dword)
  nans : Nat
  deriving DecidableEq, Repr

/-- y of R146 for element (r, c): the bank value scaled and combined with its epilogue element, in W48. -/
def State.drainValue (s : State) (f : Nat) (b : DrainBody) (r c : Nat) : Val :=
  let a := s.accVal f b.bank (subRows b.split * b.sub + r) c
  let y := if b.outScale = 0x3F800000 then a else Fmt.w48.rn (Val.mul a (Fmt.b32.decode b.outScale.toNat))
  if b.epiOp = 0 then y
  else
    let w := codeBits b.epiFmt / 8
    let code := s.bufNat f (b.epiAddr + r * b.epiStride + c * w) w
    let e := decodeElem b.epiFmt code
    if b.epiOp = 1 then Fmt.w48.rn (Val.add false y e)
    else if e = Val.one then y else Fmt.w48.rn (Val.mul y e)

/-- A bfloat16 result with flush_bf16: a subnormal becomes zero of the same sign (R103). -/
def flushBf16 (numctl fmt code : Nat) : Nat :=
  if fmt = 6 && ncFlush numctl && bitsOf code 7 8 == 0 then code / 2 ^ 15 * 2 ^ 15 else code

/-- One element of an unscaled output format. -/
def drainElem (f : Nat) (b : DrainBody) (r c : Nat) (y : Val) (d : DrainAcc) : DrainAcc :=
  let row := b.outAddr + r * b.outStride
  if b.outFmt = 9 then { d with writes := d.writes ++ elemWrites 9 row c (Fmt.w48.encode y) }
  else
    let (rnd, g) := drawRound d.gens (f * 128 + c) b.numctl
    let v := convElem b.outFmt rnd (ncWrap b.numctl) y
    { d with writes := d.writes ++ elemWrites b.outFmt row c (flushBf16 b.numctl b.outFmt v.code), gens := g
             nans := d.nans + (if v.nanToInt then 1 else 0) }

/-- One 32-column block of a row in a block-scaled output format (R148, R71 to R74): its scale byte and the elements
below cols_valid. -/
def drainBlock (f : Nat) (b : DrainBody) (r k : Nat) (ys : List Val) (d : DrainAcc) : DrainAcc :=
  let row := b.outAddr + r * b.outStride
  let scale := chooseScale b.outFmt ys
  let d := { d with writes := d.writes ++ [⟨b.outScaleAddr + 4 * r + k, 0xFF, BitVec.ofNat 8 scale⟩] }
  (ys.zipIdx.filter fun y => decide (32 * k + y.2 < b.colsValid)).foldl
    (fun d y =>
      let c := 32 * k + y.2
      let (rnd, g) := drawRound d.gens (f * 128 + c) b.numctl
      let v := scaledElem b.outFmt scale rnd false y.1
      { d with writes := d.writes ++ elemWrites b.outFmt row c v.code, gens := g
               nans := d.nans + (if v.nanToInt then 1 else 0) })
    d

/-- Whether the gating bitmap lets element (r, c) be written (R152). -/
def State.gated (s : State) (f : Nat) (b : DrainBody) (r c : Nat) : Bool :=
  !b.maskGate || (s.bufByte f (b.maskAddr + 16 * r + c / 8)).getLsbD (c % 8)

/-- One row of a drain. -/
def State.drainRow (s : State) (f : Nat) (b : DrainBody) (d : DrainAcc) (r : Nat) : DrainAcc :=
  if isShort b.outFmt then
    (List.range 4).foldl (fun d k =>
      drainBlock f b r k ((List.range 32).map fun x =>
        if 32 * k + x < b.colsValid then s.drainValue f b r (32 * k + x) else Val.zero) d) d
  else
    ((List.range b.colsValid).filter fun c => s.gated f b r c).foldl (fun d c => drainElem f b r c (s.drainValue f b r c) d) d

/-- Frond-buffer bytes a drain reads: the epilogue tensor and the gating bitmap. -/
def drainReads (b : DrainBody) : List Nat :=
  (List.range b.rowsValid).flatMap fun r =>
    (if b.epiOp = 0 then [] else rangeFrom (b.epiAddr + r * b.epiStride) (rowBytes b.epiFmt b.colsValid))
      ++ (if b.maskGate then rangeFrom (b.maskAddr + 16 * r) 16 else [])

/-- Frond-buffer bytes row r of a drain reads or may write. -/
def drainRowBytes (b : DrainBody) (r : Nat) : List Nat :=
  (if b.epiOp = 0 then [] else rangeFrom (b.epiAddr + r * b.epiStride) (rowBytes b.epiFmt b.colsValid))
    ++ (if b.maskGate then rangeFrom (b.maskAddr + 16 * r) 16 else [])
    ++ rangeFrom (b.outAddr + r * b.outStride) (rowBytes b.outFmt b.colsValid)
    ++ (if isShort b.outFmt then rangeFrom (b.outScaleAddr + 4 * r) 4 else [])

/-- The row of a drain whose bytes hold the first that is outside the buffer. -/
def drainRowOut (d : List (Nat × List Nat)) : Option (Nat × Nat) :=
  d.findSome? fun r => (r.2.find? fun a => decide (frondBytes ≤ a)).map fun a => (r.1, a)

/-- What stops a drain before it writes: a row outside the buffer, or a word it reads of the buffer or of its bank.
A BUFFER_OVERFLOW names its row in bits [55:48] of the detail, above the address; an
UNCORRECTABLE names it by the address of the unit (R155; DESIGN CHOICE, log entry 98). -/
def State.drainFault (s : State) (p : Nat) (i : Issue) (b : DrainBody) : Option State :=
  match drainRowOut ((List.range b.rowsValid).map fun r => (r, drainRowBytes b r)) with
  | some (r, a) => some (s.descFault p cOverflow 2 (r % 256 * 2 ^ 48 + a % 2 ^ 48) clsFrond i.frond i.addr)
  | none => (s.bufFault p i.frond i.addr (drainReads b)).orElse fun _ =>
      s.storeFault p i.frond i.addr .accumulator (accWords b.bank (subRows b.split * b.sub) b.rowsValid b.colsValid)

/-- DRAIN (R145 to R153). -/
def runDrain (i : Issue) (b : DrainBody) : Run := fun p _ _ s =>
  let s := s.countStalls (ownBank i.frond .drain) i.contests
  let d := (List.range b.rowsValid).foldl (s.drainRow i.frond b) { writes := [], gens := s.gens, nans := 0 }
  match s.drainFault p i b with
  | some s => (s, none)
  | none =>
    let (t, ok) := { s with gens := d.gens }.bufPutFor p i.frond i.addr d.writes
    (t.count32 clsFrond i.frond 0x1128 d.nans,
     if ok then some (.drain b.bank (subRows b.split * b.sub) (subRows b.split)) else none)

def execDrain (i : Issue) (b : DrainBody) (s : State) : Out :=
  issueRow s i (isDrain b) (b.wf && i.seq == .execute) (fun _ s => s.bankWait i.frond b.bank (subRows b.split * b.sub) (subRows b.split) b.split true) (runDrain i b)

/-- DRAIN completes when its last row is written (R155). -/
def execDrainComplete (f id : Nat) (s : State) : Out :=
  completeRow s f id fun j s => match j.body with
    | .drain .. => some (s.count32 clsFrond f 0x112C 1)
    | _ => none

end Sys2Proof.Machine
end

