-- ==== Sys2Proof/Machine/Function.lean ====
section
/-! DEFINITION. The function that the host sees: configuration space, the HDM decoders and the CXL component registers, and IDE
(R444 to R448, R458, R459). No row of the command table reads or writes configuration space but the change of power state; what
stands there is given as functions of State. -/

namespace Sys2Proof.Machine

/-! ### The link (R444, R445) -/

/-- Whether a host port's offer trains the link. -/
def portTrains (h : HostPort) : Bool := h.flit256 && [128, 64, 32].contains h.rate && [16, 8, 4].contains h.width

/-- Train the link with what the host port offers; a port that cannot do it leaves the link down (R445). -/
def State.trainLink (s : State) (h : HostPort) : State :=
  if portTrains h then { s with pkg := { s.pkg with linkUp := true, linkRate := h.rate, linkWidth := h.width } }
  else { s with pkg := { s.pkg with linkUp := false } }

/-! ### IDE (R447) -/

/-- How traffic of a link is protected. -/
inductive IdeMode where
  | none | containment | linkStream
  deriving DecidableEq, Repr

/-- The protection in force: containment mode on CXL.cache and CXL.mem, a link stream on CXL.io, and none before the host has
established a stream. Skid mode does not occur. -/
def State.ideMode (s : State) (l : IdeLink) : IdeMode :=
  if s.indus.ide.any fun x => x.link == l && x.active then (match l with | .cacheMem => .containment | .io => .linkStream) else .none

/-- The entry of a stream, or a fresh one. -/
def Indusium.ideStream (x : Indusium) (l : IdeLink) (n : Nat) : IdeStream :=
  (x.ide.find? fun e => e.link == l && e.stream == n).getD { link := l, stream := n, rxKey := none, txKey := none, active := false }

/-- Put an entry of a stream. -/
def Indusium.putIde (x : Indusium) (e : IdeStream) : Indusium :=
  { x with ide := e :: x.ide.filter fun y => !(y.link == e.link && y.stream == e.stream) }

/-- An IDE_KM message of an SPDM session: keys are programmed for each direction, put to use when both stand, and stopped; whether
it took effect (log entry 141). -/
def Indusium.ideKm (x : Indusium) : IdeKm → Indusium × Bool
  | .query => (x, true)
  | .keyProg l n rx k =>
    let e := x.ideStream l n
    (x.putIde (if rx then { e with rxKey := some k } else { e with txKey := some k }), true)
  | .keysGo l n =>
    let e := x.ideStream l n
    if e.rxKey.isSome && e.txKey.isSome then (x.putIde { e with active := true }, true) else (x, false)
  | .keysStop l n =>
    let e := x.ideStream l n
    if e.active then ({ x with ide := x.ide.filter fun y => !(y.link == l && y.stream == n) }, true) else (x, false)

/-! ### Configuration space (R458) -/

/-- The capability list, in the order of the manual. -/
inductive Capability where
  | pciExpress | powerManagement | msix | advancedErrorReporting | dataObjectExchange | pcieIde
  | dvsecCxlDevice | dvsecRegisterLocator | dvsecFlexBusPort
  deriving DecidableEq, Repr

def capabilityList : List Capability :=
  [.pciExpress, .powerManagement, .msix, .advancedErrorReporting, .dataObjectExchange, .pcieIde, .dvsecCxlDevice,
    .dvsecRegisterLocator, .dvsecFlexBusPort]

/-- The capabilities in the CXL component registers, which the register locator points to. -/
inductive Component where
  | hdmDecoder | ras | cxlIde
  deriving DecidableEq, Repr

def componentList : List Component := [.hdmDecoder, .ras, .cxlIde]

/-- Base and size of HDM decoder k (decoder table); a failed channel's is empty. -/
def State.decoder (s : State) (k : Nat) : Nat × Nat :=
  if k = 0 then (0, 0x4000_0000)
  else if k = 1 then (0x0100_0000_0000, 768 * 2 ^ 30)
  else (0x0200_0000_0000 + (k - 2) * 0x0040_0000_0000, if s.memStateOf (8 + (k - 2)) = 4 then 0 else s.memCap (8 + (k - 2)) * 2 ^ 30)

/-- What the component registers hold: the ten decoders, the RAS log, the IDE streams in use, and what the host wrote. -/
def State.componentValues (s : State) : List Nat :=
  ((List.range 10).flatMap fun k => [(s.decoder k).1, (s.decoder k).2]) ++ [if s.pkg.aerLogged then 1 else 0]
    ++ (s.indus.ide.flatMap fun e => [match e.link with | .cacheMem => 0 | .io => 1, e.stream, if e.active then 1 else 0])
    ++ s.component.flatMap fun c => [c.1, c.2.toNat]

/-- Class code: processing accelerator. -/
def classCode : Nat := 0x12_0000

/-- Device ID. -/
def deviceId : Nat := 0x9608

/-- A 32-bit word of the configuration space of function 0: the IDs, class and revision, and the BARs. BAR0 is a 64-bit,
non-prefetchable memory BAR; the base that the host gives it is the host's (log entry 142). The other words hold the capability
list, the power state and the error log, at places that the manual does not give. -/
def State.configRead (s : State) (off : Nat) : BitVec 32 :=
  match off / 4 with
  | 0 => BitVec.ofNat 32 (deviceId * 2 ^ 16 + Config.vendorId.toNat)
  | 2 => BitVec.ofNat 32 (classCode * 2 ^ 8 + Config.rev.toNat % 256)
  | 4 => 4
  | 5 | 6 | 7 | 8 | 9 => 0
  | _ => Config.configWord [if s.pkg.d3hot then 1 else 0, if s.pkg.aerLogged then 1 else 0, s.pkg.linkRate, s.pkg.linkWidth] off

/-! ### Requests that are not supported (R459) -/

/-- Whether the link carries requests at all. -/
def State.linkServes (s : State) : Bool := s.pkg.pwrOk && !s.pkg.perst && s.pkg.linkUp && !s.pkg.inWarmReset

/-- Whether BAR0 and CXL.mem requests are served: in D3hot they are not (R459, R616). -/
def State.hostReady (s : State) : Bool := s.linkServes && !s.pkg.d3hot

/-- A request completes as an unsupported request: a read gives the host nothing. -/
def State.unsupported (s : State) (read : Bool) : State :=
  { s with host := if read then { s.host with unsupported := s.host.unsupported + 1, reg := 0, memData := [], memPoison := false }
                   else { s.host with unsupported := s.host.unsupported + 1 } }

/-- A BAR0 or CXL.mem request. -/
def hostRow (read : Bool) (run : State → State) (s : State) : Out :=
  .next (if s.hostReady then run s else if s.linkServes then s.unsupported read else s)

end Sys2Proof.Machine
end

