-- ==== Sys2Proof/Machine/Semaphores.lean ====
section
/-! DEFINITION. Semaphores and their signals (R307 to R317), ticket counters (R323 to R328) and TICK_WAIT (R382). -/

namespace Sys2Proof.Machine

/-! ### Semaphores -/

/-- The object code of a semaphore (detail table, WAIT_CYCLE). -/
def semObject : SemRef → Nat
  | .filled n => n
  | .freed n => n
  | .plain f m => 0x8000 + 16 * f + m

/-- The ledger that counts a semaphore's signals: 0x1 for FREED, 0x2 for FILLED and plain semaphores (R53, R401). -/
def semLedger : SemRef → Nat
  | .freed _ => 1
  | .filled _ => 2
  | .plain _ _ => 2

/-- Value and limit of a semaphore (R311, R315); none for an end of an unbound stream. -/
def State.semaphore (s : State) : SemRef → Option (Nat × Nat)
  | .filled n => (s.stream n).map fun x => (x.filled.toNat, x.depth)
  | .freed n => (s.stream n).map fun x => (x.freed.toNat, x.depth)
  | .plain f m => some ((sget (fun _ => (0 : BitVec 16)) (s.frond f).plainSems m).toNat, 65535)

/-- Set a semaphore's value. -/
def State.setSemaphore (s : State) (r : SemRef) (v : Nat) : State :=
  match r with
  | .filled n => match s.stream n with
    | some x => s.setStream n (some { x with filled := BitVec.ofNat 16 v })
    | none => s
  | .freed n => match s.stream n with
    | some x => s.setStream n (some { x with freed := BitVec.ofNat 16 v })
    | none => s
  | .plain f m => s.modFrond f fun x => { x with plainSems := sput (fun _ => (0 : BitVec 16)) x.plainSems m (BitVec.ofNat 16 v) }

/-- Counts of a making that did not take place (R311). -/
def Ledger.unmake (n : Nat) (l : Ledger) : Ledger :=
  { l with issued := l.issued - BitVec.ofNat 64 n, inFlight := l.inFlight - BitVec.ofNat 64 n }

/-- Counts of a taking that did not take place (R311). -/
def Ledger.untake (n : Nat) (l : Ledger) : Ledger :=
  { l with completed := l.completed - BitVec.ofNat 64 n, inFlight := l.inFlight + BitVec.ofNat 64 n }

/-- Apply a function to one ledger. -/
def State.modLedger (s : State) (p code obj : Nat) (g : Ledger → Ledger) : State :=
  s.setLedger (ledgerKey p code obj) (g (s.ledger (ledgerKey p code obj)))

/-- Move an end's position by k (R310); backwards for a refused signal. -/
def State.advanceEnd (s : State) (r : SemRef) (k : BitVec 32) : State :=
  match r with
  | .filled n => match s.stream n with
    | some x => s.setStream n (some { x with prodPos := x.prodPos + k })
    | none => s
  | .freed n => match s.stream n with
    | some x => s.setStream n (some { x with consPos := x.consPos + k })
    | none => s
  | .plain _ _ => s

/-- Ledger 0x3 of a signal: FILLED writes items, FREED retires them (R53). -/
def State.countItems (s : State) (p : Nat) (r : SemRef) (k : Nat) (undo : Bool) : State :=
  match r with
  | .filled n => s.modLedger p 3 n (if undo then Ledger.unmake k else Ledger.make k)
  | .freed n => s.modLedger p 3 n (if undo then Ledger.untake k else Ledger.take k)
  | .plain _ _ => s

/-- The producer's claimed items fall by what it signals (R303). -/
def State.unclaim (s : State) (r : SemRef) (k : Nat) : State :=
  match r with
  | .filled n => match s.stream n with
    | some x => s.setStream n (some { x with claimed := x.claimed - k })
    | none => s
  | _ => s

/-- A credit taken is an item that the producer holds claimed (R303). -/
def State.claimItems (s : State) (r : SemRef) (k : Nat) : State :=
  match r with
  | .freed n => match s.stream n with
    | some x => s.setStream n (some { x with claimed := x.claimed + k })
    | none => s
  | _ => s

/-- A signal leaves its sequencer (R310, R313): it counts as issued and in flight on the hyphae, it moves the
signalling end's position, and it travels to its semaphore. -/
def State.sendSignal (s : State) (p f : Nat) (q : SeqSel) (job : Nat) (target : SemRef) (count : Nat) : State :=
  let s := (((s.ledMake p (semLedger target) (semObject target) count).countItems p target count false).advanceEnd target
    (BitVec.ofNat 32 count)).unclaim target count
  let h := s.hyphae
  { s with hyphae := { h with
    signals := h.signals ++ [{ id := h.nextSignal, frond := f, seq := q, jobId := job, target := target, count := count
                               partition := p, epoch := (s.part p).epoch }]
    nextSignal := h.nextSignal + 1 } }

/-- A packet of an old epoch is dropped at a hyphal unit and counted (R533); the tick edge posts the tick's count. -/
def State.dropStale (s : State) (p : Nat) : State :=
  (s.count32 clsPart p 0x1174 1).modPart p fun x => { x with staleTick := x.staleTick + 1 }

/-- A signal that would pass its semaphore's limit is refused: it counts as never issued, and the partition stops
(R311, R315). -/
def State.refuseSignal (s : State) (g : Signal) : State :=
  let s := ((s.modLedger g.partition (semLedger g.target) (semObject g.target) (Ledger.unmake g.count)).countItems
    g.partition g.target g.count true).advanceEnd g.target (-(BitVec.ofNat 32 g.count))
  s.raiseStop g.partition
    { Report.of cOverflow 3 (semObject g.target) clsFrond g.frond with desc := ((s.frond g.frond).job g.jobId).map (·.addr) } false

/-- The partition that a semaphore's holder is serving (R27): a stream's, or the owner of a plain semaphore's frond. -/
def State.semPartition (s : State) : SemRef → Option Nat
  | .filled n => (s.stream n).map (·.partition)
  | .freed n => (s.stream n).map (·.partition)
  | .plain f _ => s.ownerOf f

/-- A signal that its semaphore's unit does not accept leaves the hyphae and takes no effect (R27). -/
def State.loseSignal (s : State) (g : Signal) : State :=
  let lose := fun (l : Ledger) => { l with inFlight := l.inFlight - BitVec.ofNat 64 g.count }
  let s := s.modLedger g.partition (semLedger g.target) (semObject g.target) lose
  match g.target with
  | .filled n => s.modLedger g.partition 3 n lose
  | _ => s

/-- The frond that holds a semaphore (R308, R315). -/
def State.semFrond (s : State) : SemRef → Nat
  | .filled n => ((s.stream n).map (·.consumerFrond)).getD 0
  | .freed n => ((s.stream n).map (·.producerFrond)).getD 0
  | .plain f _ => f

/-- A signal reaches its semaphore (R311, R315, R533), which accepts it from its own partition only (R27). What one frond
sends to another arrives in the order it was sent (R299), so a signal with an earlier one of its sender still on the way to the
same frond does not arrive yet. -/
def State.applySignal (s : State) (n : Nat) : State :=
  match s.hyphae.signals.find? fun g => g.id == n with
  | none => s
  | some g =>
    if s.hyphae.signals.any fun e => decide (e.id < n) && e.frond == g.frond && s.semFrond e.target == s.semFrond g.target then s
    else
      let s := { s with hyphae := { s.hyphae with signals := s.hyphae.signals.filter fun e => e.id != n } }
      if g.epoch != (s.part g.partition).epoch then s.dropStale g.partition
      else if s.semPartition g.target != some g.partition then s.loseSignal g
      else match s.semaphore g.target with
        | none => s.loseSignal g
        | some (v, limit) =>
          if limit < v + g.count then s.refuseSignal g
          else (s.setSemaphore g.target (v + g.count)).endJob g.frond g.jobId

/-- The semaphore that a SEM_WAIT or SEM_SIGNAL names. -/
def semTarget (target stream frond sem : Nat) : SemRef :=
  if target = 0 then .filled stream else if target = 1 then .freed stream else .plain frond sem

/-- Take a count from a semaphore, when it holds that much (R316). -/
def State.takeSem (s : State) (p : Nat) (r : SemRef) (k : Nat) : Option State :=
  match s.semaphore r with
  | some (v, _) => if k ≤ v then some (((s.setSemaphore r (v - k)).claimItems r k).ledTake p (semLedger r) (semObject r) k) else none
  | none => none

/-- A sequencer that has issued a descriptor and now waits for it is still in its frame (R381). -/
def State.waitIssued (s : State) (f : Nat) (q : SeqSel) (w : Wait) : State :=
  s.modFrond f fun x => x.setSq q { x.sq q with wait := some w, ended := false }

/-- The wait of an issued descriptor ends. -/
def State.waitEnds (s : State) (f : Nat) (q : SeqSel) (frameEnd : Bool) : State :=
  s.modFrond f fun x => x.setSq q { x.sq q with wait := none, ended := (x.sq q).ended || frameEnd }

/-- SEM_WAIT (R316): it takes its count at once, or its sequencer waits. -/
def runSemWait (i : Issue) (b : SemWaitBody) : Run := fun p _ _ s =>
  let r := semTarget b.target i.streamId i.frond b.plainSem
  match s.takeSem p r b.count with
  | some s => (s, none)
  | none => (s.waitIssued i.frond i.seq (.sem r b.count ((s.frond i.frond).sq i.seq).ended i.addr), none)

/-- The signals that reach their semaphores in the cycle of a row are applied before its wait (R312). -/
def State.arrive (s : State) (ns : List Nat) : State := ns.foldl State.applySignal s

def execSemWait (i : Issue) (b : SemWaitBody) (s : State) : Out :=
  issueRow (s.arrive i.arriving) i (isSemWait b) b.wf noWait (runSemWait i b)

/-- A waiting SEM_WAIT completes: its semaphore holds the count, which it takes in the same cycle (R316). -/
def State.semWaitDone (s : State) (f : Nat) (q : SeqSel) (cycles : Nat) : State :=
  match s.workOf f, ((s.frond f).sq q).wait with
  | some p, some (.sem r k fe _) => match s.takeSem p r k with
    | some s => (s.waitEnds f q fe).count32 clsFrond f 0x1188 cycles
    | none => s
  | _, _ => s

def execSemWaitComplete (f : Nat) (q : SeqSel) (w : WaitEnd) (s : State) : Out :=
  onUnit (decide (f < 128)) ((s.arrive w.arriving).semWaitDone f q w.cycles)

/-- Whether a signal may leave (R313): every earlier incomplete descriptor of its sequencer, or every one that names
its stream, has completed. -/
def Frond.mayLeave (x : Frond) (q : SeqSel) (h : HeldSignal) : Bool :=
  !(x.openJobs q).any fun j => decide (j.id < h.jobId) && (h.holdAll || j.streamId == h.streamId)

/-- SEM_SIGNAL (R313, R314): it leaves at once when nothing holds it and its queue is empty, otherwise it waits in the
signal queue; it completes when it takes effect at its semaphore. -/
def runSemSignal (i : Issue) (b : SemSignalBody) : Run := fun p _ id s =>
  let h : HeldSignal :=
    { jobId := id, target := semTarget b.target i.streamId b.destFrond b.plainSem, count := b.count
      streamId := i.streamId, holdAll := b.holdAll || b.target == 2 }
  let x := s.frond i.frond
  if (x.sq i.seq).sigq.isEmpty && x.mayLeave i.seq h then
    (s.sendSignal p i.frond i.seq id h.target h.count, some .signal)
  else
    (s.modFrond i.frond fun x => x.setSq i.seq { x.sq i.seq with sigq := (x.sq i.seq).sigq ++ [h] }, some .signal)

def execSemSignal (i : Issue) (b : SemSignalBody) (s : State) : Out :=
  issueRow s i (isSemSignal b) b.wf (fun _ s => if 8 ≤ ((s.frond i.frond).sq i.seq).sigq.length then some .engine else none)
    (runSemSignal i b)

/-- The oldest signal of a queue leaves, when it may (R314). -/
def State.signalLeave (s : State) (f : Nat) (q : SeqSel) : State :=
  let x := s.frond f
  match s.workOf f, (x.sq q).sigq with
  | some p, h :: r =>
    if x.mayLeave q h then
      (s.setFrond f (x.setSq q { x.sq q with sigq := r })).sendSignal p f q h.jobId h.target h.count
    else s
  | _, _ => s

def execSignalQueueLeave (f : Nat) (q : SeqSel) (s : State) : Out := onUnit (decide (f < 128)) (s.signalLeave f q)

def execSemaphoreSignalApply (n : Nat) (s : State) : Out := .next (s.applySignal n)

/-! ### Tickets -/

/-- The bank group whose atomic unit serves a record, by the record's first byte. -/
def State.recordGroup (s : State) (p a : Nat) : Nat := (storeOf ((s.resolve (some p) a).getD 0)).2

/-- Read bytes of a ticket record at its atomic unit; an unreadable unit raises UNCORRECTABLE there. -/
def State.recordRead (s : State) (p a n : Nat) : State × Option Nat :=
  match s.firstBad p false (rangeFrom a n) with
  | some x => (s.raiseStop p (Report.of cOverflow 1 (x % 2 ^ 48) clsBank (s.recordGroup p a)) false, none)
  | none =>
    let r := s.readPhys (some p) ((rangeFrom a n).map fun x => (s.reach p false x).getD 0)
    match r.bad with
    | some b => (r.state.raiseStop p (Report.of cUncorrectable 0 (uncDetail (b.1 * 64) b.2) clsBank (s.recordGroup p a)) false, none)
    | none => (r.state, some (leNat r.bytes))

/-- Write bytes of a ticket record at its atomic unit; a byte that may not be written raises BUFFER_OVERFLOW there (R28, R52). -/
def State.recordWrite (s : State) (p a n v : Nat) : State :=
  match s.firstBad p true (rangeFrom a n) with
  | some x => s.raiseStop p (Report.of cOverflow 1 (x % 2 ^ 48) clsBank (s.recordGroup p a)) false
  | none => (s.writePhys (some p) ((cellsAt a (leBytes n v)).filterMap fun c => (s.reach p true c.1).map fun y => (y, c.2))).state

/-- A claim at the atomic unit (R324): the recorded ticket of a repeated request, the next ticket, or exhausted. -/
def State.claimTicket (s : State) (c : Claim) : State :=
  let p := c.partition
  let reply := fun (s : State) (t : Option Nat) =>
    { s with hyphae := { s.hyphae with replies := s.hyphae.replies ++
      [{ frond := c.frond, requestId := c.requestId, ticket := t, partition := p, epoch := c.epoch }] } }
  let s := s.count64 clsBank (s.recordGroup p c.addr) 0x1138 1
  match s.recordRead p (c.addr + 64 + 8 * c.frond) 8 with
  | (s, none) => s
  | (s, some e) =>
    if e % 2 ^ 32 = c.requestId then reply s (some (e / 2 ^ 32))
    else match s.recordRead p c.addr 8 with
      | (s, none) => s
      | (s, some h) =>
        let next := h % 2 ^ 32
        if next < h / 2 ^ 32 then
          reply (((s.recordWrite p (c.addr + 64 + 8 * c.frond) 8 (c.requestId + next * 2 ^ 32)).recordWrite p c.addr 4
            (next + 1)).ledMake p 4 c.stream 1) (some next)
        else reply s none

/-- The oldest claim of a frond reaches its atomic unit; one of an old epoch is dropped (R533). -/
def State.claimArrives (s : State) (f : Nat) : State :=
  match s.hyphae.claims.find? fun c => c.frond == f with
  | none => s
  | some c =>
    let s := { s with hyphae := { s.hyphae with claims := dropFirst (fun c => c.frond == f) s.hyphae.claims } }
    if c.epoch != (s.part c.partition).epoch then s.dropStale c.partition else s.claimTicket c

/-- TICKET (R327): the fetch sequencer begins the loop with a claim. -/
def runTicket (i : Issue) (b : TicketBody) : Run := fun p _ id s =>
  ((s.modFrond i.frond fun x =>
      { x with loop := some { jobId := id, counterAddr := b.counterAddr, stream := i.streamId, bodyCount := b.bodyCount
                              current := none, issued := 0, outstanding := none } }).sendClaim i.frond p, some .ticket)

def execTicket (i : Issue) (b : TicketBody) (s : State) : Out :=
  issueRow s i (isTicket b) (b.wf && i.seq == .fetch) noWait (runTicket i b)

/-- Whether the n descriptors that follow a TICKET, its loop body, end the frame of the fetch and of the execute
sequencer, as the program holds them. -/
def State.bodyEnds (s : State) (p addr n : Nat) : Bool × Bool :=
  match (s.part p).plan with
  | none => (false, false)
  | some pl =>
    let ds := (List.range n).map fun k =>
      let a := addr + 64 * (k + 1)
      (dscEnd (s.peekNat (some p) a 8), tagRoute (s.tagAt p pl a))
    (ds.any fun d => d.1 && d.2 == 0, ds.any fun d => d.1 && d.2 == 1)

/-- The program buffer goes to the descriptor k places after the TICKET of loop l (R327). -/
def State.seekLoop (s : State) (f p : Nat) (l : TicketLoop) (k : Nat) : State :=
  match (s.frond f).job l.jobId with
  | some j => (s.modFrond f fun x => x.programFrom (j.addr + 64 * k)).refill p f
  | none => s

/-- The loop is left (R327): fetch continues after the body, whose frame_end takes effect now, and the TICKET completes
once no completion of its passes is outstanding. -/
def State.leaveLoop (s : State) (f p : Nat) (l : TicketLoop) : State :=
  let x := s.frond f
  let ends := match x.job l.jobId with
    | some j => s.bodyEnds p j.addr l.bodyCount
    | none => (false, false)
  let s := (s.seekLoop f p l (l.bodyCount + 1)).modFrond f fun x =>
    { x with loop := none
             fetch := { x.fetch with wait := none, ended := x.fetch.ended || ends.1 }
             execute := { x.execute with ended := x.execute.ended || (ends.2 && x.queue.isEmpty) } }
  if x.passes.any fun a => a.jobId == l.jobId then s else s.endJob f l.jobId

/-- A reply reaches the fetch sequencer: the first of its claim is taken and a later one discarded (R324, R327). One of an
old epoch is dropped and counted for its own partition (R60, R533); a frond accepts one of its own partition only (R27). -/
def State.replyArrives (s : State) (f : Nat) : State :=
  match s.hyphae.replies.find? fun r => r.frond == f with
  | none => s
  | some r =>
    let s := { s with hyphae := { s.hyphae with replies := dropFirst (fun r => r.frond == f) s.hyphae.replies } }
    let p := r.partition
    if r.epoch != (s.part p).epoch then s.dropStale p
    else if s.workOf f != some p then s
    else match (s.frond f).loop with
      | some l =>
        if l.outstanding = some r.requestId then
          match r.ticket with
          | some t => (s.seekLoop f p l 1).modFrond f fun x =>
              { x with loop := some { l with current := some t, issued := 0, outstanding := none }
                       arrayPos := x.arrayPos.filter (fun e => e.1 != l.stream) ++ [(l.stream, t)]
                       fetch := { x.fetch with wait := none } }
          | none => s.leaveLoop f p l
        else s
      | none => s

def execTicketReply (f : Nat) (s : State) : Out := onUnit (decide (f < 128)) (s.replyArrives f)

/-- A claim with no reply for 4,096 cycles is sent again with its request ID; TKT_CLAIMS does not count it (R324). -/
def State.retryClaim (s : State) (f : Nat) : State :=
  match s.workOf f, (s.frond f).loop with
  | some p, some l => match l.outstanding with
    | some r => { s with hyphae := { s.hyphae with claims := s.hyphae.claims ++
        [{ frond := f, requestId := r, addr := l.counterAddr, stream := l.stream, partition := p, epoch := (s.part p).epoch }] } }
    | none => s
  | _, _ => s

def execTicketClaimRetry (f : Nat) (s : State) : Out := onUnit (decide (f < 128)) (s.retryClaim f)

/-- Whether every descriptor of a pass has completed: none waits in the queue, is held by an engine or stands issued. -/
def Frond.passDone (x : Frond) (a : Pass) : Bool :=
  !x.jobs.any (fun j => j.pass == some (a.jobId, a.ticket)) && !x.queue.any (fun q => q.pass == some (a.jobId, a.ticket))

/-- What a completion does at its atomic unit (R325, R59): it sets the log bit, is discarded as a duplicate, or names a
ticket never handed out. -/
def State.logCompletion (s : State) (p f : Nat) (a : Pass) : State :=
  let g := s.recordGroup p a.counterAddr
  let s := s.count64 clsBank g 0x1138 1
  match s.recordRead p a.counterAddr 4 with
  | (s, none) => s
  | (s, some next) =>
    if next ≤ a.ticket then
      s.raiseStop p (Report.of cImbalance 4 (2 * 2 ^ 60 + a.stream % 2 ^ 12 * 2 ^ 48 + 2 ^ 47 + f * 2 ^ 32 + (2 ^ 32 - 1)) clsBank g) false
    else match s.recordRead p (a.counterAddr + 1088 + a.ticket / 8) 1 with
      | (s, none) => s
      | (s, some b) =>
        if bitAt b (a.ticket % 8) then
          (s.count32 clsBank g 0x1144 1).postRecord
            { Report.of cDupTicket 0 (a.stream % 2 ^ 12 * 2 ^ 48 + a.ticket % 2 ^ 32) clsBank g with partition := some p } false
        else
          (s.recordWrite p (a.counterAddr + 1088 + a.ticket / 8) 1 (b + 2 ^ (a.ticket % 8))).ledTake p 4 a.stream 1

/-- The completion of the oldest finished pass reaches the atomic unit; the last one of a left loop completes its
TICKET (R327). -/
def State.passCompletes (s : State) (f : Nat) : State :=
  match s.workOf f, (s.frond f).passes.find? (s.frond f).passDone with
  | some p, some a =>
    let s := (s.logCompletion p f a).modFrond f fun x => { x with passes := dropFirst (· == a) x.passes }
    let x := s.frond f
    if x.passes.any (fun b => b.jobId == a.jobId) || (x.loop.map (·.jobId)) == some a.jobId then s else s.endJob f a.jobId
  | _, _ => s

/-- The bank group whose atomic unit a frond's next claim or completion reaches. -/
def State.atomicGroup (s : State) (a : AtomicReq) : Option Nat :=
  if a.completion then
    match s.workOf a.frond, (s.frond a.frond).passes.find? (s.frond a.frond).passDone with
    | some p, some x => some (s.recordGroup p x.counterAddr)
    | _, _ => none
  else (s.hyphae.claims.find? fun c => c.frond == a.frond).map fun c => s.recordGroup c.partition c.addr

/-- Serve one request at its atomic unit. -/
def State.serveAtomic (s : State) (a : AtomicReq) : State := if a.completion then s.passCompletes a.frond else s.claimArrives a.frond

/-- The order of requests that reach one atomic unit in one cycle (R323): completions first, then the lower frond. -/
def AtomicReq.before (a b : AtomicReq) : Bool :=
  (a.completion && !b.completion) || (a.completion == b.completion && decide (a.frond < b.frond))

/-- A request arrives at its atomic unit, with those that reach the unit in the same cycle: the unit serves them one a cycle,
in the order of R323, and before any that arrives later. -/
def State.atomicArrives (s : State) (a : AtomicReq) (same : List AtomicReq) : State :=
  (sortBy AtomicReq.before (a :: (same.filter fun b => b != a && s.atomicGroup b == s.atomicGroup a).eraseDups)).foldl
    State.serveAtomic s

def execTicketClaim (a : AtomicRow) (s : State) : Out :=
  onUnit (decide (a.frond < 128)) (s.atomicArrives ⟨false, a.frond⟩ a.same)

def execTicketCompletion (a : AtomicRow) (s : State) : Out :=
  onUnit (decide (a.frond < 128)) (s.atomicArrives ⟨true, a.frond⟩ a.same)

/-! ### TICK_WAIT -/

/-- TICK_WAIT (R382): late, it completes at once and is counted; otherwise its sequencer waits for the tick. -/
def runTickWait (i : Issue) (tick : Nat) : Run := fun p _ _ s =>
  if tick ≤ (s.part p).frameTick then ((s.count32 clsPart p 0x1138 1).traceEvent p 3, none)
  else (s.waitIssued i.frond i.seq (.tick tick ((s.frond i.frond).sq i.seq).ended i.addr), none)

def execTickWait (i : Issue) (tick : Nat) (s : State) : Out := issueRow s i (isTickWait tick) (within 1 255 tick) noWait (runTickWait i tick)

/-- A TICK_WAIT completes at the edge that begins its tick (R382). -/
def State.tickWaitDone (s : State) (f : Nat) (q : SeqSel) : State :=
  match s.workOf f, ((s.frond f).sq q).wait with
  | some p, some (.tick n fe _) => if n ≤ (s.part p).frameTick then s.waitEnds f q fe else s
  | _, _ => s

def execTickWaitComplete (f : Nat) (q : SeqSel) (s : State) : Out := onUnit (decide (f < 128)) (s.tickWaitDone f q)

end Sys2Proof.Machine
end

