-- ==== Sys2Proof/Machine/Tile.lean ====
section
/-! DEFINITION. Sparse tiles (R173 to R183): the header, the sections, the loader's checks with the failure that is
reported (R219, R220, R646), and the layout a tile is written in. A tile is read through a function from the offset
after its header's first byte to the byte there. -/

namespace Sys2Proof.Machine

/-- Bytes of a tile as its reader sees them. -/
abbrev TileBytes := Nat → Byte

/-- A little-endian number of n bytes at an offset. -/
def tbNat (g : TileBytes) (o n : Nat) : Nat := leNat ((rangeFrom o n).map g)

/-- The 512-bit header (tile-header field map, R179). -/
def tileHeader (g : TileBytes) : Nat := tbNat g 0 64

def thTag (h : Nat) : Nat := bitsOf h 0 16
def thFmt (h : Nat) : Nat := bitsOf h 16 4
def thDense (h : Nat) : Bool := bitAt h 20
def thPermuted (h : Nat) : Bool := bitAt h 21
def thGroup (h : Nat) : Nat := bitsOf h 22 2
def thSlots (h : Nat) : Nat := bitsOf h 24 1
def thGen (h : Nat) : Nat := bitsOf h 32 32
def thNnz (h : Nat) : Nat := bitsOf h 64 17
def thRows (h : Nat) : Nat := bitsOf h 96 8
def thCols (h : Nat) : Nat := bitsOf h 104 10
def thTileRow (h : Nat) : Nat := bitsOf h 128 16
def thTileCol (h : Nat) : Nat := bitsOf h 144 16
def thTensor (h : Nat) : Nat := bitsOf h 160 16
def thRowOff (h : Nat) : Nat := bitsOf h 176 16 * 64
def thColIdx (h : Nat) : Nat := bitsOf h 192 16 * 64
def thColOff (h : Nat) : Nat := bitsOf h 208 16 * 64
def thColEnt (h : Nat) : Nat := bitsOf h 224 16 * 64
def thVal (h : Nat) : Nat := bitsOf h 240 16 * 64
def thScale (h : Nat) : Nat := bitsOf h 256 16 * 64
def thPerm (h : Nat) : Nat := bitsOf h 272 16 * 64
/-- Swizzle codes of column groups (32) or row-order groups (8). -/
def thSwz (h : Nat) (row : Bool) : List Nat :=
  if row then (List.range 8).map fun g => bitsOf h (416 + 4 * g) 4 else (List.range 32).map fun g => bitsOf h (288 + 4 * g) 4

/-- Bit planes of a value format stored in planes (R75), and bytes of the others. -/
def planesOf (fmt : Nat) : Nat := if fmt ≤ 1 then 4 else if fmt = 2 then 6 else 0
def byteWidth (fmt : Nat) : Nat := if fmt = 6 ∨ fmt = 7 then 2 else 1

/-- V(n) (R183). -/
def valueBytes (fmt n : Nat) : Nat :=
  if planesOf fmt ≠ 0 then 32 * planesOf fmt * cdiv n 256 else p64 (byteWidth fmt * n)

/-- σ and D (R183). -/
def sigma (fmt : Nat) : Nat := if isShort fmt then 64 else 0
def compressedSize (fmt n : Nat) : Nat := 1600 + sigma fmt + p64 (2 * n) + p64 (4 * n) + valueBytes fmt n
def denseSize (fmt : Nat) : Nat := 64 + 8192 + sigma fmt + valueBytes fmt 65536

/-- The integer comparison of R183. -/
def escapes (fmt n : Nat) : Bool := decide (denseSize fmt ≤ compressedSize fmt n)

/-- Value code p of a section at byte offset o (R180, R75, R76). -/
def codeAt (g : TileBytes) (fmt o p : Nat) : Nat :=
  if planesOf fmt ≠ 0 then
    let base := o + p / 256 * (32 * planesOf fmt)
    (List.range (planesOf fmt)).foldl (fun a k =>
      if (g (base + 32 * k + p % 256 / 8)).getLsbD (p % 8) then a + 2 ^ k else a) 0
  else tbNat g (o + byteWidth fmt * p) (byteWidth fmt)

/-- Whether (r, k) is a mask position of a dense-escaped tile (R182). -/
def maskBit (g : TileBytes) (o r k : Nat) : Bool := (g (o + 64 * r + k / 8)).getLsbD (k % 8)

/-- perm (R178). -/
def permAt (g : TileBytes) (h j : Nat) : Nat := if thDense h then j else (g (thPerm h + j)).toNat

def rowOffAt (g : TileBytes) (h r : Nat) : Nat := tbNat g (thRowOff h + 2 * r) 2
def colOffAt (g : TileBytes) (h k : Nat) : Nat := tbNat g (thColOff h + 2 * k) 2
def colEntAt (g : TileBytes) (h q : Nat) : Nat := tbNat g (thColEnt h + 4 * q) 4

/-- Mask positions of a dense-escaped tile before (r, k) in row-major order: the value position the compressed form of
the same mask gives (r, k) (R184). -/
def maskRank (g : TileBytes) (o r k : Nat) : Nat :=
  ((List.range r).map fun i => ((List.range 512).filter fun j => maskBit g o i j).length).sum
    + ((List.range k).filter fun j => maskBit g o r j).length

/-- The entries of tile row r, ascending: (column, value position) (R176, R184). -/
def rowEntries (g : TileBytes) (h r : Nat) : List (Nat × Nat) :=
  if thDense h then
    ((List.range 512).filter fun k => maskBit g (thRowOff h) r k).map fun k => (k, maskRank g (thRowOff h) r k)
  else
    (rangeFrom (rowOffAt g h r) (rowOffAt g h (r + 1) - rowOffAt g h r)).map fun p => (tbNat g (thColIdx h + 2 * p) 2 % 512, p)

/-- The entries of tile column k, ascending: (row-order position, value position) (R177, R184). -/
def colEntries (g : TileBytes) (h k : Nat) : List (Nat × Nat) :=
  if thDense h then
    ((List.range 128).filter fun r => maskBit g (thRowOff h) r k).map fun r => (r, maskRank g (thRowOff h) r k)
  else
    (rangeFrom (colOffAt g h k) (colOffAt g h (k + 1) - colOffAt g h k)).map fun q =>
      (colEntAt g h q % 128, colEntAt g h q / 2 ^ 16)

/-- Position in the column-major section of column k's first entry; of a dense-escaped tile that of the compressed form of the
same mask (R177, R184). -/
def colBase (g : TileBytes) (h k : Nat) : Nat :=
  if thDense h then ((List.range k).map fun j => (colEntries g h j).length).sum else colOffAt g h k

/-- Which value of the value section position (r, k) with value position p has (R180). -/
def valueIndex (h p r k : Nat) : Nat := if thDense h then 512 * r + k else p

/-- Value p with its square's block scale for position (r, k) (R180, R181). -/
def tileValue (g : TileBytes) (h p r k : Nat) : Val :=
  let v := decodeElem (thFmt h) (codeAt g (thFmt h) (thVal h) (valueIndex h p r k))
  if isShort (thFmt h) then applyScale (g (thScale h + 16 * (r / 32) + k / 32)).toNat v else v

/-- Every mask position, row-major: (row, column, value position). -/
def tilePositions (g : TileBytes) (h : Nat) : List (Nat × Nat × Nat) :=
  (List.range 128).flatMap fun r => (rowEntries g h r).map fun e => (r, e.1, e.2)

/-! ### Checks -/

/-- A failure of the check table with the fields of R220. -/
structure TileFail where
  code : Nat
  lane : Nat
  entry : Nat
  value : Nat
  deriving DecidableEq, Repr

/-- The detail of an INDEX_RANGE record (R220). -/
def TileFail.detail (t : TileFail) : Nat :=
  t.code % 16 * 2 ^ 60 + t.lane % 256 * 2 ^ 52 + t.entry % 2 ^ 16 * 2 ^ 36 + t.value % 2 ^ 16 * 2 ^ 20

/-- Whether a failure comes before another in the order of R646. -/
def TileFail.before (a b : TileFail) : Bool :=
  decide (a.code < b.code ∨ (a.code = b.code ∧ (a.lane < b.lane ∨ (a.lane = b.lane ∧ a.entry < b.entry))))

/-- The failure that is reported (R646). -/
def firstFail : List TileFail → Option TileFail
  | [] => none
  | t :: ts => match firstFail ts with
    | none => some t
    | some u => if u.before t then some u else some t

/-- The sections of a tile, in the section table's order: offset and size (R174, R175). The dense-escaped form has the first
five at offset zero and of no size. -/
def tileSections (h : Nat) : List (Nat × Nat) :=
  let f := thFmt h
  let n := thNnz h
  let sc := if isShort f then [(thScale h, 64)] else []
  if thDense h then
    [(thPerm h, 0), (thColOff h, 0), (thColIdx h, 0), (thColEnt h, 0), (thVal h, valueBytes f 65536)] ++ sc ++ [(thRowOff h, 8192)]
  else [(thRowOff h, 320), (thPerm h, 128), (thColOff h, 1088), (thColIdx h, p64 (2 * n)), (thColEnt h, p64 (4 * n)),
        (thVal h, valueBytes f n)] ++ sc

/-- Whether two sections meet. -/
def meets (a b : Nat × Nat) : Bool := decide (a.2 ≠ 0 ∧ b.2 ≠ 0 ∧ a.1 < b.1 + b.2 ∧ b.1 < a.1 + a.2)

/-- The header fields that fail, in descending bit order, with their values (code 0x1, R646): the reserved header codes, val_fmt
and the tag. `fmtOk` judges val_fmt. -/
def headerFails (h : Nat) (fmtOk : Nat → Bool) : List Nat :=
  (if thGroup h = 3 then [3] else [])
    ++ (if 8 ≤ thFmt h ∨ !fmtOk (thFmt h) then [thFmt h] else [])
    ++ (if thTag h ≠ 0x5C7E then [thTag h] else [])

/-- Code 0x1: the header fields, then the sections (R175). -/
def checkHeader (h : Nat) (fmtOk : Nat → Bool) : Option TileFail :=
  match headerFails h fmtOk with
  | v :: _ => some ⟨1, 0, 0, v⟩
  | [] =>
    let ss := tileSections h
    let bad := ss.zipIdx.find? fun s => decide (139328 < s.1.1 + s.1.2) || meets s.1 (0, 64) || (s.1.2 == 0 && thDense h && s.1.1 != 0)
      || ss.zipIdx.any fun t => t.2 != s.2 && meets s.1 t.1
    bad.map fun s => ⟨1, 0, 0, s.1.1 / 64⟩

/-- Codes 0x2 to 0x4 of a dense-escaped tile's bitmap (R182). -/
def checkBitmap (g : TileBytes) (h : Nat) : List TileFail :=
  let ps := tilePositions g h
  (if ps.length = thNnz h then [] else [⟨2, 0, 0, ps.length⟩])
    ++ (ps.filter fun p => decide (thCols h ≤ p.2.1)).map (fun p => ⟨3, p.1, 512 * p.1 + p.2.1, p.2.1⟩)
    ++ (ps.filter fun p => decide (thRows h ≤ p.1)).map (fun p => ⟨4, p.1, 512 * p.1 + p.2.1, p.1⟩)

/-- Entries whose index does not ascend strictly, with the index before. -/
def notAscending : List (Nat × Nat) → List (Nat × Nat)
  | a :: b :: r => if a.1 < b.1 then notAscending (b :: r) else b :: notAscending (b :: r)
  | _ => []

/-- Codes 0x2 to 0x4 of the row-major section (R176). -/
def checkRows (g : TileBytes) (h : Nat) : List TileFail :=
  let bad := (List.range 128).find? fun r =>
    (r == 0 && rowOffAt g h 0 != 0) || decide (rowOffAt g h (r + 1) < rowOffAt g h r)
      || (r == 127 && rowOffAt g h 128 != thNnz h)
  match bad with
  | some r => [⟨2, r, rowOffAt g h r, rowOffAt g h (r + 1)⟩]
  | none =>
    (List.range 128).flatMap fun r =>
      let es := rowEntries g h r
      (es.filter fun e => decide (thCols h ≤ e.1)).map (fun e => ⟨3, r, e.2, e.1⟩)
        ++ (notAscending es).map (fun e => ⟨3, r, e.2, e.1⟩)
        ++ (if thRows h ≤ r ∧ es ≠ [] then [⟨4, r, rowOffAt g h r, r⟩] else [])

/-- Code 0x6 for the row order (R178): the positions that hold no tile row or one held before, or that break the block rule, each
with its perm; the position is lane and entry alike, which R646 does not fix (DESIGN CHOICE, log entry 127). -/
def checkOrder (g : TileBytes) (h : Nat) : List TileFail :=
  let perm := (List.range 128).map fun j => permAt g h j
  (List.range 128).filterMap fun j =>
    let v := perm.getD j 0
    let broken := decide (128 ≤ v) || (perm.take j).contains v
      || (if thPermuted h then v / 32 != perm.getD (j / 32 * 32) 0 / 32 else v != j)
    if broken then some ⟨6, j, j, v⟩ else none

/-- Codes 0x5 and 0x6 of the column-major section, the row order apart (R177). -/
def checkCols (g : TileBytes) (h : Nat) : List TileFail :=
  let bad := (List.range 512).filter fun k =>
    (k == 0 && colOffAt g h 0 != 0) || decide (colOffAt g h (k + 1) < colOffAt g h k)
      || (k == 511 && colOffAt g h 512 != thNnz h)
  match bad with
  | _ :: _ => bad.map fun k => ⟨5, k % 128, colOffAt g h k, colOffAt g h (k + 1)⟩
  | [] =>
    (List.range 512).flatMap fun k =>
      let es := colEntries g h k
      (es.zipIdx.filterMap fun e =>
          let q := colOffAt g h k + e.2
          if thNnz h ≤ e.1.2 then some ⟨6, k % 128, q, e.1.2⟩
          else if thRows h ≤ permAt g h e.1.1 then some ⟨6, k % 128, q, permAt g h e.1.1⟩
          else if e.2 ≠ 0 ∧ e.1.1 ≤ (es.getD (e.2 - 1) (0, 0)).1 then some ⟨6, k % 128, q, e.1.1⟩
          else none)

/-- The checks of R219 that concern the tile itself, codes 0x1 to 0x6: with the row-major section, the row order, the
column-major section, or several. -/
def checkTile (g : TileBytes) (rows order cols : Bool) (fmtOk : Nat → Bool) : Option TileFail :=
  let h := tileHeader g
  match checkHeader h fmtOk with
  | some t => some t
  | none =>
    if thDense h then firstFail (checkBitmap g h)
    else firstFail ((if rows then checkRows g h else []) ++ (if order then checkOrder g h else [])
      ++ (if cols then checkCols g h else []))

/-- End of the tile's last section. -/
def tileExtent (h : Nat) : Nat := (tileSections h).foldl (fun m s => max m (s.1 + s.2)) 64

/-- Non-zeros of the group of `size` columns that begins at column c, in row entries. -/
def groupCount (es : List (Nat × Nat)) (c size : Nat) : Nat := (es.filter fun e => decide (c ≤ e.1 ∧ e.1 < c + size)).length

/-- Group size and bound of a header's declaration (gb_group, gb_slots); none when not group-bounded (R213). -/
def groupBound (h : Nat) : Option (Nat × Nat) :=
  if thGroup h = 1 then some (4, thSlots h + 1) else if thGroup h = 2 then some (8, thSlots h + 1) else none

/-- The overfull group of lowest lane and then lowest group, with its count (R214, R646). -/
def overfull (g : TileBytes) (h size bound : Nat) : Option TileFail :=
  (List.range 128).findSome? fun r =>
    let es := rowEntries g h r
    (List.range (512 / size)).findSome? fun k =>
      let n := groupCount es (k * size) size
      if bound < n then some ⟨0, r, k * size, n⟩ else none

/-! ### Writing a tile -/

/-- The bytes of n bit-plane or byte-form codes (R180, R75 to R77). -/
def packCodes (fmt : Nat) (codes : List Nat) : List Byte :=
  if planesOf fmt ≠ 0 then
    (List.range (cdiv codes.length 256)).flatMap fun gp =>
      let grp := (codes.drop (256 * gp)).take 256
      (List.range (planesOf fmt)).flatMap fun pl =>
        (List.range 32).map fun by_ =>
          BitVec.ofNat 8 ((List.range 8).foldl (fun a i => if bitAt (grp.getD (8 * by_ + i) 0) pl then a + 2 ^ i else a) 0)
  else codes.flatMap fun c => leBytes (byteWidth fmt) c

/-- Pad bytes with zeros to a multiple of 64. -/
def pad64 (bs : List Byte) : List Byte := bs ++ List.replicate (p64 bs.length - bs.length) 0

/-- What a tile holds, independent of its form. Rows list (column, value code); `order` lists perm. -/
structure TileData where
  fmt : Nat
  rowsValid : Nat
  colsValid : Nat
  tensor : Nat
  tileRow : Nat
  tileCol : Nat
  gen : Nat
  group : Nat
  slots : Nat
  rows : List (List (Nat × Nat))
  scales : List Byte
  permuted : Bool
  order : List Nat
  swzCol : List Nat
  swzRow : List Nat

def TileData.nnz (t : TileData) : Nat := (t.rows.map List.length).sum

/-- A number from 4-bit codes, the first lowest. -/
def nibbles : List Nat → Nat
  | [] => 0
  | c :: cs => c % 16 + 16 * nibbles cs

/-- Row offsets of the rows: running counts from 0 (R176). -/
def offsetsOf (counts : List Nat) : List Nat := counts.foldl (fun a n => a ++ [a.getLastD 0 + n]) [0]

/-- The header of a tile. -/
def TileData.header (t : TileData) (dense : Bool) (rowoff perm coloff colidx colent val scale : Nat) : List Byte :=
  leBytes 64 (0x5C7E + t.fmt * 2 ^ 16 + (if dense then 2 ^ 20 else 0) + (if t.permuted && !dense then 2 ^ 21 else 0)
    + t.group * 2 ^ 22 + t.slots * 2 ^ 24 + t.gen * 2 ^ 32 + t.nnz * 2 ^ 64 + t.rowsValid * 2 ^ 96
    + t.colsValid * 2 ^ 104 + t.tileRow * 2 ^ 128 + t.tileCol * 2 ^ 144 + t.tensor * 2 ^ 160 + rowoff * 2 ^ 176
    + colidx * 2 ^ 192 + coloff * 2 ^ 208 + colent * 2 ^ 224 + val * 2 ^ 240 + scale * 2 ^ 256 + perm * 2 ^ 272
    + nibbles t.swzCol * 2 ^ 288 + nibbles t.swzRow * 2 ^ 416)

/-- Column-major entries of a tile: for each column, the row-order positions that hold it with their value positions. -/
def TileData.columns (t : TileData) : List (List (Nat × Nat)) :=
  let offs := offsetsOf (t.rows.map List.length)
  (List.range 512).map fun k =>
    (List.range 128).filterMap fun j =>
      let r := t.order.getD j j
      let row := t.rows.getD r []
      (findIdxOpt (fun e => e.1 == k) row).map fun i => (j, offs.getD r 0 + i)

/-- The bytes of a tile, in the form R183 chooses; sections follow one another in the section table's order
(log entry 14: the manual leaves their placement open under R175). -/
def TileData.bytes (t : TileData) : List Byte :=
  let n := t.nnz
  if escapes t.fmt n then
    let bitmap := (List.range 8192).map fun b =>
      let row := t.rows.getD (b / 64) []
      BitVec.ofNat 8 ((row.filter fun e => e.1 / 8 == b % 64).foldl (fun a e => a + 2 ^ (e.1 % 8)) 0)
    let codes := (List.range 65536).map fun p =>
      (((t.rows.getD (p / 512) []).find? fun e => e.1 == p % 512).map (·.2)).getD 0
    let so := 1 + 128
    let sc := if isShort t.fmt then 1 else 0
    t.header true 1 0 0 0 0 (so + sc) (if sc = 1 then so else 0) ++ bitmap ++ (if sc = 1 then t.scales else [])
      ++ packCodes t.fmt codes
  else
    let offs := offsetsOf (t.rows.map List.length)
    let cols := t.columns
    let coffs := offsetsOf (cols.map List.length)
    let rowoff := pad64 (offs.flatMap (leBytes 2))
    let perm := (List.range 128).map fun j => BitVec.ofNat 8 (t.order.getD j j)
    let coloff := pad64 (coffs.flatMap (leBytes 2))
    let colidx := pad64 (t.rows.flatten.flatMap fun e => leBytes 2 e.1)
    let colent := pad64 (cols.flatten.flatMap fun e => leBytes 4 (e.1 + e.2 * 2 ^ 16))
    let vals := pad64 (packCodes t.fmt (t.rows.flatten.map (·.2)))
    let oColidx := 1 + 5 + 2 + 17
    let oColent := oColidx + colidx.length / 64
    let oVal := oColent + colent.length / 64
    let oScale := oVal + vals.length / 64
    t.header false 1 6 8 oColidx oColent oVal (if isShort t.fmt then oScale else 0)
      ++ rowoff ++ perm ++ coloff ++ colidx ++ colent ++ vals ++ (if isShort t.fmt then t.scales else [])

end Sys2Proof.Machine
end

