-- ==== Sys2Proof/Machine/Rhizoid.lean ====
section
/-! DEFINITION. The Rhizoid: GATHER, SPARSE_TILE and SAMPLED_TILE in lane mode (chapter 4, R184 to R221). -/

namespace Sys2Proof.Machine

/-! ### The activation bank -/

def Frond.panel (x : Frond) (p : Nat) : Panel := if p = 0 then x.panel0 else x.panel1
def Frond.setPanel (x : Frond) (p : Nat) (v : Panel) : Frond := if p = 0 then { x with panel0 := v } else { x with panel1 := v }

/-- Sub-bank of a panel row (R193). -/
def Panel.subbank (x : Panel) (k : Nat) : Nat := (k % 16) ^^^ (x.swz.getD (k / 16) 0)

/-- Element c of panel row k, with its block scale (R194, R198; scale_kind of GATHER). -/
def Panel.value (x : Panel) (k c : Nat) : Val :=
  let v := decodeElem x.fmt (sget (fun _ => (0 : BitVec 16)) x.data (128 * k + c)).toNat
  if isShort x.fmt then
    let o := if x.scaleKind then 4 * k + c / 32 else 128 * (k / 32) + c
    applyScale (sget (fun _ => (0 : Byte)) x.scales o).toNat v
  else v

/-- Element code x of a row at a buffer address (R124). -/
def State.rowCode (s : State) (f row fmt x : Nat) : Nat :=
  if fmt ≤ 1 then
    let b := (s.bufByte f (row + x / 2)).toNat
    if x % 2 = 0 then b % 16 else b / 16
  else if fmt = 2 then (s.bufByte f (row + x)).toNat % 64
  else s.bufNat f (row + x * (codeBits fmt / 8)) (codeBits fmt / 8)

/-- Bytes of a tile in a frond's buffer. -/
def State.bufTile (s : State) (f a : Nat) : TileBytes := fun o => s.bufByte f (a + o)

/-! ### GATHER -/

/-- Panel row and source row of each row a GATHER writes (R216). -/
def State.gatherRows (s : State) (f : Nat) (b : GatherBody) : List (Nat × Nat) :=
  let list := fun i => s.bufNat f (b.listAddr + 2 * i) 2
  if b.map = 0 then (List.range b.rows).map fun k => (k, k)
  else if b.map = 1 then (List.range b.rows).map fun k => (k, list k)
  else if b.map = 2 then
    let g := s.bufTile f b.swzTileAddr
    let h := tileHeader g
    (List.range b.rows).map fun j => (j, permAt g h j)
  else (List.range b.listLen).map fun i => (list i, i)

/-- Code 0x9: a map 3 list that does not ascend, or holds an index at or beyond rows (R219). -/
def State.gatherFail (s : State) (f : Nat) (b : GatherBody) : Option TileFail :=
  if b.map ≠ 3 then none
  else
    let list := fun i => s.bufNat f (b.listAddr + 2 * i) 2
    ((List.range b.listLen).find? fun i => decide (b.rows ≤ list i) || (i != 0 && decide (list i ≤ list (i - 1)))).map
      fun i => ⟨9, 0, i, list i⟩

/-- Frond-buffer bytes a GATHER reads. -/
def State.gatherReads (s : State) (f : Nat) (b : GatherBody) : List Nat :=
  ((s.gatherRows f b).flatMap fun r => rangeFrom (b.srcAddr + r.2 * b.srcStride) (rowBytes b.fmt b.cols))
    ++ (if b.map = 1 ∨ b.map = 3 then rangeFrom b.listAddr (2 * b.listLen) else [])
    ++ (if b.map = 2 ∨ b.swzUse then rangeFrom b.swzTileAddr 64 else [])
    ++ (if isShort b.fmt then rangeFrom b.scaleAddr (if b.scaleKind then 4 * b.rows else 2048) else [])

/-- The panel a GATHER leaves (R194, R216). -/
def State.gatherPanel (s : State) (f : Nat) (b : GatherBody) (old : Panel) : Panel :=
  let rows := s.gatherRows f b
  let data := rows.foldl (fun m r =>
    sputs (fun _ => (0 : BitVec 16)) m (128 * r.1)
      ((List.range 128).map fun x =>
        if x < b.cols then BitVec.ofNat 16 (s.rowCode f (b.srcAddr + r.2 * b.srcStride) b.fmt x) else 0)) old.data
  { filled := true, fmt := b.fmt, extent := b.rows
    active := if b.map = 3 then rows.map (·.1) else List.range b.rows
    scaleKind := b.scaleKind
    scales := if isShort b.fmt then
        sputs (fun _ => (0 : Byte)) [] 0 (s.bufRead f b.scaleAddr (if b.scaleKind then 4 * b.rows else 2048)) else []
    swz := if b.swzUse then thSwz (tileHeader (s.bufTile f b.swzTileAddr)) b.swzKind else []
    map := b.map, data := data }

/-- Whether a queued descriptor is a lane-mode tile that reads panel p (kinds 0x11 and 0x12, bit 30 of the body). -/
def QEntry.readsPanel (p : Nat) (e : QEntry) : Bool :=
  let d := e.dsc.raw.toNat
  (dscKind d == 0x11 || dscKind d == 0x12) && dscBody d 30 1 == p

/-- Whether a job is a lane-mode tile. -/
def Job.lane (j : Job) : Bool := match j.body with
  | .sparse .. => true
  | .sampled .. => true
  | _ => false

/-- The panel a lane-mode tile reads. -/
def Job.lanePanel (j : Job) : Option Nat := match j.body with
  | .sparse _ p _ _ => some p
  | .sampled p _ _ => some p
  | _ => none

/-- The lane-mode tiles in flight that have not made their last serve, the oldest first, when the first `served` have (R189). -/
def Frond.unserved (x : Frond) (served : Nat) : List Job := (x.jobs.filter Job.lane).drop served

/-- R217: a GATHER waits for the last serve of the earlier lane-mode tiles that read its panel. -/
def State.gatherWait (s : State) (f panel served : Nat) : Option Wait :=
  let x := s.frond f
  if x.queue.any (QEntry.readsPanel panel) || (x.unserved served).any (fun j => j.lanePanel == some panel)
      || x.jobs.any (fun j => j.body == .gather panel) then some .engine else none

/-- Raise INDEX_RANGE with the detail of a failed check (R219, R220). -/
def State.raiseIndex (s : State) (p cls index desc : Nat) (t : TileFail) : State :=
  s.descFault p cIndexRange 0 t.detail cls index desc

def runGather (i : Issue) (b : GatherBody) : Run := fun p _ _ s =>
  let s := s.countStalls (ownBank i.frond .rhizoid) i.contests
  match s.bufFault p i.frond i.addr (s.gatherReads i.frond b) with
  | some s => (s, none)
  | none => match s.gatherFail i.frond b with
    | some t => (s.raiseIndex p clsFrond i.frond i.addr t, none)
    | none =>
      (s.modFrond i.frond fun x => x.setPanel b.panel (s.gatherPanel i.frond b (x.panel b.panel)), some (.gather b.panel))

def execGather (i : Issue) (b : GatherBody) (s : State) : Out :=
  issueRow s i (isGather b) (b.wf && i.seq == .fetch) (fun _ s => s.gatherWait i.frond b.panel i.served) (runGather i b)

/-- GATHER completes when its last row and its scales are written (R217). -/
def execGatherComplete (f id : Nat) (s : State) : Out :=
  completeRow s f id fun j s => match j.body with
    | .gather _ => some s
    | _ => none

/-! ### Serving -/

/-- A lane's entries: (index, value position), ascending by index. -/
abbrev Lane := List (Nat × Nat)

/-- A lane queue: the next 32 entries of the lane (R191). -/
def laneQueue (l : Lane) : Lane := l.take 32

/-- Rows served in one cycle from the wanted indices in ascending order, with those deferred (R196). -/
def serveRows (sub : Nat → Nat) : List Nat → List Nat → List Nat → Nat → List Nat × Nat
  | [], served, _, d => (served, d)
  | k :: ks, served, used, d =>
    if served.length = 16 then (served, d)
    else if used.contains (sub k) then serveRows sub ks served used (d + 1)
    else serveRows sub ks (served ++ [k]) (sub k :: used) d

/-- How many entries a lane fires: the longest prefix of at most e served entries of one 32-block (R196). -/
def firePrefix (served : List Nat) (e : Nat) (l : Lane) : Nat :=
  match l with
  | [] => 0
  | h :: _ => ((l.take e).takeWhile fun x => served.contains x.1 && x.1 / 32 == h.1 / 32).length

/-- Counts of a run under the serving rule: serve cycles and deferred indices. At most one serve cycle for each entry
(R202). `few` fires only the 16 lowest lanes whose heads are served (R211). -/
def serveRun (sub : Nat → Nat) (e : Nat) (few : Bool) : Nat → List Lane → Nat × Nat
  | 0, _ => (0, 0)
  | n + 1, lanes =>
    if lanes.all (·.isEmpty) then (0, 0)
    else
      let want := lanes.foldl (fun w l => ((laneQueue l).take e).foldl (fun w x => insertNat x.1 w) w) []
      let (served, d) := serveRows sub want [] [] 0
      let firing := fun (k : Nat × List Lane) (l : Lane) =>
        let m := firePrefix served e (laneQueue l)
        if few && decide (16 ≤ k.1) then (k.1, k.2 ++ [l])
        else (if m = 0 then k.1 else k.1 + 1, k.2 ++ [l.drop m])
      let lanes' := (lanes.foldl firing (0, [])).2
      let r := serveRun sub e few n lanes'
      (r.1 + 1, r.2 + d)

/-- C and the deferred count of a tile: at least one cycle (R200). -/
def serveCount (sub : Nat → Nat) (e : Nat) (few : Bool) (lanes : List Lane) : Nat × Nat :=
  let r := serveRun sub e few (lanes.map List.length).sum lanes
  (max r.1 1, r.2)

/-- e of the lane-width table. -/
def laneWidth (fmt : Nat) : Nat := if fmt ≤ 1 then 4 else if fmt ≤ 5 then 2 else 1

/-- Operand pairs of the lane-width table. -/
def lanePair (a b : Nat) : Bool :=
  (a == b && (a == 0 || a == 1 || a == 5 || a == 6 || a == 7))
    || ((a == 2 || a == 3 || a == 4) && (b == 2 || b == 3 || b == 4))

/-- The lanes of a tile: rows for dir 0, the columns of the quarter for dir 1 (R186, R203). -/
def tileLanes (g : TileBytes) (h : Nat) (dir : Bool) (quarter : Nat) : List Lane :=
  if dir then (List.range 128).map fun j => colEntries g h (128 * quarter + j)
  else (List.range 128).map fun r => rowEntries g h r

/-- Codes 0x7 and 0x8: indices against the panel (R206, R204); `position` gives the entry position of entry n of a lane. -/
def panelFails (x : Panel) (lanes : List Lane) (position : Nat → Nat → Nat × Nat → Nat) (intersect : Bool) : List TileFail :=
  lanes.zipIdx.flatMap fun l => l.1.zipIdx.filterMap fun e =>
    if x.extent ≤ e.1.1 then some ⟨7, l.2, position l.2 e.2 e.1, e.1.1⟩
    else if !x.active.contains e.1.1 && !intersect then some ⟨8, l.2, position l.2 e.2 e.1, e.1.1⟩
    else none

/-- The position of entry n of a lane in the section its tile is read from: row-major for dir 0, column-major for dir 1 (R176,
R177). -/
def entryPosition (g : TileBytes) (h : Nat) (dir : Bool) (quarter l n : Nat) (e : Nat × Nat) : Nat :=
  if dir then colBase g h (128 * quarter + l) + n else e.2

/-- The loader's checks before the first serve (R219): the tile, then the panel. -/
def State.loadCheck (s : State) (f tileAddr panel : Nat) (dir : Bool) (quarter : Nat) (intersect : Bool)
    (fmtOk : Nat → Bool) : Option TileFail :=
  let g := s.bufTile f tileAddr
  let h := tileHeader g
  let x := (s.frond f).panel panel
  match checkTile g (!dir) dir dir fmtOk with
  | some t => some t
  | none =>
    let mode := if dir && thPermuted h && x.map != 2 then [⟨8, 0, 0, x.map⟩] else []
    firstFail (mode ++ panelFails x (tileLanes g h dir quarter) (entryPosition g h dir quarter) intersect)

/-- What both lane-mode tiles wait on: dense tiles, the GATHERs of their panel, and a free half of the tile store
(R187, R189, R201); a SPARSE_TILE also on the drains of its bank (R188) and of another split (R134). -/
def State.laneWait (s : State) (f panel : Nat) (bank : Option Nat) (served : Nat) : Option Wait :=
  let x := s.frond f
  let busy := x.jobs.any fun j => match j.body with
    | .dense .. => true
    | .gather p => p == panel
    | .drain bk _ _ => (match bank with | some b => bk == b || x.split != 0 | none => x.split != 0)
    | _ => false
  if busy || decide (2 ≤ (x.unserved served).length) then some .engine else none

/-- The half of the tile store that a lane-mode tile holds. -/
def Job.half (j : Job) : Option Nat := match j.body with
  | .sparse _ _ _ h => some h
  | .sampled _ _ h => some h
  | _ => none

/-- The half a tile is copied into: the lower of those no unserved tile holds (R189). -/
def Frond.freeHalf (x : Frond) (served : Nat) : Nat := if (x.unserved served).any (fun j => j.half == some 0) then 1 else 0

/-- Copy a tile, and a stationary operand, into a free half of the tile store (R189); the Rhizoid notes its generation.
RHZ_LOAD_WAIT counts the cycles by which the load exceeds the serves of the tile before it in flight (R201; DEDUCED, log
entry 128). -/
def State.loadTile (s : State) (f served : Nat) (bytes : List Byte) (gen load : Nat) : State :=
  let prior := ((s.frond f).jobs.filter Job.lane).getLast?.map fun j => match j.body with
    | .sparse _ _ c _ => c
    | .sampled _ c _ => c
    | _ => 0
  let s := s.modFrond f fun x => if x.freeHalf served = 0 then { x with store0 := bytes } else { x with store1 := bytes }
  (s.setReg clsFrond f 0x1160 (BitVec.ofNat 64 gen)).count32 clsFrond f 0x115C (match prior with | some c => load - c | none => 0)

/-- The lane queues after the load. -/
def State.fillQueues (s : State) (f : Nat) (lanes : List Lane) : State :=
  s.modFrond f fun x => { x with laneQueues := lanes.map laneQueue }

/-- A lane-mode tile is complete: its queues are empty when no other tile holds them. -/
def State.drainQueues (s : State) (f id : Nat) : State :=
  s.modFrond f fun x => if x.jobs.any fun j => j.lane && j.id != id then x else { x with laneQueues := [] }

/-- Count the serves of a tile. -/
def State.countServes (s : State) (f serves fires defers : Nat) : State :=
  ((((s.count64 clsFrond f 0x1140 serves).count64 clsFrond f 0x1148 fires).count32 clsFrond f 0x1150 defers).count64
    clsFrond f 0x1110 serves)

/-! ### SPARSE_TILE -/

/-- Split entries into the 32-blocks of their indices, in order (R198). -/
def blocksOf : Lane → List Lane
  | [] => []
  | e :: es => match blocksOf es with
    | (b :: bs) => match b with
      | x :: _ => if x.1 / 32 = e.1 / 32 then (e :: b) :: bs else [e] :: b :: bs
      | [] => [e] :: bs
    | [] => [[e]]

/-- Weight of an entry of lane l: its value with its square's scale. -/
def laneWeight (g : TileBytes) (h : Nat) (dir : Bool) (quarter l : Nat) (e : Nat × Nat) : Val :=
  if dir then tileValue g h e.2 (permAt g h e.1) (128 * quarter + l) else tileValue g h e.2 l e.1

/-- Block sums of lane l for batch column c (R197, R198), with each whether its residue cell disagrees (R156, R157). An error's
block is the 32-block of the indices. -/
def sparseBlocks (g : TileBytes) (h : Nat) (x : Panel) (b : SparseBody) (u : Option Upset) (l c : Nat) (lane : Lane) :
    List ((Val × Bool) × Bool) :=
  (blocksOf lane).map fun blk =>
    blockSum (isShort b.fmtW) (blk.map fun e =>
        (laneWeight g h b.dir b.quarter l e, if c < b.colsValid then x.value e.1 c else Val.zero))
      (upsetAt u l c (((blk.head?).map (·.1)).getD 0 / 32))

/-- What a lane leaves in its bank row: with no entries, +0 or the value unchanged (R188). -/
def sparseCell (s : State) (f : Nat) (b : SparseBody) (l c : Nat) (blocks : List (Val × Bool)) : Val :=
  let old := s.accVal f b.bank l c
  if blocks.isEmpty then (if b.accumulate then old else Val.zero)
  else accumulate (accFmt b.accMode) b.accumulate old blocks

/-- Whether the fixed-slot schedule applies, and its cycles; or how many demotions count (R213 to R215). -/
def fixedSlot (h : Nat) (b : SparseBody) (tooFull : Bool) : Option Nat × Nat :=
  if !b.gbUse then (none, 0)
  else match groupBound h with
    | none => (none, 1)
    | some (g, s) =>
      if b.dir then (none, 0) else if tooFull then (none, 1) else (some (32 * cdiv (16 * s) (g * laneWidth b.fmtW)), 0)

/-- Load cycles of a lane-mode tile: 2,048 bytes a cycle, and with intersect 256 entries (R189, R205). -/
def loadCycles (bytes entries : Nat) (intersect : Bool) : Nat := max (cdiv bytes 2048) (if intersect then cdiv entries 256 else 0)

/-- What stops a lane-mode tile before its copy: a poisoned header, or code 0x1, by which no extent is known (R219, R434). -/
def State.headerStop (s : State) (p : Nat) (i : Issue) (addr : Nat) (fmtOk : Nat → Bool) : Option State :=
  (s.bufFault p i.frond i.addr (rangeFrom addr 64)).orElse fun _ =>
    (checkHeader (tileHeader (s.bufTile i.frond addr)) fmtOk).map fun t => s.raiseIndex p clsFrond i.frond i.addr t

def runSparse (i : Issue) (b : SparseBody) : Run := fun p _ _ s =>
  let f := i.frond
  let s := s.countStalls (ownBank f .rhizoid) i.contests
  let g := s.bufTile f b.tileAddr
  let h := tileHeader g
  match (s.headerStop p i b.tileAddr (fun v => v == b.fmtW)).orElse fun _ =>
      (s.bufFault p f i.addr (rangeFrom b.tileAddr (tileExtent h))).orElse fun _ =>
        if b.accumulate then s.storeFault p f i.addr .accumulator (accWords b.bank 0 128 128) else none with
  | some s => (s, none)
  | none =>
    let half := (s.frond f).freeHalf i.served
    let s := s.loadTile f i.served (s.bufRead f b.tileAddr (tileExtent h)) (thGen h)
      (loadCycles (tileExtent h) ((tileLanes g h b.dir b.quarter).map List.length).sum b.intersect)
    match s.loadCheck f b.tileAddr b.panel b.dir b.quarter b.intersect (fun v => v == b.fmtW) with
    | some t => (s.raiseIndex p clsFrond f i.addr t, none)
    | none =>
      let tooFull := if b.gbUse && !b.dir then (groupBound h).bind fun x => overfull g h x.1 x.2 else none
      match (if b.demote then none else tooFull) with
      | some t => (s.descFault p cOverfull 0 t.detail clsFrond f i.addr, none)
      | none =>
        let x := (s.frond f).panel b.panel
        let all := tileLanes g h b.dir b.quarter
        let lanes := all.map fun l => l.filter fun e => x.active.contains e.1
        let drops := (all.map List.length).sum - (lanes.map List.length).sum
        let (fixed, demotes) := fixedSlot h b tooFull.isSome
        let (c, d) := match fixed with
          | some c => (c, 0)
          | none => serveCount x.subbank (laneWidth b.fmtW) false lanes
        let vals := lanes.zipIdx.flatMap fun l => (List.range 128).map fun col =>
          (l.2, col, sparseCell s f b l.2 col ((sparseBlocks g h x b i.upset l.2 col l.1).map (·.1)))
        let bad := i.upset.any fun u => decide (u.col < 128) &&
          (sparseBlocks g h x b i.upset u.row u.col (lanes.getD u.row [])).any (·.2)
        let s := (s.fillQueues f lanes).putAcc f b.bank vals
        let s := ((s.countServes f c ((lanes.map List.length).sum) d).count32 clsFrond f 0x1154 demotes).count32 clsFrond f 0x1158 drops
        let s := s.modFrond f fun y => { y with split := 0 }
        (s.residue i p 0 b.bank bad, some (.sparse b.bank b.panel c half))

def execSparseTile (i : Issue) (b : SparseBody) (s : State) : Out :=
  issueRow s i (isSparse b) (b.wf && i.seq == .execute) (fun _ s => s.laneWait i.frond b.panel (some b.bank) i.served) (runSparse i b)

/-- A SPARSE_TILE completes when its flush marker stands (R200). -/
def execSparseTileComplete (f id : Nat) (s : State) : Out :=
  completeRow s f id fun j s => match j.body with
    | .sparse .. => some (s.drainQueues f id)
    | _ => none

/-! ### SAMPLED_TILE -/

/-- Stationary element (j, c) with its block scale (R207). -/
def State.statValue (s : State) (f : Nat) (b : SampledBody) (j c : Nat) : Val :=
  let v := decodeElem b.fmtStat (s.rowCode f (b.statAddr + j * b.statStride) b.fmtStat c)
  if isShort b.fmtStat then applyScale (s.bufByte f (b.statScaleAddr + 4 * j + c / 32)).toNat v else v

/-- One 32-column block sum of a result and whether its residue cell disagrees (R156, R157, R208). -/
def State.sampledBlock (s : State) (f : Nat) (b : SampledBody) (u : Option Upset) (x : Panel) (lane idx k : Nat) :
    (Val × Bool) × Bool :=
  blockSum (isShort b.fmtStat) ((List.range 32).map fun j =>
    let c := 32 * k + j
    if c < b.colsValid then (s.statValue f b lane c, x.value idx c) else (Val.zero, Val.zero)) u

/-- The error in block k of the n-th result of a lane: of a cell in the block's columns, with the result as its block. -/
def upsetIn (u : Option Upset) (lane n k : Nat) : Option Upset :=
  (u.filter fun u => u.row == lane && u.block == n && u.col / 32 == k).map fun u => { u with item := u.col % 32 }

/-- The n-th result of a lane: four 32-column block sums in W48, added pairwise (R208). -/
def State.sampledSum (s : State) (f : Nat) (b : SampledBody) (u : Option Upset) (x : Panel) (lane n idx : Nat) : Val :=
  let blk := fun (k : Nat) => let w := (s.sampledBlock f b (upsetIn u lane n k) x lane idx k).1; roundSum .w48 w.1 w.2
  let lo := Fmt.w48.rn (Val.add false (blk 0) (blk 1))
  let hi := Fmt.w48.rn (Val.add false (blk 2) (blk 3))
  Fmt.w48.rn (Val.add false lo hi)

/-- The bytes of one result at value position p, and the generators after its draw (R208, R209). -/
def State.sampledResult (s : State) (f : Nat) (b : SampledBody) (u : Option Upset) (x : Panel) (lane n : Nat) (e : Nat × Nat)
    (gens : List (Nat × Dword)) : List (Nat × Byte) × List (Nat × Dword) :=
  let v := s.sampledSum f b u x lane n e.1
  let a := b.outAddr + (if b.outW then 4 else 8) * e.2
  if b.outW then
    let (r, gens) := drawRound gens (f * 128 + lane) b.numctl
    (cellsAt a (leBytes 4 (Fmt.b32.convert r v)), gens)
  else
    let v := if b.accumulate then Fmt.w48.rn (Val.add false (decodeW48 (s.bufNat f a 8)) v) else v
    (cellsAt a (leBytes 8 (Fmt.w48.encode v)), gens)

def runSampled (i : Issue) (b : SampledBody) : Run := fun p _ _ s =>
  let f := i.frond
  let s := s.countStalls (ownBank f .rhizoid) i.contests
  let g := s.bufTile f b.tileAddr
  let h := tileHeader g
  let stat := (List.range 128).flatMap fun j => rangeFrom (b.statAddr + j * b.statStride) (rowBytes b.fmtStat b.colsValid)
  match (s.headerStop p i b.tileAddr (fun v => lanePair v b.fmtStat)).orElse fun _ =>
      s.bufFault p f i.addr (rangeFrom b.tileAddr (tileExtent h) ++ stat) with
  | some s => (s, none)
  | none =>
    let half := (s.frond f).freeHalf i.served
    let s := s.loadTile f i.served (s.bufRead f b.tileAddr (tileExtent h) ++ stat.map (s.bufByte f)) (thGen h)
      (loadCycles (tileExtent h + stat.length) 0 false)
    match s.loadCheck f b.tileAddr b.panel b.dir b.quarter false (fun v => lanePair v b.fmtStat) with
    | some t => (s.raiseIndex p clsFrond f i.addr t, none)
    | none =>
      let x := (s.frond f).panel b.panel
      let lanes := tileLanes g h b.dir b.quarter
      let (c, d) := serveCount x.subbank 1 b.dir lanes
      let r := lanes.zipIdx.foldl (fun (a : List (Nat × Byte) × List (Nat × Dword)) l =>
        l.1.zipIdx.foldl (fun a e => let o := s.sampledResult f b i.upset x l.2 e.2 e.1 a.2; (a.1 ++ o.1, o.2)) a) ([], s.gens)
      let bad := i.upset.any fun u => match (lanes.getD u.row [])[u.block]? with
        | some e => decide (u.col < 128) && (s.sampledBlock f b (upsetIn i.upset u.row u.block (u.col / 32)) x u.row e.1 (u.col / 32)).2
        | none => false
      match { s.fillQueues f lanes with gens := r.2 }.bufPutFor p f i.addr (wholeBytes r.1) with
      | (s, false) => (s, none)
      | (s, true) =>
        let s := s.modFrond f fun y => { y with split := 0 }
        ((s.countServes f c ((lanes.map List.length).sum) d).residue i p 0 0 bad, some (.sampled b.panel c half))

def execSampledTile (i : Issue) (b : SampledBody) (s : State) : Out :=
  issueRow s i (isSampled b) (b.wf && i.seq == .execute) (fun _ s => s.laneWait i.frond b.panel none i.served) (runSampled i b)

/-- A SAMPLED_TILE completes 20 cycles after its last serve (R212). -/
def execSampledTileComplete (f id : Nat) (s : State) : Out :=
  completeRow s f id fun j s => match j.body with
    | .sampled .. => some (s.drainQueues f id)
    | _ => none

end Sys2Proof.Machine
end

