-- ==== Sys2Proof/Machine/Masks.lean ====
section
/-! DEFINITION. Masks and their generations (chapter 5): MASK_PRUNE, MASK_REGROW and MASK_COMMIT on the Soredia unit of
a frond's tuft, ledger 0x6, and the switch and the discard of a build. -/

namespace Sys2Proof.Machine

/-- The position number of tile t, row r, column k: the position order of R236. -/
def posOf (t r k : Nat) : Nat := 65536 * t + 512 * r + k

/-- A position with what it is ranked by. -/
structure Ranked where
  pos : Nat
  key : Nat
  deriving DecidableEq, Repr, Inhabited

def Ranked.tile (x : Ranked) : Nat := x.pos / 65536
def Ranked.row (x : Ranked) : Nat := x.pos / 512 % 128

/-- Lowest key first, ties lowest in position order (R236). -/
def Ranked.lower (a b : Ranked) : Bool := decide (a.key < b.key ∨ (a.key = b.key ∧ a.pos < b.pos))

/-- Highest magnitude first, ties lowest in position order (R240). -/
def Ranked.higher (a b : Ranked) : Bool := decide (b.key < a.key ∨ (a.key = b.key ∧ a.pos < b.pos))

/-- One tile of the active generation as a Soredia unit reads it. -/
structure TileRead where
  t : Nat
  /-- Device address of its slot in the active region. -/
  base : Nat
  bytes : TileBytes
  freeze : List Byte

def TileRead.header (x : TileRead) : Nat := tileHeader x.bytes
def TileRead.frozen (x : TileRead) (r k : Nat) : Bool := (x.freeze.getD (64 * r + k / 8) 0).getLsbD (k % 8)

/-- A device byte as the unit uses it. -/
def State.devByte (s : State) (p a : Nat) : Byte :=
  match s.resolve (some p) a with
  | some x => s.readByte x
  | none => 0

def State.devNat (s : State) (p a n : Nat) : Nat := leNat ((rangeFrom a n).map (s.devByte p))

/-- Read tiles t, t+1, … of a slot by their region address: the tile, judged by the checks of R219 that concern the
tile itself (R254), its freeze bitmap, and further bytes given by `more`. The first failing tile ends the list. -/
def State.readTiles (s : State) (p u desc : Nat) (m : MaskSlot) (more : Nat → Nat → List Nat) :
    Nat → Nat → State × Option (List TileRead)
  | _, 0 => (s, some [])
  | t, n + 1 =>
    let base := m.activeBase + t * slotBytes m.policy
    let g : TileBytes := fun o => s.devByte p (base + o)
    let h := tileHeader g
    match s.readFor p clsSoredia u desc
        (rangeFrom base (max 64 (min (polTileBytes m.policy) (tileExtent h))) ++ rangeFrom (base + slotFreezeBits m.policy) 8192
          ++ more base h) with
    | (s1, none) => (s1, none)
    | (s1, some bs) => match checkTile g true true true (fun _ => true) with
      | some f => (s1.raiseIndex p clsSoredia u desc f, none)
      | none =>
        let ext := max 64 (min (polTileBytes m.policy) (tileExtent h))
        match State.readTiles s1 p u desc m more (t + 1) n with
        | (s2, some ts) => (s2, some ({ t := t, base := base, bytes := g, freeze := (bs.drop ext).take 8192 } :: ts))
        | (s2, none) => (s2, none)

/-- The mask slot a descriptor's policy index is bound to, held by partition p. -/
def State.slotOf (s : State) (p policy : Nat) : Option (Nat × MaskSlot) :=
  match (s.part p).plan with
  | none => none
  | some pl => match pl.slots[policy]? with
    | none => none
    | some m => match s.slot m with
      | some x => if x.partition = p then some (m, x) else none
      | none => none

/-- The first mask descriptor after a switch begins a build (generation-state table). -/
def MaskSlot.building (m : MaskSlot) : MaskSlot :=
  if m.state = 1 then
    { m with state := 2, prunes := [], regrows := [], committed := [], prunedTiles := [], newNnz := 0 }
  else m

/-- Whether a tile lies in a range. -/
def inTiles (first count t : Nat) : Bool := decide (first ≤ t ∧ t < first + count)

/-- Edits of a list in a range of tiles. -/
def editsIn (first count : Nat) (l : List Nat) : List Nat := l.filter fun x => inTiles first count (x / 65536)

/-- The tensor rows of a range, ascending, as (tile row, row): those below the rows_valid of their tiles (R237). -/
def tensorRows (tc : Nat) (ts : List TileRead) : List (Nat × Nat) :=
  (ts.foldl (fun (l : List (Nat × Nat)) x =>
    if l.any (fun e => e.1 == x.t / tc) then l else l ++ [(x.t / tc, thRows x.header)]) []).flatMap
    fun e => (List.range e.2).map fun r => (e.1, r)

/-- Whether a ranked position lies in a tensor row. -/
def Ranked.inRow (tc : Nat) (x : Ranked) (row : Nat × Nat) : Bool := x.tile / tc == row.1 && x.row == row.2

/-- Write the edit lists (R228): their layout is the units' own, so which bytes of the edit region they write and with
what is free (log entry 17); 16 bytes for each tile and 4 for each edit. -/
def State.writeEdits (s : State) (p : Nat) (m : MaskSlot) (tiles edits : Nat) : State :=
  if polEditBytes m.policy = 0 then s
  else
    let n := 16 * tiles + 4 * edits
    let cells := (List.range n).filterMap fun k =>
      (s.resolve (some p) (polEdit m.policy + Config.freeNat (s.freeCtr + k) % polEditBytes m.policy)).map
        fun a => (a, Config.freeBits 8 (s.freeCtr + k))
    { s with mem := putCells s.mem cells, freeCtr := s.freeCtr + n }

/-- Cycles of start work a descriptor pays (R644): `i.cycles` is the number of cycles it stood at the pipeline behind
the descriptor before it. -/
def startPaid (start : Nat) (i : Issue) : Nat := start - i.cycles

/-- The mask slot a job works on. -/
def JobBody.maskSlot : JobBody → Option Nat
  | .prune k => some k
  | .regrow k => some k
  | .commit k _ _ => some k
  | _ => none

/-- A mask descriptor starts after every descriptor of its tensor that reached the unit of the tuft earlier has completed, from
whichever of its eight fronds (R249). -/
def State.tensorWait (f policy : Nat) : Nat → State → Option Wait := fun p s =>
  match s.slotOf p policy with
  | none => none
  | some (k, _) =>
    if (rangeFrom (8 * tuftOf f) 8).any fun g => (s.frond g).jobs.any fun j => j.body.maskSlot == some k then some .engine else none

/-! ### MASK_PRUNE -/

/-- The eligible positions of a tile, with keys of their master weights (R236). -/
def State.pruneTile (s : State) (p : Nat) (m : MaskSlot) (x : TileRead) : List Ranked :=
  ((tilePositions x.bytes x.header).filter fun e =>
      !x.frozen e.1 e.2.1 && !m.prunes.contains (posOf x.t e.1 e.2.1)).map fun e =>
    { pos := posOf x.t e.1 e.2.1
      key := s.devNat p (x.base + slotMaster m.policy + 4 * e.2.2) 4 % 2 ^ 31 }

/-- Whether the cut bitmaps name a position (R238). -/
def State.cutBit (s : State) (p : Nat) (b : PruneBody) (pos : Nat) : Bool :=
  let j := pos / 65536 - b.firstTile
  (s.devByte p (b.cutAddr + 8192 * j + pos % 65536 / 8)).getLsbD (pos % 8)

/-- Positions a prune removes and how many k is short (R236, R237). -/
def State.pruneChoice (s : State) (p : Nat) (m : MaskSlot) (b : PruneBody) (ts : List TileRead) : List Nat × Nat :=
  let all := ts.flatMap (s.pruneTile p m)
  if b.method = 0 then ((all.filter fun x => decide (x.key < b.param)).map (·.pos), 0)
  else if b.method = 2 then ((all.filter fun x => s.cutBit p b x.pos).map (·.pos), 0)
  else if b.perRow then
    (tensorRows (polCols m.policy) ts).foldl (fun a row =>
      let g := sortBy Ranked.lower (all.filter fun x => x.inRow (polCols m.policy) row)
      (a.1 ++ (g.take b.param).map (·.pos), a.2 + (b.param - g.length))) ([], 0)
  else
    let g := sortBy Ranked.lower all
    ((g.take b.param).map (·.pos), b.param - g.length)

/-- Cut bits on frozen mask positions (R238). -/
def State.frozenKept (s : State) (p : Nat) (b : PruneBody) (ts : List TileRead) : Nat :=
  (ts.map fun x => ((tilePositions x.bytes x.header).filter fun e =>
    x.frozen e.1 e.2.1 && s.cutBit p b (posOf x.t e.1 e.2.1)).length).sum

/-- Positions of the active generation in a range. -/
def positionsIn (ts : List TileRead) : Nat := (ts.map fun x => thNnz x.header).sum

def runPrune (i : Issue) (b : PruneBody) : Run := fun p _ _ s =>
  let u := tuftOf i.frond
  match s.slotOf p b.policy with
  | none => (s, none)
  | some (k, m0) =>
    let m := m0.building
    let s := s.setSlot k (some m)
    let more := fun (base h : Nat) => rangeFrom (base + slotMaster m.policy) (4 * thNnz h)
    match s.readTiles p u i.addr m more b.firstTile b.tileCount with
    | (s, none) => (s, none)
    | (s, some ts) =>
      let cut := if b.method = 2 then s.readFor p clsSoredia u i.addr (rangeFrom b.cutAddr (8192 * b.tileCount)) else (s, some [])
      match cut with
      | (s, none) => (s, none)
      | (s, some _) =>
        let (gone, short) := s.pruneChoice p m b ts
        let n := gone.length
        let kept := if b.method = 2 then s.frozenKept p b ts else 0
        let work := (if b.method = 1 then 2 else 1) * cdiv (positionsIn ts) 8
        let s := s.setSlot k (some { m with
          prunes := gone.foldl (fun l x => insertNat x l) m.prunes
          prunedTiles := (rangeFrom b.firstTile b.tileCount).foldl (fun l x => insertNat x l) m.prunedTiles })
        let l := s.ledger (ledgerKey p 6 k)
        let s := s.setLedger (ledgerKey p 6 k)
          { l with completed := l.completed - BitVec.ofNat 64 n, inFlight := l.inFlight + BitVec.ofNat 64 n }
        let s := (((s.count64 clsSoredia u 0x1110 (startPaid 16 i + work)).count64 clsSoredia u 0x1120 n).count32
          clsSoredia u 0x113C kept).count32 clsSoredia u 0x1140 short
        (s.writeEdits p m b.tileCount n, some (.prune k))

/-- MASK_PRUNE (R236 to R238): the positions removed go to the edit lists; no tile changes. -/
def execMaskPrune (i : Issue) (b : PruneBody) (s : State) : Out := issueRow s i (isPrune b) (b.wf && i.seq == .execute) (State.tensorWait i.frond b.policy) (runPrune i b)

/-! ### MASK_REGROW -/

/-- A score's magnitude: its code without the sign (R240), and whether it is a NaN (R239). -/
def scoreMag (b32 : Bool) (code : Nat) : Nat × Bool :=
  if b32 then (code % 2 ^ 31, decide (0x7F800000 < code % 2 ^ 31)) else (code % 2 ^ 15, decide (0x7F80 < code % 2 ^ 15))

/-- Positions of a tile that would be candidates but for their score, with its code (R239). -/
def State.scored (s : State) (p : Nat) (m : MaskSlot) (b : RegrowBody) (x : TileRead) : List (Nat × Nat) :=
  let w := if b.scoreB32 then 4 else 2
  let h := x.header
  (List.range (thRows h)).flatMap fun r =>
    let cols := (rowEntries x.bytes h r).map (·.1)
    ((List.range (thCols h)).filter fun k =>
      !cols.contains k && !x.frozen r k && !m.regrows.contains (posOf x.t r k)).map fun k =>
      (posOf x.t r k, s.devNat p (b.scoreAddr + (65536 * (x.t - b.firstTile) + 512 * r + k) * w) w)

/-- Positions of each tile of the range after this build's prunes and the regrowths so far. -/
def tileCounts (m : MaskSlot) (ts : List TileRead) : List (Nat × Nat) :=
  ts.map fun x => (x.t, thNnz x.header - (editsIn x.t 1 m.prunes).length + (editsIn x.t 1 m.regrows).length)

def countOf (cs : List (Nat × Nat)) (t : Nat) : Nat := ((cs.find? fun c => c.1 == t).map (·.2)).getD 0
def bump (cs : List (Nat × Nat)) (t : Nat) : List (Nat × Nat) := cs.map fun c => if c.1 = t then (t, c.2 + 1) else c

/-- A choice: the positions taken, highest first, those skipped at cap, and the counts of the tiles after it. -/
structure Choice where
  taken : List Ranked
  skipped : List Ranked
  counts : List (Nat × Nat)

/-- R240: the k candidates of highest magnitude whose tile is below cap. -/
def plainChoice (cap k : Nat) : List Ranked → Choice → Choice
  | [], c => c
  | x :: xs, c =>
    if c.taken.length = k then c
    else if cap ≤ countOf c.counts x.tile then plainChoice cap k xs { c with skipped := c.skipped ++ [x] }
    else plainChoice cap k xs { c with taken := c.taken ++ [x], counts := bump c.counts x.tile }

/-- A magnitude as a binary32 value. -/
def magVal (b32 : Bool) (k : Nat) : Val := Fmt.b32.decode (if b32 then k else k * 2 ^ 16)

/-- s_k × (1 ± ε), rounded to binary32 (R241). -/
def bandEdge (b32 minus : Bool) (band sk : Nat) : Val :=
  let one : Int := 2 ^ band
  let f : Nat := (if minus then one - 1 else one + 1).toNat
  Fmt.b32.rn (Val.mul (magVal b32 sk) (.fin false f (-(band : Int))))

/-- The band loop of R241: the member whose tile row has the smallest count, then of highest magnitude, then lowest in
position order. Answers the picks and the skips at cap. -/
def bandLoop (cap : Nat) : Nat → Nat → List Ranked → List (Nat × Nat) → List (Nat × Nat) → List Ranked × Nat
  | 0, _, _, _, _ => ([], 0)
  | _, 0, _, _, _ => ([], 0)
  | n + 1, m + 1, band, rows, tiles =>
    let first := sortBy (fun (a b : Ranked) =>
      let ca := countOf rows (a.pos / 512)
      let cb := countOf rows (b.pos / 512)
      decide (ca < cb) || (ca == cb && a.higher b)) band
    match first with
    | [] => ([], 0)
    | c :: _ =>
      let rest := band.filter fun x => x.pos != c.pos
      if cap ≤ countOf tiles c.tile then
        let r := bandLoop cap n (m + 1) rest rows tiles
        (r.1, r.2 + 1)
      else
        let r := bandLoop cap n m rest (bump rows (c.pos / 512)) (bump tiles c.tile)
        (c :: r.1, r.2)

/-- R241, with the cycles the mask-cost table adds for the band. The members R240 skipped at cap stay skipped above the
band (log entry 18). -/
def fillChoice (b32 : Bool) (band cap k : Nat) (cands : List Ranked) (rowBase : List (Nat × Nat))
    (start : List (Nat × Nat)) : List Ranked × Nat × Nat × List (Nat × Nat) :=
  let c := plainChoice cap k (sortBy Ranked.higher cands) { taken := [], skipped := [], counts := start }
  match c.taken.getLast? with
  | none => ([], c.skipped.length, 0, start)
  | some last =>
    let hi := bandEdge b32 false band last.key
    let lo := bandEdge b32 true band last.key
    let isFirm := fun (x : Ranked) => hi.lt (magVal b32 x.key)
    let firm := c.taken.filter isFirm
    let bandSet := cands.filter fun x => !isFirm x && !(magVal b32 x.key).lt lo
    let rows := firm.foldl (fun r x => bump r (x.pos / 512)) rowBase
    let tiles := firm.foldl (fun r x => bump r x.tile) start
    let (pick, skips) := bandLoop cap bandSet.length (k - firm.length) bandSet rows tiles
    (firm ++ pick, (c.skipped.filter isFirm).length + skips, cdiv bandSet.length 8 + (k - firm.length), pick.foldl (fun r x => bump r x.tile) tiles)

/-- Positions of each row of a tile after this build's prunes, by 128 × tile + row (R241). -/
def rowCounts (m : MaskSlot) (ts : List TileRead) : List (Nat × Nat) :=
  ts.flatMap fun x => (List.range 128).map fun r =>
    (128 * x.t + r, (rowEntries x.bytes x.header r).length - (m.prunes.filter fun q => q / 512 == 128 * x.t + r).length)

/-- What a regrowth chooses. -/
structure Regrowth where
  grown : List Nat
  skips : Nat
  short : Nat
  nans : Nat
  /-- Cycles of the band procedure (mask-cost table). -/
  work : Nat
  counts : List (Nat × Nat)

/-- R239 to R241. -/
def State.regrowChoice (s : State) (p : Nat) (m : MaskSlot) (b : RegrowBody) (ts : List TileRead) : Regrowth :=
  let all := ts.flatMap (s.scored p m b)
  let nans := (all.filter fun x => (scoreMag b.scoreB32 x.2).2).length
  let cands := (all.filter fun x => !(scoreMag b.scoreB32 x.2).2).map fun x =>
    ({ pos := x.1, key := (scoreMag b.scoreB32 x.2).1 } : Ranked)
  let cap := polCap m.policy
  let groups := if b.perRow then (tensorRows (polCols m.policy) ts).map fun row =>
      cands.filter fun x => x.inRow (polCols m.policy) row else [cands]
  let rowBase := rowCounts m ts
  let step := fun (a : Regrowth) (g : List Ranked) =>
    let (taken, skips, work, counts) :=
      if b.fillAware then fillChoice b.scoreB32 b.fillBand cap b.k g rowBase a.counts
      else
        let c := plainChoice cap b.k (sortBy Ranked.higher g) { taken := [], skipped := [], counts := a.counts }
        (c.taken, c.skipped.length, 0, c.counts)
    { a with grown := a.grown ++ taken.map (·.pos), skips := a.skips + skips, short := a.short + (b.k - taken.length)
             work := a.work + work, counts := counts }
  groups.foldl step { grown := [], skips := 0, short := 0, nans := nans, work := 0, counts := tileCounts m ts }

def runRegrow (i : Issue) (b : RegrowBody) : Run := fun p _ _ s =>
  let u := tuftOf i.frond
  match s.slotOf p b.policy with
  | none => (s, none)
  | some (k, m0) =>
    let m := m0.building
    let s := s.setSlot k (some m)
    match s.readTiles p u i.addr m (fun _ _ => []) b.firstTile b.tileCount with
    | (s, none) => (s, none)
    | (s, some ts) =>
      let w := if b.scoreB32 then 4 else 2
      match s.readFor p clsSoredia u i.addr (rangeFrom b.scoreAddr (65536 * b.tileCount * w)) with
      | (s, none) => (s, none)
      | (s, some _) =>
        let r := s.regrowChoice p m b ts
        let n := r.grown.length
        let covered := (rangeFrom b.firstTile b.tileCount).all fun t => m.prunedTiles.contains t
        let work := 2 * cdiv (65536 * b.tileCount) 256 + (if covered then 0 else cdiv (positionsIn ts) 8) + r.work
        let s := s.setSlot k (some { m with regrows := r.grown.foldl (fun l x => insertNat x l) m.regrows })
        let l := s.ledger (ledgerKey p 6 k)
        let s := s.setLedger (ledgerKey p 6 k)
          { l with completed := l.completed + BitVec.ofNat 64 n, inFlight := l.inFlight - BitVec.ofNat 64 n }
        let s := ((((s.count64 clsSoredia u 0x1110 (startPaid 16 i + work)).count64 clsSoredia u 0x1128 n).count32
          clsSoredia u 0x1134 r.skips).count32 clsSoredia u 0x1138 r.nans).count32 clsSoredia u 0x1140 r.short
        (s.writeEdits p m b.tileCount n, some (.regrow k))

/-- MASK_REGROW (R239 to R241). -/
def execMaskRegrow (i : Issue) (b : RegrowBody) (s : State) : Out := issueRow s i (isRegrow b) (b.wf && i.seq == .execute) (State.tensorWait i.frond b.policy) (runRegrow i b)

/-! ### MASK_COMMIT -/

/-- What the new tile takes at one of its positions: the value position in G, or none for a regrown position. -/
structure NewEntry where
  r : Nat
  k : Nat
  old : Option Nat
  deriving DecidableEq, Repr

/-- The new mask of a tile, row-major (R242). -/
def newEntries (m : MaskSlot) (x : TileRead) : List NewEntry :=
  let old := (tilePositions x.bytes x.header).map fun e => (posOf 0 e.1 e.2.1, e.2.2)
  let kept := (old.filter fun e => !m.prunes.contains (65536 * x.t + e.1)).map fun e => (e.1, some e.2)
  let grown := (editsIn x.t 1 m.regrows).map fun q => (q % 65536, (none : Option Nat))
  (sortBy (fun (a b : Nat × Option Nat) => decide (a.1 < b.1)) (kept ++ grown)).map fun e =>
    { r := e.1 / 512, k := e.1 % 512, old := e.2 }

/-- Scale of a square of the new tile: G's, or 0x7F where the square held no position (R242). -/
def newScale (x : TileRead) (q : Nat) : Nat :=
  let h := x.header
  if (tilePositions x.bytes h).any fun e => 16 * (e.1 / 32) + e.2.1 / 32 == q then (x.bytes (thScale h + q)).toNat else 0x7F

/-- The binary32 master weight of a regrown position (R243). -/
def State.initWeight (s : State) (p : Nat) (m : MaskSlot) (pos : Nat) : Nat :=
  if polInitUse m.policy then s.devNat p (polInit m.policy + 4 * pos) 4 else 0

/-- Value code of a weight under its square's scale (R243). -/
def valueCode (fmt scale weight : Nat) : Nat := (scaledElem fmt scale .nearest false (Fmt.b32.decode weight)).code

/-- Scale the new tile holds for square q: the NaN block's where a regrown weight spoils it (R73), else that of `newScale`. -/
def State.squareScale (s : State) (p : Nat) (m : MaskSlot) (x : TileRead) (es : List NewEntry) (q : Nat) : Nat :=
  if es.any fun e => e.old.isNone && 16 * (e.r / 32) + e.k / 32 == q
      && spoilsBlock (thFmt x.header) (Fmt.b32.decode (s.initWeight p m (posOf x.t e.r e.k))) then 0xFF
  else newScale x q

/-- Value codes of a new tile by row: (column, code). -/
def State.newRows (s : State) (p : Nat) (m : MaskSlot) (x : TileRead) (es : List NewEntry) : List (List (Nat × Nat)) :=
  let h := x.header
  (List.range 128).map fun r => (es.filter fun e => e.r == r).map fun e =>
    (e.k, match e.old with
      | some q => codeAt x.bytes (thFmt h) (thVal h) (valueIndex h q e.r e.k)
      | none => valueCode (thFmt h) (s.squareScale p m x es (16 * (e.r / 32) + e.k / 32))
          (s.initWeight p m (posOf x.t e.r e.k)))

/-- R244: rows of each block of 32 by descending count, ties lowest row first. -/
def rowOrder (rows : List (List (Nat × Nat))) : List Nat :=
  (List.range 4).flatMap fun b =>
    (sortBy Ranked.higher ((List.range 32).map fun j =>
      ({ pos := 32 * b + j, key := (rows.getD (32 * b + j) []).length } : Ranked))).map (·.pos)

/-- Serve cycles of a tile with swizzle codes: dir 0, or dir 1 over the four quarters (R196). -/
def tileServes (t : TileData) (codes : List Nat) (dir : Bool) : Nat :=
  let sub := fun (k : Nat) => (k % 16) ^^^ (codes.getD (k / 16) 0)
  if dir then
    let cs := t.columns
    ((List.range 4).map fun q =>
      (serveCount sub (laneWidth t.fmt) false ((List.range 128).map fun j => cs.getD (128 * q + j) [])).1).sum
  else (serveCount sub (laneWidth t.fmt) false (t.rows.map fun r => r.map fun e => (e.1, 0))).1

/-- R245: each code in ascending group order, the one of fewest serve cycles, ties lowest. -/
def chooseCodes (cost : List Nat → Nat) (groups : Nat) : List Nat :=
  (List.range groups).foldl (fun codes g =>
    let best := (List.range 16).foldl (fun (b : Nat × Nat) c =>
      let w := cost (codes.set g c)
      if w < b.2 then (c, w) else b) (0, cost (codes.set g 0))
    codes.set g best.1) (List.replicate groups 0)

/-- Whether every group of the new mask meets the bound that G declares (R242). -/
def meetsBound (h : Nat) (rows : List (List (Nat × Nat))) : Bool :=
  match groupBound h with
  | none => false
  | some (size, bound) => rows.all fun r => (List.range (512 / size)).all fun g => decide (groupCount r (g * size) size ≤ bound)

/-- The new tile (R242, R244, R245). -/
def State.newTile (s : State) (p : Nat) (m : MaskSlot) (fill : Bool) (x : TileRead) (es : List NewEntry) : TileData :=
  let h := x.header
  let rows := s.newRows p m x es
  let ok := meetsBound h rows
  let dense := escapes (thFmt h) es.length
  let order := if fill && !dense then rowOrder rows else List.range 128
  let t0 : TileData :=
    { fmt := thFmt h, rowsValid := thRows h, colsValid := thCols h, tensor := thTensor h, tileRow := thTileRow h
      tileCol := thTileCol h, gen := (m.generation.toNat + 1) % 2 ^ 32, group := if ok then thGroup h else 0
      slots := if ok then thSlots h else 0, rows := rows
      scales := (List.range 64).map fun q => BitVec.ofNat 8 (s.squareScale p m x es q)
      permuted := order != List.range 128, order := order
      swzCol := List.replicate 32 0, swzRow := List.replicate 8 0 }
  if fill then
    { t0 with swzCol := chooseCodes (fun c => tileServes t0 c false) 32
              swzRow := chooseCodes (fun c => tileServes t0 c true) 8 }
  else t0

/-- R246: the freeze bitmap of G+1. -/
def newFreeze (op : Nat) (old src : List Byte) : List Byte :=
  (old.zip src).map fun e =>
    if op = 0 then e.1 else if op = 1 then e.1 ||| e.2 else if op = 2 then e.1 &&& ~~~e.2 else e.2

/-- Every byte a MASK_COMMIT writes for one tile, by its address in the alternate region (R224, R242, R243, R246). -/
def State.commitCells (s : State) (p : Nat) (m : MaskSlot) (x : TileRead) (es : List NewEntry) (t : TileData)
    (freeze : List Byte) : List (Nat × Byte) :=
  let pol := m.policy
  let dst := m.alternateBase + x.t * slotBytes pol
  let w := polW pol
  let vec := (List.range (p64 (cdiv (polCap pol) 8))).map fun b =>
    BitVec.ofNat 8 ((List.range 8).foldl (fun a j =>
      match es[8 * b + j]? with
      | some e => if (freeze.getD (64 * e.r + e.k / 8) 0).getLsbD (e.k % 8) then a + 2 ^ j else a
      | none => a) 0)
  let arrays := (List.range (polStates pol)).flatMap fun i =>
    cellsAt (dst + slotState pol i) (es.flatMap fun e => match e.old with
      | some q => (rangeFrom (x.base + slotState pol i + w * q) w).map (s.devByte p)
      | none => leBytes w 0)
  cellsAt dst t.bytes ++ cellsAt (dst + slotFreezeBits pol) freeze ++ cellsAt (dst + slotFreezeVec pol) vec
    ++ cellsAt (dst + slotMaster pol) (es.flatMap fun e => match e.old with
      | some q => (rangeFrom (x.base + slotMaster pol + 4 * q) 4).map (s.devByte p)
      | none => leBytes 4 (s.initWeight p m (posOf x.t e.r e.k)))
    ++ arrays

/-- Write by region address (R227): the alternate region is not barred to its own unit. -/
def State.writeRegion (s : State) (p cls u desc : Nat) (cells : List (Nat × Byte)) : State × Bool :=
  let w := s.writePhys (some p) (cells.filterMap fun c => (s.resolve (some p) c.1).map fun a => (a, c.2))
  match w.refused with
  | some b => (w.state.raiseUnc p cls u desc (b.1, 2), false)
  | none => (w.state, true)

/-- Cycles of one tile's build in the mask-cost table, and those under R245. -/
def buildCycles (x : TileRead) (es : List NewEntry) (t : TileData) (fill : Bool) : Nat × Nat :=
  let grown := (es.filter fun e => e.old.isNone).length
  (max (cdiv es.length 8) (cdiv (thNnz x.header + grown) 16),
   if fill then 32 * tileServes t t.swzCol false + 8 * tileServes t t.swzRow true else 0)

/-- Build one tile of a commit; none when a write is refused. -/
def State.commitTile (s : State) (p k u : Nat) (m : MaskSlot) (i : Issue) (b : CommitBody) (x : TileRead) : State × Bool :=
  let es := newEntries m x
  let t := s.newTile p m b.fillAware x es
  let src := if b.freezeOp = 0 then x.freeze
    else (rangeFrom (b.freezeSrc + 8192 * (x.t - b.firstTile)) 8192).map (s.devByte p)
  let cells := s.commitCells p m x es t (newFreeze b.freezeOp x.freeze src)
  let (work, fill) := buildCycles x es t b.fillAware
  let s := ((s.count64 clsSoredia u 0x1118 (work + fill)).count64 clsSoredia u 0x1158 fill).count32 clsSoredia u 0x1130
    (if escapes t.fmt es.length then 1 else 0)
  let s := match s.slot k with
    | some y => s.setSlot k (some { y with newNnz := y.newNnz + es.length })
    | none => s
  s.writeRegion p clsSoredia u i.addr cells

/-- Build the tiles of a commit in order; false when a write was refused. -/
def State.commitTiles (s : State) (p k u : Nat) (m : MaskSlot) (i : Issue) (b : CommitBody) : List TileRead → State × Bool
  | [] => (s, true)
  | x :: xs => match s.commitTile p k u m i b x with
    | (s, false) => (s, false)
    | (s, true) => State.commitTiles s p k u m i b xs

/-- Detail of a BUDGET_MISMATCH (R253). -/
def budgetDetail (k first : Nat) (diff : Int) : Nat :=
  let d := if diff < -(2 ^ 31) then -(2 ^ 31) else if 2 ^ 31 - 1 < diff then 2 ^ 31 - 1 else diff
  k % 256 * 2 ^ 56 + first % 2 ^ 20 * 2 ^ 36 + unsignedOf 32 d

/-- What MASK_COMMIT reads of G beside the tile: masters and states. -/
def commitMore (m : MaskSlot) (base h : Nat) : List Nat :=
  rangeFrom (base + slotMaster m.policy) (4 * thNnz h)
    ++ (List.range (polStates m.policy)).flatMap fun i => rangeFrom (base + slotState m.policy i) (polW m.policy * thNnz h)

def runCommit (i : Issue) (b : CommitBody) : Run := fun p _ _ s =>
  let u := tuftOf i.frond
  match s.slotOf p b.policy with
  | none => (s, none)
  | some (k, m0) =>
    let m := m0.building
    let s := s.setSlot k (some m)
    match s.readTiles p u i.addr m (commitMore m) b.firstTile b.tileCount with
    | (s, none) => (s, none)
    | (s, some ts) =>
      let pruned := (editsIn b.firstTile b.tileCount m.prunes).length
      let grown := editsIn b.firstTile b.tileCount m.regrows
      let diff : Int := (pruned : Int) - (grown.length : Int)
      if polConstant m.policy && diff != 0 then
        (s.descFault p cBudget 0 (budgetDetail k b.firstTile diff) clsSoredia u i.addr, none)
      else
        let extra := (if b.freezeOp = 0 then [] else rangeFrom b.freezeSrc (8192 * b.tileCount))
          ++ (if polInitUse m.policy then grown.flatMap fun q => rangeFrom (polInit m.policy + 4 * q) 4 else [])
        match s.readFor p clsSoredia u i.addr extra with
        | (s, none) => (s, none)
        | (s, some _) =>
          let s := s.count64 clsSoredia u 0x1118 (startPaid 64 i)
          match s.commitTiles p k u m i b ts with
          | (s, false) => (s, none)
          | (s, true) =>
            let l := s.ledger (ledgerKey p 6 k)
            let d := BitVec.ofInt 64 (-diff)
            let s := if polConstant m.policy then s
              else s.setLedger (ledgerKey p 6 k) { l with issued := l.issued + d, inFlight := l.inFlight + d }
            (s, some (.commit k b.firstTile b.tileCount))

/-- MASK_COMMIT (R242 to R248). -/
def execMaskCommit (i : Issue) (b : CommitBody) (s : State) : Out := issueRow s i (isCommit b) (b.wf && i.seq == .execute) (State.tensorWait i.frond b.policy) (runCommit i b)

/-! ### Completion, switch and discard -/

def execMaskPruneComplete (f id : Nat) (s : State) : Out :=
  completeRow s f id fun j s => match j.body with
    | .prune _ => some s
    | _ => none

def execMaskRegrowComplete (f id : Nat) (s : State) : Out :=
  completeRow s f id fun j s => match j.body with
    | .regrow _ => some s
    | _ => none

/-- The tiles of a completed commit count as committed; when all are, the tensor is committed (R230). -/
def MaskSlot.commitDone (m : MaskSlot) (first count : Nat) : MaskSlot :=
  let c := (rangeFrom first count).foldl (fun l t => insertNat t l) m.committed
  { m with committed := c, state := if c.length = polTiles m.policy then 3 else m.state }

def execMaskCommitComplete (f id : Nat) (s : State) : Out :=
  completeRow s f id fun j s => match j.body with
    | .commit k first count =>
      match s.slot k with
      | some m => some (s.setSlot k (some (m.commitDone first count)))
      | none => some s
    | _ => none

/-- No edit of a build in hand. -/
def MaskSlot.clearBuild (m : MaskSlot) : MaskSlot :=
  { m with state := 1, prunes := [], regrows := [], committed := [], prunedTiles := [], newNnz := 0 }

/-- The switch of a committed tensor (R232). -/
def MaskSlot.switch (m : MaskSlot) : MaskSlot :=
  { m.clearBuild with region := 1 - m.region, generation := m.generation + 1, nnz := m.newNnz }

/-- Change every mask slot of partition p. -/
def State.modSlots (s : State) (p : Nat) (g : MaskSlot → MaskSlot) : State :=
  { s with slots := (s.slots.map fun e => (e.1, e.2.map fun m => if m.partition = p then g m else m)) }


/-- Discard the builds of partition p, and the exchanges of regions that a snapshot step has asked for (R226, R233, R553). -/
def State.discardBuilds (s : State) (p : Nat) : State := s.modSlots p fun m => { m.clearBuild with swapDue := false }

/-- What the mask-switch interval does to a slot: a committed tensor switches (R231, R232), and the regions of a tensor that a
snapshot step asked for are exchanged (R226, R553). -/
def MaskSlot.atSwitch (m : MaskSlot) : MaskSlot :=
  let m := if m.state = 3 then m.switch else m
  if m.swapDue then { m with region := 1 - m.region, swapDue := false } else m

/-- Non-zeros of a slot's active generation: the nnz of every tile header. -/
def State.countNnz (s : State) (m : MaskSlot) : Nat :=
  ((List.range (polTiles m.policy)).map fun t =>
    thNnz (s.peekNat none (m.activeBase + t * slotBytes m.policy) 64)).sum

/-- Ledger 0x6 at PLAN_START and at the first tick of an epoch (R248). -/
def State.restartMaskLedgers (s : State) (p : Nat) : State :=
  s.slots.foldl (fun s e => match e.2 with
    | some m =>
      if m.partition = p then
        let n := s.countNnz m
        (s.setSlot e.1 (some { m with nnz := n })).setLedger (ledgerKey p 6 e.1)
          { issued := BitVec.ofNat 64 n, completed := BitVec.ofNat 64 n, inFlight := 0 }
      else s
    | none => s) s

end Sys2Proof.Machine
end

