-- ==== Sys2Proof/Machine/Update.lean ====
section
/-! DEFINITION. The update units (chapter 6): the shard record, the verdict, the four rules, FACT sums and statistics,
values, rescaling, and the loss-scale record. -/

namespace Sys2Proof.Machine

/-! ### Records -/

/-- Fields of a shard record (shard-record field map). -/
def shStep (r : Nat) : Nat := bitsOf r 0 64
def shLr (r : Nat) : Nat := bitsOf r 64 32
def shBeta1 (r : Nat) : Nat := bitsOf r 96 32
def shBeta2 (r : Nat) : Nat := bitsOf r 128 32
def shEps (r : Nat) : Nat := bitsOf r 160 32
def shDecay (r : Nat) : Nat := bitsOf r 192 32
def shPow1 (r : Nat) : Nat := bitsOf r 224 32
def shPow2 (r : Nat) : Nat := bitsOf r 256 32
def shGradMul (r : Nat) : Nat := bitsOf r 288 32
def shStats (r : Nat) : Nat := bitsOf r 320 48
def shRule (r : Nat) : Nat := bitsOf r 384 4
def shBias (r : Nat) : Bool := bitAt r 388
def shTorn (r : Nat) : Bool := bitAt r 389
def shBf16 (r : Nat) : Bool := bitAt r 390
def shStates (r : Nat) : Nat := bitsOf r 391 2

/-- Fields of a health word (health-word field map). -/
def hwMin (w : Nat) : Nat := bitsOf w 0 64
def hwMax (w : Nat) : Nat := bitsOf w 64 64
def hwScale (w : Nat) : Nat := bitsOf w 128 32
def hwNonfinite (w : Nat) : Bool := bitAt w 160
def hwMismatch (w : Nat) : Bool := bitAt w 161
def hwContributors (w : Nat) : Nat := bitsOf w 176 16

/-- Merge two health words field by field (R281). -/
def mergeHealth (a b : Nat) : Nat :=
  let scale := if (Fmt.b32.decode (hwScale b)).lt (Fmt.b32.decode (hwScale a)) then hwScale b else hwScale a
  let mism := hwMismatch a || hwMismatch b || hwScale a != hwScale b
  min (hwMin a) (hwMin b) + max (hwMax a) (hwMax b) * 2 ^ 64 + scale * 2 ^ 128
    + (if hwNonfinite a || hwNonfinite b then 2 ^ 160 else 0) + (if mism then 2 ^ 161 else 0)
    + min 65535 (hwContributors a + hwContributors b) * 2 ^ 176

/-- A verdict with the pair that a STEP_SKEW reports (verdict table); `shard` is none for a verdict-only UPDATE. -/
def verdictOf (word : Nat) (shard : Option Nat) : Verdict × (Nat × Nat) :=
  let skewShard : Option (Nat × Nat) := match shard with
    | some r => if shTorn r then some (shStep r, shStep r) else none
    | none => none
  match skewShard with
  | some p => (.skew, p)
  | none =>
    if hwMin word ≠ hwMax word then (.skew, (hwMin word, hwMax word))
    else match shard.map shStep with
      | some st =>
        if st ≠ hwMin word then (.skew, (st, hwMin word))
        else if hwNonfinite word || hwMismatch word then (.skip, (0, 0)) else (.apply, (0, 0))
      | none => if hwNonfinite word || hwMismatch word then (.skip, (0, 0)) else (.apply, (0, 0))

/-! ### Arithmetic in binary32 (R262) -/

def rMul (a b : Val) : Val := Fmt.b32.rn (Val.mul a b)
def rAdd (a b : Val) : Val := Fmt.b32.rn (Val.add false a b)
def rSub (a b : Val) : Val := rAdd a b.negate
def rFma (a b c : Val) : Val := Fmt.b32.rn (Val.add false (Val.mul a b) c)
def rDiv (a b : Val) : Val := (Fmt.b32.divide .nearest a b).1
def rSqrt (a : Val) : Val := (Fmt.b32.squareRoot .nearest a).1
def fromB32 (c : Nat) : Val := Fmt.b32.decode c
def toB32 (v : Val) : Nat := Fmt.b32.encode v
/-- Add to a W48 sum with one rounding (R265). -/
def wAdd (a b : Val) : Val := Fmt.w48.rn (Val.add false a b)

/-- What R262 computes once per descriptor. -/
structure UConst where
  rule : Nat
  b1 : Val
  b2 : Val
  p1 : Val
  p2 : Val
  c1 : Val
  c2 : Val
  a1 : Val
  a2 : Val
  k : Val
  lr : Val
  decay : Val
  eps : Val

def uConst (r word : Nat) : UConst :=
  let b1 := fromB32 (shBeta1 r)
  let b2 := fromB32 (shBeta2 r)
  let p1 := rMul (fromB32 (shPow1 r)) b1
  let p2 := rMul (fromB32 (shPow2 r)) b2
  { rule := shRule r, b1 := b1, b2 := b2, p1 := p1, p2 := p2
    c1 := if shBias r then rSub .one p1 else .one
    c2 := if shBias r then rSub .one p2 else .one
    a1 := rSub .one b1, a2 := rSub .one b2
    k := rDiv (fromB32 (shGradMul r)) (fromB32 (hwScale word))
    lr := fromB32 (shLr r), decay := fromB32 (shDecay r), eps := fromB32 (shEps r) }

/-- sign of R263: +1 or −1, 0 for a zero, NaN for a NaN. -/
def signVal : Val → Val
  | .nan => .nan
  | v => if v.isZero then .zero else if v.neg? then Val.one.negate else Val.one

/-- Statistics a FACT position uses: R[r], C[c] and M (R266). -/
structure FactStat where
  r : Val
  c : Val
  m : Val

/-- The step direction and the new states (R263, R266). -/
def ruleStep (u : UConst) (g : Val) (st : List Val) (f : FactStat) : Val × List Val :=
  let s0 := st.getD 0 .zero
  let s1 := st.getD 1 .zero
  if u.rule = 1 then
    let m := rFma u.b1 s0 (rMul u.a1 g)
    let v := rFma u.b2 s1 (rMul u.a2 (rMul g g))
    (rDiv (rDiv m u.c1) (rAdd (rSqrt (rDiv v u.c2)) u.eps), [m, v])
  else if u.rule = 2 then
    let m := rFma u.b1 s0 g
    (m, [m])
  else if u.rule = 3 then
    let c := rFma u.b1 s0 (rMul u.a1 g)
    (signVal c, [rFma u.b2 s0 (rMul u.a2 g)])
  else
    let v := if f.m.isZero then .zero else rDiv (rMul f.r f.c) f.m
    let w := rDiv g (rSqrt (rAdd (rDiv v u.c2) u.eps))
    match st with
    | [] => (w, [])
    | _ =>
      let m := rFma u.b1 s0 (rMul u.a1 w)
      (rDiv m u.c1, [m])

/-- The new master weight (R262). -/
def newMaster (u : UConst) (w d : Val) : Val := rSub w (rMul u.lr (rAdd d (rMul u.decay w)))

/-! ### Positions -/

/-- One position of a range as the unit reads it. -/
structure UPos where
  q : Nat
  /-- Shard row and tensor column. -/
  row : Nat
  col : Nat
  /-- Tile row and column. -/
  r : Nat
  k : Nat
  frozen : Bool
  grad : Val
  master : Nat
  states : List Nat

/-- Counts of an UPDATE (register map of the unit). -/
structure UCount where
  positions : Nat
  frozen : Nat
  sat : Nat
  unflagged : Nat
  nfResult : Nat

/-- Writes a position makes: state codes, master and value codes by value position; with the generators. -/
structure UAcc where
  masters : List (Nat × Nat)
  states : List (Nat × List Nat)
  values : List (Nat × Nat)
  gens : List (Nat × Dword)
  count : UCount

def UAcc.start (gens : List (Nat × Dword)) : UAcc :=
  { masters := [], states := [], values := [], gens := gens, count := ⟨0, 0, 0, 0, 0⟩ }

/-- Key of generator j of partition p in unit u (R272). -/
def updGen (u p j : Nat) : Nat := 65536 + (u * 16 + p) * 16 + j

/-- Value code of a weight under a scale: narrowed with draws when `draw` (R270, R271). -/
def narrowValue (fmt scale numctl key : Nat) (draw : Bool) (v : Val) (a : UAcc) : Nat × UAcc :=
  let (rnd, gens) := if draw then drawRound a.gens key numctl else (.nearest, a.gens)
  let c := scaledElem fmt scale rnd (draw && ncWrap numctl) v
  (c.code, { a with gens := gens, count := { a.count with sat := a.count.sat + (if c.saturated then 1 else 0) } })

/-- How a range writes its states and values. -/
structure UForm where
  unit : Nat
  part : Nat
  numctl : Nat
  bf16 : Bool
  /-- Format of the values the first pass writes, if any, and the scale of a position. -/
  valFmt : Option Nat
  scale : UPos → Nat

/-- Narrow the states in ascending array index (R272): a binary32 state needs no narrowing. -/
def narrowStates (f : UForm) (q : Nat) : List Val → UAcc → List Nat × UAcc
  | [], a => ([], a)
  | v :: vs, a =>
    let (code, a) :=
      if f.bf16 then
        let (rnd, gens) := drawRound a.gens (updGen f.unit f.part (q % 16)) f.numctl
        (Fmt.bf16.convert rnd v, { a with gens := gens })
      else (toB32 v, a)
    let (cs, a) := narrowStates f q vs a
    (code :: cs, a)

/-- One position of an apply phase (R262, R270, R273, R287). -/
def updatePos (u : UConst) (f : UForm) (stat : UPos → FactStat) (a : UAcc) (x : UPos) : UAcc :=
  if x.frozen then { a with count := { a.count with frozen := a.count.frozen + 1 } }
  else
    let g := rMul x.grad u.k
    if g.nonfinite then { a with count := { a.count with unflagged := a.count.unflagged + 1 } }
    else
      let st := x.states.map fun c => if f.bf16 then Fmt.bf16.decode c else fromB32 c
      let (d, st') := ruleStep u g st (stat x)
      let w := newMaster u (fromB32 x.master) d
      let (codes, a) := narrowStates f x.q st' a
      let a := { a with
        masters := a.masters ++ [(x.q, toB32 w)], states := a.states ++ [(x.q, codes)]
        count := { a.count with positions := a.count.positions + 1
                                nfResult := a.count.nfResult + (if w.nonfinite then 1 else 0) } }
      match f.valFmt with
      | none => a
      | some v =>
        let (code, a) := narrowValue v (f.scale x) f.numctl (updGen f.unit f.part (x.q % 16)) true w a
        { a with values := a.values ++ [(x.q, code)] }

/-! ### Memory of a range -/

/-- Address of slot window byte 0 of tile t (R225). -/
def windowAddr (k : Nat) (m : MaskSlot) (t : Nat) : Nat :=
  0x1000_0000_0000 + k * 0x0010_0000_0000 + t * slotBytes m.policy

/-- A masked tile of the range, read through the window. -/
structure UTile where
  t : Nat
  base : Nat
  bytes : TileBytes
  pos : List UPos

/-- Bytes of one gradient and its value. -/
def gradBytes (w48 : Bool) : Nat := if w48 then 8 else 4
def gradVal (w48 : Bool) (c : Nat) : Val := if w48 then decodeW48 c else fromB32 c

/-- Address of the gradients of a tile of a masked range (R268). -/
def gradAt (m : MaskSlot) (b : UpdateBody) (t : Nat) : Nat :=
  b.gradAddr + (t - b.firstTile) * p64 (gradBytes b.gradW48 * polCap m.policy)

/-- Tile t of a masked range as it stands: its bytes, and its positions with what an UPDATE reads of each (R268). -/
def State.tileU (s : State) (p k : Nat) (m : MaskSlot) (b : UpdateBody) (t : Nat) : UTile :=
  let pol := m.policy
  let base := windowAddr k m t
  let g : TileBytes := fun o => s.devByte p (base + o)
  let gs := gradBytes b.gradW48
  let j := t - b.firstTile
  { t := t, base := base, bytes := g
    pos := (tilePositions g (tileHeader g)).map fun e =>
      { q := e.2.2, row := 128 * (j / polCols pol) + e.1, col := 512 * (t % polCols pol) + e.2.1, r := e.1, k := e.2.1
        frozen := (s.devByte p (base + slotFreezeVec pol + e.2.2 / 8)).getLsbD (e.2.2 % 8)
        grad := gradVal b.gradW48 (s.devNat p (gradAt m b t + gs * e.2.2) gs)
        master := s.devNat p (base + slotMaster pol + 4 * e.2.2) 4
        states := (List.range (polStates pol)).map fun a => s.devNat p (base + slotState pol a + polW pol * e.2.2) (polW pol) } }

/-- The bytes of the tile itself, read before its checks. -/
def UTile.headBytes (x : UTile) (m : MaskSlot) : List Nat :=
  rangeFrom x.base (max 64 (min (polTileBytes m.policy) (tileExtent (tileHeader x.bytes))))

/-- What is read of a tile that passes them: freeze vector, masters, states, gradients. -/
def UTile.partBytes (x : UTile) (m : MaskSlot) (b : UpdateBody) : List Nat :=
  let pol := m.policy
  let n := min (thNnz (tileHeader x.bytes)) 65536
  rangeFrom (x.base + slotFreezeVec pol) (cdiv n 8) ++ rangeFrom (x.base + slotMaster pol) (4 * n)
    ++ ((List.range (polStates pol)).flatMap fun j => rangeFrom (x.base + slotState pol j) (polW pol * n))
    ++ rangeFrom (gradAt m b x.t) (gradBytes b.gradW48 * n)

/-- Read one tile of a masked range (R268); `Sum.inl` holds a check it fails (R649). -/
def State.readTileU (s : State) (p k : Nat) (m : MaskSlot) (i : Issue) (b : UpdateBody) (t : Nat) :
    State × Option (TileFail ⊕ UTile) :=
  let u := tuftOf i.frond
  let x := s.tileU p k m b t
  match s.readFor p clsUpdate u i.addr (x.headBytes m) with
  | (s, none) => (s, none)
  | (s, some _) => match checkTile x.bytes true true false (fun _ => true) with
    | some f => (s, some (.inl f))
    | none => match s.readFor p clsUpdate u i.addr (x.partBytes m b) with
      | (s, none) => (s, none)
      | (s, some _) => (s, some (.inr x))

/-- Dense-region offsets (dense-region table). -/
def denseState (n w i : Nat) : Nat := p64 (4 * n) + i * p64 (w * n)
def denseFreeze (r : Nat) (b : UpdateBody) : Nat := denseState b.count (if shBf16 r then 2 else 4) (shStates r)
def denseCopy (r : Nat) (b : UpdateBody) : Nat :=
  denseFreeze r b + (if b.freezePresent then p64 (cdiv b.count 8) else 0)

/-- Read a dense range (R269). -/
def State.readDense (s : State) (p shard : Nat) (i : Issue) (b : UpdateBody) : State × Option (List UPos) :=
  let u := tuftOf i.frond
  let n := b.count
  let w := if shBf16 shard then 2 else 4
  let gs := gradBytes b.gradW48
  let reads := rangeFrom b.regionAddr (4 * n)
    ++ ((List.range (shStates shard)).flatMap fun j => rangeFrom (b.regionAddr + denseState n w j) (w * n))
    ++ (if b.freezePresent then rangeFrom (b.regionAddr + denseFreeze shard b) (cdiv n 8) else [])
    ++ rangeFrom b.gradAddr (gs * n)
  match s.readFor p clsUpdate u i.addr reads with
  | (s, none) => (s, none)
  | (s, some _) =>
    (s, some ((List.range n).map fun q =>
      { q := q, row := q / b.denseCols, col := q % b.denseCols, r := 0, k := 0
        frozen := b.freezePresent && (s.devByte p (b.regionAddr + denseFreeze shard b + q / 8)).getLsbD (q % 8)
        grad := gradVal b.gradW48 (s.devNat p (b.gradAddr + gs * q) gs)
        master := s.devNat p (b.regionAddr + 4 * q) 4
        states := (List.range (shStates shard)).map fun j => s.devNat p (b.regionAddr + denseState n w j + w * q) w }))

/-- Bytes of the new values of a tile: the value section of the codes given. -/
def valueCells (x : UTile) (base : Nat) (values : List (Nat × Nat)) : List (Nat × Byte) :=
  let h := tileHeader x.bytes
  let fmt := thFmt h
  let n := if thDense h then 65536 else thNnz h
  if values = [] then []
  else
    let byIndex := values.map fun v =>
      match x.pos.find? fun e => e.q == v.1 with
      | some e => (valueIndex h e.q e.r e.k, v.2)
      | none => (n, v.2)
    let codes := (List.range n).map fun j =>
      match byIndex.find? fun v => v.1 == j with
      | some v => v.2
      | none => codeAt x.bytes fmt (thVal h) j
    cellsAt (base + thVal h) (packCodes fmt codes)

/-- Block scale of a tile position's square. -/
def tileScale (x : UTile) (r k : Nat) : Nat :=
  let h := tileHeader x.bytes
  if isShort (thFmt h) then (x.bytes (thScale h + 16 * (r / 32) + k / 32)).toNat else 0x7F

/-- Cells of new masters and states at given parts. -/
def partCells (master : Nat) (state : Nat → Nat) (w : Nat) (a : UAcc) : List (Nat × Byte) :=
  (a.masters.flatMap fun e => cellsAt (master + 4 * e.1) (leBytes 4 e.2))
    ++ a.states.flatMap fun e => e.2.zipIdx.flatMap fun c => cellsAt (state c.2 + w * e.1) (leBytes w c.1)

/-! ### The rescale pass (R271) -/

/-- Master weight of a position after the first pass. -/
def masterAfter (a : UAcc) (x : UPos) : Val :=
  fromB32 (match a.masters.find? fun e => e.1 == x.q with | some e => e.2 | none => x.master)

/-- Squares that a weight written by the first pass makes NaN blocks (R73). -/
def spoiledSquares (fmt : Nat) (a : UAcc) (x : UTile) : List Nat :=
  (List.range 64).filter fun q => x.pos.any fun e =>
    16 * (e.r / 32) + e.k / 32 == q && (a.masters.any fun w => w.1 == e.q) && spoilsBlock fmt (masterAfter a e)

/-- New scales of the squares that hold a mask position. -/
def newScales (fmt : Nat) (a : UAcc) (x : UTile) : List (Nat × Nat) :=
  (List.range 64).filterMap fun q =>
    let ps := x.pos.filter fun e => 16 * (e.r / 32) + e.k / 32 == q
    if ps = [] then none else some (q, chooseScale fmt (ps.map (masterAfter a)))

/-- Re-encode every value of a tile under its new scales; `a` is what the first pass left of this tile. -/
def rescaleTile (fmt unit part numctl : Nat) (first : UAcc) (scales : List (Nat × Nat)) (x : UTile) (a : UAcc) : UAcc :=
  x.pos.foldl (fun a e =>
    let sc := ((scales.find? fun z => z.1 == 16 * (e.r / 32) + e.k / 32).map (·.2)).getD 0x7F
    let (code, a) := narrowValue fmt sc numctl (updGen unit part (e.q % 16)) (!e.frozen) (masterAfter first e) a
    { a with values := a.values ++ [(e.q, code)] }) a

/-! ### FACT (R264 to R266) -/

/-- Rows and columns of a shard (R264). -/
def factDims (b : UpdateBody) (cols : Nat) : Nat × Nat :=
  if b.dense then (b.count / b.denseCols, b.denseCols) else (128 * b.tileCount / cols, 512 * cols)

/-- Offsets of the sums area: row counts, column sums, column counts (sums table). -/
def sumRowCount (nr : Nat) : Nat := p64 (8 * nr)
def sumCol (nr : Nat) : Nat := p64 (8 * nr) + p64 (4 * nr)
def sumColCount (nr nc : Nat) : Nat := sumCol nr + p64 (8 * nc)
def sumSize (nr nc : Nat) : Nat := sumColCount nr nc + 4 * nc

/-- Sum of the squares g × g of the positions that `f` picks, in W48, and how many (R265). -/
def factSum (u : UConst) (pos : List UPos) (f : UPos → Bool) : Val × Nat :=
  (pos.filter f).foldl (fun a x =>
    let g := rMul x.grad u.k
    if x.frozen || g.nonfinite then a else (wAdd a.1 (rMul g g), a.2 + 1)) (Val.zero, 0)

/-- The bytes of the sums area: its four parts (R265). -/
def sumCells (u : UConst) (at_ nr nc : Nat) (pos : List UPos) : List (Nat × Byte) :=
  let rows := (List.range nr).map fun r => factSum u pos fun x => x.row == r
  let cols := (List.range nc).map fun c => factSum u pos fun x => x.col == c
  let enc := fun (l : List (Val × Nat)) => l.flatMap fun e => leBytes 8 (Fmt.w48.encode e.1)
  let cnt := fun (l : List (Val × Nat)) => l.flatMap fun e => leBytes 4 e.2
  cellsAt at_ (enc rows) ++ cellsAt (at_ + sumRowCount nr) (cnt rows) ++ cellsAt (at_ + sumCol nr) (enc cols)
    ++ cellsAt (at_ + sumColCount nr nc) (cnt cols)

/-- The statistics area: M at 0, R at 64, C after R (R264). -/
def statCol (nr : Nat) : Nat := 64 + p64 (4 * nr)

/-- Statistics after the sums (R266): M, R and C as codes. -/
structure FactStats where
  m : Nat
  r : List Nat
  c : List Nat

def newStats (u : UConst) (nr nc : Nat) (sum stat : Nat → Nat → Nat) : FactStats :=
  let upd := fun (old so co : Nat) =>
    let n := sum co 4
    if n = 0 then old
    else toB32 (rFma u.b2 (fromB32 old) (rMul u.a2 (rDiv (decodeW48 (sum so 8)) (.fin false n 0))))
  let t := (List.range nc).foldl (fun a c => wAdd a (decodeW48 (sum (sumCol nr + 8 * c) 8))) Val.zero
  let n := ((List.range nc).map fun c => sum (sumColCount nr nc + 4 * c) 4).sum
  { m := if n = 0 then stat 0 4
         else toB32 (rFma u.b2 (fromB32 (stat 0 4)) (rMul u.a2 (rDiv t (.fin false n 0))))
    r := (List.range nr).map fun r => upd (stat (64 + 4 * r) 4) (8 * r) (sumRowCount nr + 4 * r)
    c := (List.range nc).map fun c => upd (stat (statCol nr + 4 * c) 4) (sumCol nr + 8 * c) (sumColCount nr nc + 4 * c) }

def FactStats.cells (x : FactStats) (at_ nr : Nat) : List (Nat × Byte) :=
  cellsAt at_ (leBytes 4 x.m) ++ cellsAt (at_ + 64) (x.r.flatMap (leBytes 4)) ++ cellsAt (at_ + statCol nr) (x.c.flatMap (leBytes 4))

def FactStats.of (x : FactStats) (p : UPos) : FactStat :=
  ⟨fromB32 (x.r.getD p.row 0), fromB32 (x.c.getD p.col 0), fromB32 x.m⟩

/-! ### Protection (R553, R555) -/

/-- PART_STEPS. -/
def State.stepsDone (s : State) (p : Nat) : Nat := (s.reg clsPart p 0x1128).toNat

/-- Whether an UPDATE of a policy writes the alternate region: a snapshot step is under way and the tensor is a
snapshot entry (R553). -/
def State.doubleBuffers (s : State) (p policy : Nat) : Bool :=
  match (s.part p).protect.drain with
  | some d => d.2 == s.stepsDone p && (match s.protTable p with
    | some t => t.entries.any fun e => e.kind == 2 && e.snapshot && e.policy == policy
    | none => false)
  | none => false

/-- Mark the protection entries that an applied UPDATE changes (R555): the tensor's, and those that hold a device
address given. -/
def State.markDirty (s : State) (p : Nat) (policy : Option Nat) (as : List Nat) : State :=
  match s.protTable p with
  | none => s
  | some t =>
    let hit := (t.entries.zipIdx.filter fun e =>
      if e.1.kind = 2 then policy == some e.1.policy
      else as.any fun a => match s.resolve (some p) a with
        | some x => (offsetIn x [(e.1.base, e.1.length)]).isSome
        | none => false).map (·.2)
    s.modPart p fun x => { x with protect := { x.protect with
      dirty := hit.foldl (fun l e => insertNat e l) x.protect.dirty
      dirtySince := hit.foldl (fun l e => insertNat e l) x.protect.dirtySince } }

/-! ### The descriptor -/

/-- Add the counts of an UPDATE to the unit's registers. -/
def State.countUpdate (s : State) (u : Nat) (c : UCount) : State :=
  ((((s.count64 clsUpdate u 0x1118 c.positions).count64 clsUpdate u 0x1120 c.frozen).count32 clsUpdate u 0x1128 c.sat).count32
    clsUpdate u 0x112C c.unflagged).count32 clsUpdate u 0x1130 c.nfResult

/-- Write cells of a masked tile through the window, or with R553 into the alternate region together with every byte
of the slot that does not change. -/
def State.writeTile (s : State) (p k u : Nat) (m : MaskSlot) (desc : Nat) (alt : Bool) (x : UTile)
    (cells : List (Nat × Byte)) : State × Bool :=
  if alt then
    let dst := m.alternateBase + x.t * slotBytes m.policy
    let old := cellsAt dst ((rangeFrom x.base (slotBytes m.policy)).map (s.devByte p))
    let (s, ok) := s.writeRegion p clsUpdate u desc old
    if ok then
      let s := match s.slot k with
        | some y => s.setSlot k (some { y with swapDue := true })
        | none => s
      s.writeRegion p clsUpdate u desc (cells.map fun c => (c.1 - x.base + dst, c.2))
    else (s, false)
  else s.writeFor p clsUpdate u desc cells

/-- What runs on after one tile: how it goes on, and the positions seen. -/
inductive UStop where
  | ok
  | failed
  deriving DecidableEq, Repr

/-- How an UPDATE writes the states and values of a tile. -/
def UTile.form (x : UTile) (m : MaskSlot) (i : Issue) (p : Nat) (b : UpdateBody) : UForm :=
  { unit := tuftOf i.frond, part := p, numctl := b.numctl, bf16 := polStateBf16 m.policy
    valFmt := if b.rescale then none else some (thFmt (tileHeader x.bytes)), scale := fun e => tileScale x e.r e.k }

/-- The writes of the first pass to a tile: masters, states, values, and the scales of blocks that a NaN spoils (R73). -/
def UTile.cells (x : UTile) (m : MaskSlot) (b : UpdateBody) (a : UAcc) : List (Nat × Byte) :=
  let h := tileHeader x.bytes
  partCells (x.base + slotMaster m.policy) (fun j => x.base + slotState m.policy j) (polW m.policy) a
    ++ valueCells x x.base a.values
    ++ (if b.rescale then [] else (spoiledSquares (thFmt h) a x).map fun q => (x.base + thScale h + q, 0xFF))

/-- The first pass over the tiles of a masked range, in order (R262, R270, R649): state, generators and free counter
inside it, the tiles with what the pass left of each, and whether it went through. -/
def State.updateTiles (s : State) (p k : Nat) (m : MaskSlot) (i : Issue) (b : UpdateBody) (uc : UConst)
    (stat : UPos → FactStat) (alt : Bool) : List Nat → State × List (UTile × UAcc) × UStop
  | [] => (s, [], .ok)
  | t :: ts =>
    let u := tuftOf i.frond
    match s.readTileU p k m i b t with
    | (s, none) => (s, [], .failed)
    | (s, some (.inl f)) => (s.raiseIndex p clsUpdate u i.addr f, [], .failed)
    | (s, some (.inr x)) =>
      let a := x.pos.foldl (updatePos uc (x.form m i p b) stat) (UAcc.start s.gens)
      match ({ s with gens := a.gens }).writeTile p k u m i.addr alt x (x.cells m b a) with
      | (s, false) => (s, [], .failed)
      | (s, true) =>
        let (s, r, e) := State.updateTiles (s.countUpdate u a.count) p k m i b uc stat alt ts
        (s, (x, a) :: r, e)

/-- The second pass of a rescale (R271). -/
def State.rescaleTiles (s : State) (p k : Nat) (m : MaskSlot) (i : Issue) (b : UpdateBody) (alt : Bool) :
    List (UTile × UAcc) → State × UStop
  | [] => (s, .ok)
  | (x, first) :: ts =>
    let u := tuftOf i.frond
    let h := tileHeader x.bytes
    let fmt := thFmt h
    let scales := newScales fmt first x
    let a := rescaleTile fmt u p b.numctl first scales x (UAcc.start s.gens)
    let s := { s with gens := a.gens }
    let cells := (scales.map fun z => (x.base + thScale h + z.1, BitVec.ofNat 8 z.2)) ++ valueCells x x.base a.values
    let w := if alt then
        let dst := m.alternateBase + x.t * slotBytes m.policy
        s.writeRegion p clsUpdate u i.addr (cells.map fun c => (c.1 - x.base + dst, c.2))
      else s.writeFor p clsUpdate u i.addr cells
    match w with
    | (s, false) => (s, .failed)
    | (s, true) => State.rescaleTiles (s.countUpdate u a.count) p k m i b alt ts

/-- Read tiles for FACT sums; none when one fails a check or cannot be read. -/
def State.sumTiles (s : State) (p k : Nat) (m : MaskSlot) (i : Issue) (b : UpdateBody) :
    List Nat → State × Option (List UPos)
  | [] => (s, some [])
  | t :: ts => match s.readTileU p k m i b t with
    | (s, none) => (s, none)
    | (s, some (.inl f)) => (s.raiseIndex p clsUpdate (tuftOf i.frond) i.addr f, none)
    | (s, some (.inr x)) => match State.sumTiles s p k m i b ts with
      | (s, none) => (s, none)
      | (s, some r) => (s, some (x.pos ++ r))

/-- Check every tile of a range before phase 2 writes statistics that its tiles share (R266, R649): none when one fails, or cannot
be read. -/
def State.checkTiles (s : State) (p k : Nat) (m : MaskSlot) (i : Issue) (b : UpdateBody) : List Nat → State × Bool
  | [] => (s, true)
  | t :: ts => match s.readTileU p k m i b t with
    | (s, none) => (s, false)
    | (s, some (.inl f)) => (s.raiseIndex p clsUpdate (tuftOf i.frond) i.addr f, false)
    | (s, some (.inr _)) => State.checkTiles s p k m i b ts

/-- Write the shard record's torn bit (R261). -/
def State.setTorn (s : State) (p : Nat) (i : Issue) (b : UpdateBody) (shard : Nat) (v : Bool) : State × Bool :=
  let byte := bitsOf shard 384 8 % 32 + (if v then 32 else 0) + bitsOf shard 390 2 * 64
  s.writeFor p clsUpdate (tuftOf i.frond) i.addr [(b.shardAddr + 48, BitVec.ofNat 8 byte)]

/-- What completion will write of the shard record: step, pow1 and pow2 (R261). -/
def afterApply (uc : UConst) (b : UpdateBody) (shard : Nat) : JobBody :=
  .update b .apply ((shStep shard + 1) % 2 ^ 64) (BitVec.ofNat 32 (toB32 uc.p1)) (BitVec.ofNat 32 (toB32 uc.p2))

/-- Work cycles of the update-cost table, start cycles apart, for N positions. -/
def updateCost (b : UpdateBody) (n nr nc : Nat) : Nat :=
  cdiv n 16 + (if b.phase = 1 then cdiv (nr + nc) 16 else if b.phase = 2 then cdiv (nr + 2 * nc) 16 else 0)
    + (if b.rescale then cdiv n 16 else 0)

/-- The FACT statistics that phase 2 writes first (R266); any other phase has none. -/
def State.factStep (s : State) (p : Nat) (i : Issue) (b : UpdateBody) (uc : UConst) (shard nr nc : Nat) :
    State × Option (UPos → FactStat) :=
  let none_ : UPos → FactStat := fun _ => ⟨.zero, .zero, .zero⟩
  if b.phase ≠ 2 then (s, some none_)
  else
    let u := tuftOf i.frond
    match s.readFor p clsUpdate u i.addr (rangeFrom b.sumAddr (sumSize nr nc) ++ rangeFrom (shStats shard) (statCol nr + 4 * nc)) with
    | (s, none) => (s, none)
    | (s, some _) =>
      let st := newStats uc nr nc (fun o n => s.devNat p (b.sumAddr + o) n) (fun o n => s.devNat p (shStats shard + o) n)
      match s.writeFor p clsUpdate u i.addr (st.cells (shStats shard) nr) with
      | (s, false) => (s, none)
      | (s, true) => (s, some st.of)

/-- Phase 1: the sums area (R265). -/
def State.runSums (s : State) (p : Nat) (i : Issue) (b : UpdateBody) (uc : UConst) (shard : Nat) : State × Option JobBody :=
  let u := tuftOf i.frond
  let finish := fun (s : State) (pos : List UPos) (cols : Nat) =>
    let (nr, nc) := factDims b cols
    let s := s.count64 clsUpdate u 0x1110 (updateCost b pos.length nr nc)
    match s.writeFor p clsUpdate u i.addr (sumCells uc b.sumAddr nr nc pos) with
    | (s, false) => (s, none)
    | (s, true) => (s, some (JobBody.update b .apply 0 0 0))
  if b.dense then
    match s.readDense p shard i b with
    | (s, none) => (s, none)
    | (s, some pos) => finish s pos 1
  else match s.slotOf p b.policy with
    | none => (s, none)
    | some (k, m) => match s.sumTiles p k m i b (rangeFrom b.firstTile b.tileCount) with
      | (s, none) => (s, none)
      | (s, some pos) => finish s pos (polCols m.policy)

/-- Phases 0 and 2 in dense mode (R269, R270). -/
def State.runDenseApply (s : State) (p : Nat) (i : Issue) (b : UpdateBody) (uc : UConst) (shard : Nat) :
    State × Option JobBody :=
  let u := tuftOf i.frond
  let (nr, nc) := factDims b 1
  match s.factStep p i b uc shard nr nc with
  | (s, none) => (s, none)
  | (s, some stat) => match s.readDense p shard i b with
    | (s, none) => (s, none)
    | (s, some pos) =>
      let w := if shBf16 shard then 2 else 4
      let form : UForm := { unit := u, part := p, numctl := b.numctl, bf16 := shBf16 shard
                            valFmt := if b.copyFmt = 1 then some 6 else if b.copyFmt = 2 then some 7 else none
                            scale := fun _ => 0x7F }
      let a := pos.foldl (updatePos uc form stat) (UAcc.start s.gens)
      let cells := partCells b.regionAddr (fun j => b.regionAddr + denseState b.count w j) w a
        ++ a.values.flatMap fun v => cellsAt (b.regionAddr + denseCopy shard b + 2 * v.1) (leBytes 2 v.2)
      match ({ s with gens := a.gens }).writeFor p clsUpdate u i.addr cells with
      | (s, false) => (s, none)
      | (s, true) =>
        let s := (s.countUpdate u a.count).count64 clsUpdate u 0x1110 (updateCost b pos.length nr nc)
        (s.markDirty p none (b.shardAddr :: cells.map (·.1)), some (afterApply uc b shard))

/-- Phases 0 and 2 in masked mode (R268, R270, R271). -/
def State.runMaskedApply (s : State) (p : Nat) (i : Issue) (b : UpdateBody) (uc : UConst) (shard : Nat) :
    State × Option JobBody :=
  let u := tuftOf i.frond
  match s.slotOf p b.policy with
  | none => (s, none)
  | some (k, m) =>
    let (nr, nc) := factDims b (polCols m.policy)
    let pre := if b.phase = 2 then s.checkTiles p k m i b (rangeFrom b.firstTile b.tileCount) else (s, true)
    match if pre.2 then pre.1.factStep p i b uc shard nr nc else (pre.1, none) with
    | (s, none) => (s, none)
    | (s, some stat) =>
      let alt := s.doubleBuffers p b.policy
      match s.updateTiles p k m i b uc stat alt (rangeFrom b.firstTile b.tileCount) with
      | (s, _, .failed) => (s, none)
      | (s, tiles, .ok) =>
        let n := (tiles.map fun x => x.1.pos.length).sum
        let s := (s.count64 clsUpdate u 0x1110 (updateCost b n nr nc)).markDirty p (some b.policy) [b.shardAddr, shStats shard]
        if b.rescale then
          match s.rescaleTiles p k m i b alt tiles with
          | (s, .failed) => (s, none)
          | (s, .ok) => (s, some (afterApply uc b shard))
        else (s, some (afterApply uc b shard))

/-- A verdict that writes nothing (R284): UPD_SKIPPED; STEP_SKEW for a skew (R285). -/
def State.withheld (s : State) (p : Nat) (i : Issue) (b : UpdateBody) (v : Verdict) (pair : Nat × Nat) : State × Option JobBody :=
  let u := tuftOf i.frond
  let s := s.countFlag clsUpdate u 0x110C 1 13
  let s := if v = .skew then
      s.descFault p cSkew 0 (pair.1 % 2 ^ 32 * 2 ^ 32 + pair.2 % 2 ^ 32) clsUpdate u i.addr
    else s
  (s, some (.update b v 0 0 0))

/-- An UPDATE of any phase (R262 to R277, R284, R285). -/
def runUpdate (i : Issue) (b : UpdateBody) : Run := fun p _ _ s =>
  let u := tuftOf i.frond
  let s := s.count64 clsUpdate u 0x1110 (startPaid 32 i)
  match s.readFor p clsUpdate u i.addr (rangeFrom b.healthAddr 32) with
  | (s, none) => (s, none)
  | (s, some hb) =>
    let word := leNat hb
    if b.dense && b.count == 0 then
      match verdictOf word none with
      | (.apply, _) => (s, some (.update b .apply 0 0 0))
      | (v, pair) => s.withheld p i b v pair
    else match s.readFor p clsUpdate u i.addr (rangeFrom b.shardAddr 64) with
      | (s, none) => (s, none)
      | (s, some sb) =>
        let shard := leNat sb
        match verdictOf word (some shard) with
        | (.apply, _) =>
          let uc := uConst shard word
          if b.phase = 1 then s.runSums p i b uc shard
          else match s.setTorn p i b shard true with
            | (s, false) => (s, none)
            | (s, true) => if b.dense then s.runDenseApply p i b uc shard else s.runMaskedApply p i b uc shard
        | (v, pair) => s.withheld p i b v pair

/-- UPDATE, phase 0. -/
def execUpdate (i : Issue) (b : UpdateBody) (s : State) : Out := issueRow s i (isUpdate b) (b.wf && i.seq == .execute && b.phase == 0) noWait (runUpdate i b)

/-- UPDATE phase 1: FACT sums (R265). -/
def execFactSums (i : Issue) (b : UpdateBody) (s : State) : Out := issueRow s i (isUpdate b) (b.wf && i.seq == .execute && b.phase == 1) noWait (runUpdate i b)

/-- UPDATE phase 2: FACT apply (R266). -/
def execFactApply (i : Issue) (b : UpdateBody) (s : State) : Out := issueRow s i (isUpdate b) (b.wf && i.seq == .execute && b.phase == 2) noWait (runUpdate i b)

/-! ### Completion -/

/-- Fields of a loss-scale record (loss-scale field map). -/
def lsScale (r : Nat) : Nat := bitsOf r 0 32
def lsRun (r : Nat) : Nat := bitsOf r 32 32
def lsInterval (r : Nat) : Nat := bitsOf r 64 32
def lsMin (r : Nat) : Nat := bitsOf r 96 32
def lsMax (r : Nat) : Nat := bitsOf r 128 32
def lsSkips (r : Nat) : Nat := bitsOf r 160 32

/-- The smaller and the larger of two binary32 values, by code. -/
def minB32 (a b : Nat) : Nat := if (fromB32 b).lt (fromB32 a) then b else a
def maxB32 (a b : Nat) : Nat := if (fromB32 a).lt (fromB32 b) then b else a

/-- The loss-scale record after a verdict (R289). -/
def lossAfter (r word : Nat) (v : Verdict) : Nat :=
  match v with
  | .apply =>
    let run := lsRun r + 1
    let r := if run = lsInterval r then
        setBits (setBits r 0 32 (minB32 (toB32 (rMul (fromB32 (lsScale r)) (.fin false 2 0))) (lsMax r))) 32 32 0
      else setBits r 32 32 run
    setBits r 192 8 0
  | .skip =>
    let half := toB32 (rMul (fromB32 (hwScale word)) (.fin false 1 (-1)))
    setBits (setBits (setBits (setBits r 0 32 (maxB32 half (lsMin r))) 32 32 0) 160 32 (lsSkips r + 1)) 192 8 1
  | .skew => setBits r 192 8 2

/-- The close of a step by its close_step UPDATE (R286, R289). -/
def State.closeStep (s : State) (p u desc : Nat) (b : UpdateBody) (v : Verdict) : State :=
  match (s.part p).plan with
  | none => s
  | some pl =>
    match s.readFor p clsUpdate u desc (rangeFrom pl.lossScaleAddr 32 ++ rangeFrom b.healthAddr 32) with
    | (s, none) => s
    | (s, some bs) =>
      let word := leNat (bs.drop 32)
      let r := lossAfter (leNat (bs.take 32)) word v
      match s.writeFor p clsUpdate u desc (cellsAt pl.lossScaleAddr (leBytes 32 r)) with
      | (s, false) => s
      | (s, true) =>
        if v = .skip then
          s.postRecord { Report.of cSkip 0 (hwMin word % 2 ^ 32 * 2 ^ 32 + lsScale r) clsUpdate u with partition := some p }
            (s.hasFaulted p)
        else if v = .apply then s.markDirty p none [pl.lossScaleAddr] else s

/-- The step fields written at the completion of an apply (R261): step, pow1, pow2 and torn. -/
def stepCells (b : UpdateBody) (step : Nat) (pow1 pow2 : Word) (byte48 : Byte) : List (Nat × Byte) :=
  cellsAt b.shardAddr (leBytes 8 step) ++ cellsAt (b.shardAddr + 28) (leBytes 4 pow1.toNat ++ leBytes 4 pow2.toNat)
    ++ [(b.shardAddr + 48, byte48 &&& 0xDF)]

/-- Whether an UPDATE's completion writes the step fields. -/
def writesStep (b : UpdateBody) (v : Verdict) : Bool := v == .apply && b.phase != 1 && !(b.dense && b.count == 0)

/-- UPDATE completes (R261, R289). The unit completes UPDATEs in the order in which they reached it. -/
def execUpdateComplete (f id : Nat) (s : State) : Out :=
  completeRow s f id fun j s => match j.body with
    | .update b v step pow1 pow2 =>
      match s.ownerOf f with
      | none => some s
      | some p =>
        let u := tuftOf f
        let s := if writesStep b v then
            (s.writeFor p clsUpdate u j.addr (stepCells b step pow1 pow2 (s.devByte p (b.shardAddr + 48)))).1
          else s
        some (if b.closeStep then s.closeStep p u j.addr b v else s)
    | _ => none

end Sys2Proof.Machine
end

