-- ==== Sys2Proof/Machine/Stop.lean ====
section
/-! DEFINITION. How a partition stops, tears down, recovers and is released (R522 to R545), the epoch edge and the write
fence, resume records, destruction of a partition, half resets and known-answer sweeps. -/

namespace Sys2Proof.Machine

/-! ### Abandoning work -/

/-- A sequencer that has abandoned its wait and its signal queue (R331); its position stands for the dump. -/
def Sequencer.abandon (q : Sequencer) : Sequencer := { q with wait := none, sigq := [] }

/-- A frond whose partition stops: its engines and sequencers abandon their descriptors, and its stores keep their
contents (R172, R221, R277, R331, R364). -/
def Frond.abandon (x : Frond) : Frond :=
  { x with stopped := true, fetch := x.fetch.abandon, execute := x.execute.abandon, queue := [], jobs := [], loop := none
           passes := [], vec := { x.vec with running := false } }

/-- The fronds of a set, ascending. -/
def frondsOf (v : BitVec 128) : List Nat := (List.range 128).filter fun f => v.getLsbD f

/-- Mean current of a frond over the estimates since the last tick edge; with none yet, its present current (log entry 27). -/
def Power.meanOf (x : Power) (f : Nat) : Nat :=
  let n := sget (fun _ => 0) x.estNum f
  if n = 0 then sget (fun _ => 0) x.current f else sget (fun _ => 0) x.estSum f / n

/-- One frond of a stopping partition: it abandons its work, holds its mean current in ballast (R597), and its wait reports are
withdrawn. -/
def State.abandonFrond (s : State) (f : Nat) : State :=
  let s := s.modFrond f Frond.abandon
  { s with waits := s.waits.filter (·.frond != f)
           power := { s.power with hold := sput (fun _ => 0) s.power.hold f (s.power.meanOf f) } }

/-- Every unit abandons the work of partition p; builds are discarded (R26, R233). -/
def State.abandon (s : State) (p : Nat) : State :=
  ((frondsOf (s.part p).fronds).foldl State.abandonFrond s).discardBuilds p

/-! ### Epochs -/

/-- The next epoch of a partition number (R535). -/
def nextEpoch (e : BitVec 16) : BitVec 16 := if e = 0xFFFF then 1 else e + 1

/-- Stop a running host-feed copy (R457). -/
def State.stopFeed (s : State) (p : Nat) : State :=
  if (s.part p).feed.isSome then (s.modPart p fun x => { x with feed := none }).setBit clsPart p 0x1198 2 else s

/-- The ledgers of partition p restart (R60, R248). -/
def State.restartLedgers (s : State) (p : Nat) : State := (s.ledRestart p).restartMaskLedgers p

/-- The partition's epoch increments: the ledgers restart at the first tick of the new epoch, which is this tick when the epoch
begins at an edge (R60, R248); items written before count in no ledger, the fault log of the new epoch is empty (R520), and
the feed stops (R457). -/
def State.bumpEpoch (s : State) (p : Nat) (atEdge : Bool) : State :=
  let s := (if atEdge then s.restartLedgers p else s.modPart p fun x => { x with ledgersDue := true }).stopFeed p
  let s := { s with spore := { s.spore with items := s.spore.items.map fun (i : SporeItem) => if i.partition = p then { i with partition := 0x100 } else i } }
  let s := { s with
    clears := s.clears.filter fun c => c.1 != p
    sporeOut := s.sporeOut.map fun (o : OutPacket) => if o.partition = p then { o with partition := 0x100 } else o }
  s.modPart p fun x =>
    { x with epoch := nextEpoch x.epoch, epochDue := false, epochHeld := false, faultLog := [], late := []
             epochRecent := some (if atEdge && decide (4000 ≤ s.tick.period.toNat) then 1 else 0) }

/-! ### Frond resets -/

/-- Zero the stores of a frond (R140, R409, R531): frond buffer, accumulators; its engines, tile store, activation bank
and vector registers start afresh. Instruction memory and shape table stay. -/
def State.clearFrond (s : State) (f : Nat) : State :=
  let lo := f * frondBytes
  let s := (s.cleanWords f .buffer 0 (storeWords .buffer)).cleanWords f .accumulator 0 (storeWords .accumulator)
  let s := { s with
    fbuf := sclear (fun k => decide (lo ≤ k ∧ k < lo + frondBytes)) s.fbuf
    fbufBad := sclear (fun k => k / (frondBytes / 64) == f) s.fbufBad
    acc := sclear (fun k => k / 32768 == f) s.acc }
  s.modFrond f fun x =>
    { Frond.reset with retired := x.retired, regulator := x.regulator, claimNo := x.claimNo, sweeping := x.sweeping
                       residueTicks := x.residueTicks, source5 := x.source5, nextId := x.nextId }

/-- The shadows of a partition's pending RWT writes are discarded (R409, R531). -/
def State.dropShadows (s : State) (p : Nat) : State :=
  { s with shadow := s.shadow.filter fun e =>
      !(e.1 / 0x100000 / 256 == clsPart && e.1 / 0x100000 % 256 == p) }

/-- A stream with its ends as at a fresh start (R309). -/
def Stream.fresh (x : Stream) : Stream :=
  { x with filled := 0, freed := BitVec.ofNat 16 x.depth, prodPos := 0, consPos := 0, claimed := 0 }

/-- What stands in a semaphore is discarded and counts as completed (as R315 states for a plain semaphore). -/
def Ledger.discard (l : Ledger) : Ledger := { l with completed := l.completed + l.inFlight, inFlight := 0 }

/-- Set every stream of partition p under R309; the depth credits count as issued in ledger 0x1 (log entry 28). -/
def State.freshStreams (s : State) (p : Nat) : State :=
  s.streams.foldl (fun s e => match e.2 with
    | some x =>
      if x.partition = p ∧ x.kind = 0 then
        (((s.setStream e.1 (some x.fresh)).modLedger p 1 e.1 fun l => l.discard.make x.depth).modLedger p 2 e.1
          Ledger.discard).modLedger p 3 e.1 Ledger.discard
      else s
    | none => s) s

/-- Plain semaphores of a frond go to 0; a count found counts as completed in ledger 0x2 (R315). -/
def State.resetPlain (s : State) (p f : Nat) : State :=
  let s := (s.frond f).plainSems.foldl (fun s e =>
    s.ledTake p 2 (semObject (.plain f e.1)) e.2.toNat) s
  s.modFrond f fun x => { x with plainSems := [] }

/-- A ticket record as at a frame start (R326). -/
def State.resetTicket (s : State) (p a : Nat) : State :=
  let limit := s.peekNat (some p) (a + 4) 4
  let put := fun (s : State) (a : Nat) (bs : List Byte) =>
    (s.writePhys none ((cellsAt a bs).filterMap fun c => (s.resolve (some p) c.1).map fun y => (y, c.2))).state
  put (put (put s a (leBytes 4 0)) (a + 64) ((List.range 128).flatMap fun _ => leBytes 8 0xFFFFFFFF)) (a + 1088)
    (List.replicate (p64 (cdiv limit 8)) 0)

/-- The partition reset of recovery (R531): sequencers, stream ends, semaphores, regulator buckets, ticket records and
pending RWT writes; its fronds enter their own reset, which RECOVERY_READY completes. -/
def State.partitionReset (s : State) (p : Nat) : State :=
  let s := s.streams.foldl (fun s e => match e.2 with
    | some x => if x.partition = p ∧ x.kind = 0 then s.setStream e.1 (some x.fresh) else s
    | none => s) s
  let s := s.dropShadows p
  let s := match (s.part p).plan with
    | some pl => pl.tickets.foldl (fun s a => s.resetTicket p a.1) s
    | none => s
  (frondsOf (s.part p).fronds).foldl (fun s f => s.modFrond f fun x =>
    { x with inReset := true, fetch := .idle, execute := .idle, plainSems := [], arrayPos := []
             regulator := { x.regulator with tokens := x.regulator.burst * 256 } }) s

/-! ### Loaded plans -/

/-- Set a measurement register; its count increases at every change (R574). -/
def State.setMeas (s : State) (i : Nat) (v : BitVec 384) : State :=
  { s with indus := { s.indus with meas := s.indus.meas.zipIdx.map fun e =>
      if e.2 = i ∧ e.1.1 ≠ v then (v, e.1.2 + 1) else e.1 } }

/-- Key of a slot-wheel entry: group, port (0 read, 1 write) and slot. -/
def wheelKey (g port slot : Nat) : Nat := (g * 2 + port) * 256 + slot

/-- The owners that stand in the slot-wheel entries a plan was given become unassigned (R408, R409). -/
def State.freeWheels (s : State) (pl : Plan) : State :=
  { s with wheels := s.wheels.filter fun e => leNat ((pl.wheels.drop (2 * e.1)).take 2) = 0 }

/-- Drop the plan of partition p: its stream IDs, mask slots and wheel entries are free. -/
def State.unloadPlan (s : State) (p : Nat) : State :=
  match (s.part p).plan with
  | none => s
  | some pl =>
    let s := s.freeWheels pl
    let s := (frondsOf (s.part p).fronds).foldl (fun s f => s.modFrond f fun x => { x with arrayPos := [] }) s
    let s := { s with
      streams := s.streams.filter fun e => match e.2 with | some x => x.partition != p | none => true
      slots := s.slots.filter fun e => match e.2 with | some m => m.partition != p | none => true
      clears := s.clears.filter fun c => c.1 != p }
    (s.modPart p fun x => { x with plan := none, planVerified := false, peers := [], demand := 0, peakMw := 0 }).setMeas (4 + p) 0

/-! ### The firmware's own accesses -/

/-- A read by the firmware: the bytes, and the first unit it cannot read. -/
def State.fwRead (s : State) (a n : Nat) : ReadResult := s.readPhys none ((rangeFrom a n).filterMap (s.resolve none))

/-- A write by the firmware: the state and the first unit refused. -/
def State.fwWrite (s : State) (a : Nat) (bs : List Byte) : WriteResult :=
  s.writePhys none ((cellsAt a bs).filterMap fun c => (s.resolve none c.1).map fun y => (y, c.2))

/-- An UNCORRECTABLE item that names a partition and stops nothing (R647), raised by the store. -/
def State.commandUnc (s : State) (p : Option Nat) (bad : Nat × Nat) : State :=
  let (c, i) := storeOf (bad.1 * 64)
  s.raiseReport { Report.of cUncorrectable 0 (uncDetail (bad.1 * 64) bad.2) c i with partition := p }

/-- A command's own access has failed (R647): the item is posted and the command answers FAULTED. -/
def State.cmdFaulted (s : State) (p : Option Nat) (m : Nat) (bad : Nat × Nat) : State :=
  (s.commandUnc p bad).answerFaulted m cUncorrectable s.tickNow

/-! ### Stopping by command -/

/-- The resume record (resume-record table). -/
def State.resumeRecord (s : State) (p : Nat) (pl : Plan) (kind : Nat) : List Byte :=
  leBytes 48 pl.programHash.toNat ++ leBytes 8 kind ++ leBytes 8 (s.stepsDone p) ++ leBytes 64 (s.part p).epoch.toNat
    ++ (pl.slots.map fun k => match s.slot k with
        | some m => leBytes 8 (m.generation.toNat + m.region % 2 * 2 ^ 32)
        | none => leBytes 8 0).flatten

/-- Write the resume record (R403); one that cannot be written is not valid, and is reported (R647). -/
def State.writeResume (s : State) (p kind : Nat) : State :=
  match (s.part p).plan with
  | none => s
  | some pl =>
    let w := s.fwWrite pl.resumeAddr (s.resumeRecord p pl kind)
    match w.refused with
    | none => w.state.modPart p fun x => { x with resumeValid := true }
    | some b => (w.state.commandUnc (some p) b).modPart p fun x => { x with resumeValid := false }

/-- Results of PLAN_STOP and PREEMPT (Linso command table). -/
def State.stopResult (s : State) (p : Nat) : List Byte :=
  leBytes 8 (s.stepsDone p) ++ [if (s.part p).quiesced then 1 else 0]
def State.preemptResult (s : State) (p : Nat) : List Byte :=
  leBytes 8 (s.part p).stopTick ++ leBytes 8 (s.stepsDone p) ++ leBytes 2 (s.part p).epoch.toNat

/-- Answer a stop whose resume record was, or was not, written (R400, R402, R647). -/
def State.answerStop (s : State) (p m : Nat) (result : List Byte) : State :=
  if (s.part p).resumeValid then s.ok m result else s.answerFaulted m cUncorrectable s.tickNow

/-- A preempted partition is set aside once its write fence is complete (preemption table): PREEMPT, and a PLAN_STOP it
replaced, are answered (R402, R472). -/
def State.preemptDone (s : State) (p : Nat) : State :=
  let s := (s.modPart p fun x => { x with state := .preempted, stopKind := 2, halt := none }).writeResume p 2
  let x := s.part p
  let s := match x.stop with
    | some (.preempt, m) => s.answerStop p m (s.preemptResult p)
    | _ => s
  let s := match x.replacedStop with
    | some m => s.answerStop p m (s.stopResult p)
    | none => s
  s.modPart p fun x => { x with stop := (match x.stop with | some (.destroy, m) => some (.destroy, m) | _ => none), replacedStop := none }

/-! ### Destruction -/

/-- The actions of PARTITION_DESTROY (R409). -/
def State.teardown (s : State) (p : Nat) : State :=
  let s := (s.abandon p).bumpEpoch p false
  let s := (frondsOf (s.part p).fronds).foldl (fun s f =>
    (s.clearFrond f).modFrond f fun x => { x with regulator := Frond.reset.regulator, claimNo := 0 }) s
  let s := ((s.unloadPlan p).dropShadows p).setMeas (4 + p) 0
  let s := { s with waits := s.waits, lastScan := s.lastScan.filter (·.1 != p), stopMsgs := s.stopMsgs.filter (· != p) }
  let x := s.part p
  s.setPart p { Partition.reset with epoch := x.epoch, epochRecent := x.epochRecent, ledgersDue := x.ledgersDue, hold := x.hold, faultLog := x.faultLog, staleTick := x.staleTick }

/-- Tear the partition down and answer PARTITION_DESTROY; its other outstanding commands, which were waiting for it,
answer NOT_ALLOWED with the state free (log entry 29). A COUNTERS_READ, which every state accepts, waits on for its hold
(R413, R414). -/
def State.destroyNow (s : State) (p m : Nat) : State :=
  let others := (s.outstandingFor p).filter (· != m)
  let s := (s.teardown p).ok m []
  others.foldl (fun s k => match (s.mailbox k).outstanding with
    | some t => if t.begun && t.opcode != 0x61 then s.notAllowed k 0 else s
    | none => s) s

/-- Destroy now, or once 40 µs have passed since the last increment of the epoch (R535). -/
def State.destroyOrHold (s : State) (p m : Nat) : State :=
  if (s.part p).epochRecent.isSome then
    s.modPart p fun x => { x with epochHeld := true, stop := some (.destroy, m), state := if x.active then .preempted else x.state }
  else s.destroyNow p m

/-! ### A stop at the end of a step -/

/-- PLAN_STOP takes effect at the tick that closes the step (R400). A PREEMPT or a PARTITION_DESTROY accepted after the guard
of that tick had opened finds the partition stopped: the PLAN_STOP it replaced is answered, and it then acts as on a stopped
partition (R402, R409; DEDUCED, log entry 137). -/
def State.stopDone (s : State) (p : Nat) : State :=
  let s := (s.modPart p fun x => { x with state := .stopped, stopKind := 1, halt := none }).writeResume p 1
  let x := s.part p
  let s := s.modPart p fun x => { x with stop := none, replacedStop := none }
  let s := match x.replacedStop with
    | some k => s.answerStop p k (s.stopResult p)
    | none => s
  match x.stop with
  | none => s
  | some (.planStop, m) => s.answerStop p m (s.stopResult p)
  | some (.preempt, m) => s.ok m (s.preemptResult p)
  | some (.destroy, m) => s.destroyOrHold p m

/-! ### Release and recovery -/

/-- The partition is released (R536): it enters recovering; its partition reset follows its write fence. -/
def State.release (s : State) (p : Nat) : State :=
  let s := s.modPart p fun x =>
    { x with state := .recovering, ready := false, planKept := false, swept := 0, releaseDue := false }
  if (s.part p).fenceDue then s else s.partitionReset p

/-- The epoch edge of a faulted partition (R524, R533, R536): held while an increment lies less than 40 µs back. -/
def State.epochEdge (s : State) (p : Nat) : State :=
  if (s.part p).epochRecent.isSome then s.modPart p fun x => { x with epochHeld := true }
  else
    let s := (s.bumpEpoch p true).modPart p fun x => { x with fenceDue := true }
    if (s.reg clsPart p 0x1150).getLsbD 8 || (s.part p).releaseDue then s.release p else s

/-- Whether mailbox k has begun a COUNTERS_READ of the package, or of partition p (R413). -/
def State.reading (s : State) (p k : Nat) : Bool :=
  match (s.mailbox k).outstanding with
  | some t => t.opcode == 0x61 && t.begun && (t.arg 8 1 == 0 || t.target k == some p)
  | none => false

/-- A counter hold that no COUNTERS_READ waits for any longer is gone. -/
def State.dropHold (s : State) (p : Nat) : State :=
  if s.mbTaken.any (s.reading p) then s else s.modPart p fun x => { x with hold := none }

/-- A fault tears a mirror send and a drain in progress (R551, R555); pages not sent keep their bits. -/
def Protect.tear (x : Protect) : Protect :=
  { x with sendStep := .none, toSend := [], preMirror := [], drain := .none, drained := [], drainRegions := [], preSnap := []
           baseAcked := false }

/-- Put a partition into faulted (R522): every unit abandons its work, its commands answer FAULTED, and its epoch is due
at the next edge. -/
def State.faultNow (s : State) (p : Nat) : State :=
  let s := (s.abandon p).modPart p fun x =>
    { x with state := .faulted, start := none, stop := none, replacedStop := none, halt := none, epochDue := true
             stopAtEdge := false, ready := false, protect := x.protect.tear }
  (s.faultOutstanding p).dropHold p

/-- PARTITION_STOP: the stop message of partition p reaches the hub (R522), and fronds whose errors repeat are retired (R544). -/
def State.partitionStop (s : State) (p : Nat) : State :=
  if s.stopMsgs.contains p then
    let s := { s with stopMsgs := s.stopMsgs.filter (· != p) }
    let x := s.part p
    (frondsOf x.fronds).foldl State.retireRepeated
      (if x.state == .free || x.state == .faulted || x.state == .recovering then s else s.faultNow p)
  else s

def execPartitionStop (p : Nat) (s : State) : Out := onUnit (decide (p < 16)) (s.partitionStop p)

/-- The write fence of partition p is complete (R534): a recovering partition is reset, a preempted one is set aside, one
that is being destroyed goes on to that (R402, R409, R531). -/
def State.fenceComplete (s : State) (p : Nat) : State :=
  let x := s.part p
  if !x.fenceDue then s
  else
    let s := s.modPart p fun x => { x with fenceDue := false }
    if x.state == .recovering then s.partitionReset p
    else if x.state == .faulted then s
    else match x.stop with
      | some (.destroy, m) => (s.preemptDone p).destroyOrHold p m
      | _ => s.preemptDone p

def execWriteFenceComplete (p : Nat) (s : State) : Out := onUnit (decide (p < 16)) (s.fenceComplete p)

/-- Whether recovery drops the plan (R537): a program area, an instruction memory or a shape table that cannot be read, or a retired
frond that the plan names. Slot-wheel tables take no errors in the model (log entry 94). -/
def State.planSpoiled (s : State) (p : Nat) (pl : Plan) : Bool :=
  (s.probe (some p) pl.progBase pl.progBytes).isSome || (frondsOf pl.fronds).any fun f =>
    (s.frond f).retired || (s.storeBad f .instructions (List.range (storeWords .instructions))).isSome
      || (s.storeBad f .shapes (List.range (storeWords .shapes))).isSome

/-- Cleaning of a recovering partition is complete (recovery table): its fronds have been reset, suspects have been
swept, the plan has been checked, and ready is set. -/
def State.recoveryReady (s : State) (p : Nat) : State :=
  let x := s.part p
  if x.state != .recovering || x.ready || x.fenceDue || !x.suspects.isEmpty then s
  else
    let s := (frondsOf x.fronds).foldl State.clearFrond s
    let drop := match x.plan with
      | some pl => s.planSpoiled p pl
      | none => true
    let s := if drop then s.unloadPlan p else s
    s.modPart p fun x =>
      { x with ready := true, planKept := !drop, faultCode := 0, faultTick := 0, resumeValid := false }

def execRecoveryReady (p : Nat) (s : State) : Out := onUnit (decide (p < 16)) (s.recoveryReady p)

/-- 40 µs have passed since the last increment of the partition's epoch: what was held proceeds (R535). A held command
of a mailbox runs when its row is presented again (log entry 11). -/
def State.epochHoldExpires (s : State) (p : Nat) : State :=
  let x := s.part p
  let s := s.modPart p fun x => { x with epochRecent := none, epochHeld := false }
  if !x.epochHeld then s
  else match x.stop with
    | some (.destroy, m) => s.destroyNow p m
    | _ => if x.epochDue then s.epochEdge p else s

def execEpochHoldExpiry (p : Nat) (s : State) : Out := onUnit (decide (p < 16)) (s.epochHoldExpires p)

/-! ### Half resets -/

/-- The half of a unit that has one (numbering table). -/
def unitHalf (cls index : Nat) : Option Nat :=
  match cls with
  | 1 => some (index / 64)
  | 2 | 3 | 9 => some (index / 8)
  | 4 => some (index / 16)
  | 5 | 6 => some (index / 4)
  | _ => none

/-- Whether a partition uses half h: a frond, a Sphagnum block, a stack, a channel or a bridge share (R532). -/
def Partition.usesHalf (x : Partition) (h : Nat) : Bool :=
  (frondsOf x.fronds).any (fun f => f / 64 == h) || x.bridgeLines != 0
    || x.grants.any fun g => g.kind == 4 || halfOfPhys g.base == h

/-- Units of the half go to reset: registers to their reset values, fronds to theirs but for the retirement list;
Sphagnum banks of the half are zeroed, stacks and channels keep their contents in self-refresh (R442, R531). -/
def State.resetHalf (s : State) (h : Nat) : State :=
  let inHalf := fun k : Nat => unitHalf (k / 0x100000 / 256) (k / 0x100000 % 256) == some h
  let sph := fun a : Nat => decide (a < 0x4000_0000) && a / 0x2000_0000 == h
  let s := { s with
    regs := s.regs.filter fun e => !inHalf e.1
    shadow := s.shadow.filter fun e => !inHalf e.1
    mem := sclear sph s.mem
    poison := sclear (fun u => sph (u * 64)) s.poison
    flips := sclear (fun w => sph (w * 4)) s.flips
    frondFlips := sclear (fun k => k / 2 ^ 22 / 64 == h) s.frondFlips
    hyphae := { s.hyphae with bankq := s.hyphae.bankq.filter (fun e => e.1 / 512 != h)
                              correct := s.hyphae.correct.filter fun l => !sph (l * 128) }
    pkg := { s.pkg with
      noAnswer := s.pkg.noAnswer.filter fun u => unitHalf u.1 u.2 != some h
      memState := s.pkg.memState.map fun e => if e.1 % 8 / 4 = h ∧ e.2 = 3 then (e.1, 5) else e
      half0Ready := s.pkg.half0Ready && h != 0
      half1Ready := s.pkg.half1Ready && h != 1 } }
  (rangeFrom (64 * h) 64).foldl (fun s f =>
    (s.clearFrond f).setFrond f { Frond.reset with retired := (s.frond f).retired, stopped := true }) s

/-- HALF_RESET (R532): partitions that use the half stop with FRAME_OVERRUN subcode 3, and the half is reset, after a
unit of it has not answered or its hyphae leave a write fence unmet. -/
def State.halfReset (s : State) (h : Nat) : State :=
  let ps := (List.range 16).filter fun p => (s.part p).state != .free && (s.part p).usesHalf h
  if s.pkg.noAnswer.any (fun u => unitHalf u.1 u.2 == some h) || ps.any (fun p => (s.part p).fenceDue) then
    let s := ps.foldl (fun s p =>
      if (s.part p).state == .faulted || (s.part p).state == .recovering then s
      else (s.raiseStop p (Report.of cOverrun 3 0 0 0) false).partitionStop p) s
    s.resetHalf h
  else s

def execHalfReset (h : Nat) (s : State) : Out := onUnit (decide (h < 2)) (s.halfReset h)

/-- A unit does not answer the partition reset or a frond reset within 50 µs (R539): the half reset of R532 follows. -/
def State.noReset (s : State) (cls index : Nat) : State :=
  { s with pkg := { s.pkg with noAnswer := (cls, index) :: s.pkg.noAnswer.filter (· != (cls, index)) } }

def execResetNoAnswer (cls index : Nat) (s : State) : Out := onUnit (decide (index < classCount cls)) (s.noReset cls index)

/-! ### Known-answer sweeps -/

/-- Whether the firmware may sweep a unit (R543): a frond of no partition, a suspect of a recovering one, or a tuft unit
that no partition shares. -/
def State.maySweep (s : State) (cls index : Nat) : Bool :=
  if cls = clsFrond then
    match s.ownerOf index with
    | none => !(s.frond index).retired
    | some p => (s.part p).state == .recovering && !(s.part p).fenceDue && (s.part p).suspects.contains index
  else (cls == clsSoredia || cls == clsUpdate)
    && !(List.range 16).any (fun p => s.serves cls index p) && !s.pkg.retiredUnits.contains (cls * 256 + index)

/-- Free values for consecutive keys of a store whose unlisted keys read `d`: what the test patterns of a sweep leave in a store (R542; log entry 30). -/
def freeRun (w : Nat) (d : BitVec w) (ctr lo n : Nat) : List (Nat × BitVec w) :=
  (List.range n).filterMap fun i =>
    let v := Config.freeBits w (ctr + i)
    if v = d then none else some (lo + i, v)

/-- Replace the keys of a range in a sparse store by free values. -/
def freeOver {w : Nat} (d : BitVec w) (m : List (Nat × BitVec w)) (ctr lo n : Nat) : List (Nat × BitVec w) :=
  m.filter (fun e => decide (e.1 < lo)) ++ freeRun w d ctr lo n ++ m.filter fun e => decide (lo + n ≤ e.1)

/-- KAT_SWEEP (R542, R543): the sweep begins; it uses the frond's buffer, accumulators, tile store, activation bank,
registers and generators, which it leaves with what its patterns put there. -/
def State.beginSweep (s : State) (cls index : Nat) : State :=
  if cls != clsFrond then s
  else
    let c := s.freeCtr
    let f := index
    let s := (s.cleanWords f .buffer 0 (storeWords .buffer)).cleanWords f .accumulator 0 (storeWords .accumulator)
    let s := { s with
      fbuf := freeOver 0 s.fbuf c (f * frondBytes) frondBytes
      fbufBad := sclear (fun k => k / (frondBytes / 64) == f) s.fbufBad
      acc := freeOver 0 s.acc (c + frondBytes) (f * 32768) 32768
      gens := freeOver genReset (freeOver genReset s.gens (c + 0x31_0000) (f * 128) 128) (c + 0x32_0000) (16640 + f * 256) 256 }
    let panel : Panel := { Panel.empty with data := freeRun 16 0 (c + 0x33_0000) 0 65536 }
    let s := s.modFrond f fun x =>
      { x with sweeping := true, panel0 := panel, panel1 := { panel with data := freeRun 16 0 (c + 0x35_0000) 0 65536 }
               store0 := (List.range 262144).map fun i => Config.freeBits 8 (c + 0x37_0000 + i)
               store1 := (List.range 262144).map fun i => Config.freeBits 8 (c + 0x3B_0000 + i)
               vec := { x.vec with sregs := freeRun 64 0 (c + 0x3F_0000) 1 15, vregs := freeRun 64 0 (c + 0x3F_0100) 0 4096
                                   preds := (rangeFrom 128 896).filterMap fun i =>
                                     if Config.freeBool (c + 0x3F_2000 + i) then some (i, true) else none
                                   flags := freeRun 5 0 (c + 0x3F_3000) 0 128 } }
    { s with freeCtr := c + 0x40_0000 }

def execKatSweep (cls index : Nat) (s : State) : Out :=
  onUnit (decide (index < classCount cls)) (if s.maySweep cls index then s.beginSweep cls index else s)

/-- A frond's sweep has ended: it leaves the list of suspects of its partition (R543). -/
def State.sweepEnds (s : State) (f : Nat) : State :=
  let s := s.modFrond f fun x => { x with sweeping := false }
  match s.ownerOf f with
  | some p => s.modPart p fun x =>
      if x.suspects.contains f then { x with suspects := x.suspects.filter (· != f), swept := x.swept + 1 } else x
  | none => s

/-- KAT_SWEEP_RESULT (R544): a pass is recorded; a failure raises RESIDUE_MISMATCH subcode 1 with no partition and
retires the frond, or the tuft unit and the eight fronds of its tuft. -/
def State.sweepResult (s : State) (cls index : Nat) (pass : Bool) (group : Nat) : State :=
  let fail := fun (s : State) => s.raiseReport (Report.of cResidue 1 (group % 256 * 2 ^ 56) cls index)
  if cls = clsFrond then
    let s := s.sweepEnds index
    if pass then (s.setReg clsFrond index 0x11D0 s.tick.count).count32 clsFrond index 0x11DC 1
    else fail ((s.count32 clsFrond index 0x11D8 1).retireFrond index)
  else if cls = clsSoredia ∨ cls = clsUpdate then
    if pass then s
    else
      let s := { s with pkg := { s.pkg with retiredUnits := insertNat (cls * 256 + index) s.pkg.retiredUnits } }
      fail ((rangeFrom (8 * index) 8).foldl State.retireFrond s)
  else s

def execKatSweepResult (cls index : Nat) (pass : Bool) (group : Nat) (s : State) : Out :=
  onUnit (decide (index < classCount cls)) (s.sweepResult cls index pass group)

end Sys2Proof.Machine
end

