-- ==== Sys2Proof/Machine/Spore.lean ====
section
/-! DEFINITION. The Spore stream (R478 to R483, R58, R61): items reach the hub, are grouped in packets and are popped. -/

namespace Sys2Proof.Machine

/-- Offsets of the Spore registers of BAR0. -/
def offSporeLost : Nat := 0x4044
def offSporeThresh : Nat := 0x404C

/-! ### The spill region -/

/-- The channel that holds the spill region, when it is ready (R481). -/
def State.spillChannel (s : State) : Option Nat :=
  let st := fun c => s.memStateOf (8 + c)
  let c := if st 0 != 4 then some 0 else if st 4 != 4 then some 4 else (List.range 8).find? fun c => st c == 3
  c.filter fun c => st c == 3

/-- Base of the spill region: the top 64 MiB of its channel. -/
def State.spillBase (s : State) : Option Nat :=
  s.spillChannel.map fun c => 0x0200_0000_0000 + c * 0x0040_0000_0000 + s.memCap (8 + c) * 2 ^ 30 - 0x400_0000

/-- Whether a canonical address lies in the spill region. -/
def State.inSpill (s : State) (phys : Nat) : Bool :=
  match s.spillBase with
  | some b => decide (b ≤ phys ∧ phys < b + 0x400_0000)
  | none => false

/-- Items the stream holds at most (R481). -/
def State.sporeRoom (s : State) : Nat := if s.spillBase.isSome then 4194816 else 512

/-! ### Counting -/

/-- Count items read, overwritten or discarded as completed in ledger 0x7 of the partition, or of the package, whose
unit wrote them (R53, R58, R61); 0x100 stands for an epoch that has ended (R60). -/
def State.sporeTake (s : State) (is : List SporeItem) : State :=
  is.foldl (fun s i => if i.partition < 0x100 then s.ledTake i.partition 7 0 1 else s) s

/-- Discard items: SPORE_LOST counts them. -/
def State.sporeDrop (s : State) (is : List SporeItem) : State := (s.sporeTake is).count32 0 0 offSporeLost is.length

/-- Items that a pop may return: those before the head of the open packet (R480). -/
def Spore.readable (x : Spore) : Nat := x.items.length - (x.opened.map (·.got)).getD 0

/-! ### Packets -/

/-- A head with its count and flags (head-item table). -/
def closedHead (head : Item) (count : Nat) (truncated : Bool) : Item :=
  head ||| (BitVec.ofNat 128 count <<< 16) ||| (if truncated then 1#128 <<< 56 else 0)

/-- Close the open packet (R479) and raise vector 17 when the readable count crosses SPORE_THRESH (R460). -/
def State.closePacket (s : State) (truncated : Bool) : State :=
  match s.spore.opened with
  | none => s
  | some o =>
    let before := s.spore.readable
    let at_ := s.spore.items.length - o.got
    let items := s.spore.items.zipIdx.map fun e =>
      if e.2 = at_ then { e.1 with item := closedHead e.1.item o.got truncated } else e.1
    let s := { s with spore := { s.spore with items := items, opened := none } }
    let th := (s.reg 0 0 offSporeThresh).toNat
    if before < th ∧ th ≤ s.spore.readable then s.raiseVector 17 else s

/-- Make room for one item: at a full stream the oldest whole packet is discarded (R481). -/
def State.sporeSpace (s : State) : State :=
  match s.spore.items with
  | [] => s
  | i :: _ =>
    if s.spore.items.length < s.sporeRoom then s
    else
      let gone := s.spore.items.takeWhile fun e => e.packet == i.packet
      { s with spore := { s.spore with items := s.spore.items.drop gone.length } }.sporeDrop gone

/-- Append one item of a unit's packet; its last item closes the packet. -/
def State.sporeAppend (s : State) (o : OutPacket) (i : Item) (head : Bool) : State :=
  let s := s.sporeSpace
  let n := if head then s.spore.nextPacket else (s.spore.opened.map (·.packet)).getD 0
  let got := if head then 1 else (s.spore.opened.map (·.got)).getD 0 + 1
  let item := if head then BitVec.ofNat 128 (i.toNat % 2 ^ 64 + s.tickNow % 2 ^ 64 * 2 ^ 64) else i
  let s := { s with spore := { s.spore with
    items := s.spore.items ++ [{ item := item, packet := n, partition := o.partition }]
    opened := some { packet := n, cls := o.cls, index := o.index, got := got, total := o.total }
    nextPacket := if head then s.spore.nextPacket + 1 else s.spore.nextPacket } }
  let s := if o.partition < 0x100 then s.ledMake o.partition 7 0 1 else s
  if o.total ≤ got then s.closePacket false else s

/-- Replace the first packet of a unit on the rhizome; an empty one is gone. -/
def State.setOut (s : State) (o o' : OutPacket) : State :=
  { s with sporeOut :=
      if o'.items.isEmpty then dropFirst (· == o) s.sporeOut
      else (s.sporeOut.takeWhile (· != o)) ++ o' :: (s.sporeOut.dropWhile (· != o)).drop 1 }

/-- SPORE_ITEM_ARRIVAL (R479, R482): the next item of a unit reaches the hub. While another source's packet is open it
waits; an item of a packet that was closed without it is discarded. -/
def State.sporeArrive (s : State) (cls index : Nat) : State :=
  match s.sporeOut.find? fun o => o.cls == cls && o.index == index with
  | none => s
  | some o => match o.items with
    | [] => s.setOut o o
    | i :: rest =>
      let o' := { o with items := rest }
      if o.closed then
        let s := s.setOut o o'
        let s := if o.partition < 0x100 then s.ledMake o.partition 7 0 1 else s
        s.sporeDrop [{ item := i, packet := 0, partition := o.partition }]
      else match s.spore.opened with
        | none => (s.setOut o o').sporeAppend o i true
        | some p => if p.cls == cls && p.index == index then (s.setOut o o').sporeAppend o i false else s

def execSporeItemArrival (cls index : Nat) (s : State) : Out := .next (s.sporeArrive cls index)

/-- 1 µs after its head a packet that lacks items is closed and marked truncated (R479). -/
def State.sporeTimeout (s : State) : State :=
  match s.spore.opened with
  | none => s
  | some p =>
    let s := match s.sporeOut.find? fun o => o.cls == p.cls && o.index == p.index with
      | some o => s.setOut o { o with closed := true }
      | none => s
    s.closePacket true

def execSporePacketTimeout (s : State) : Out := .next s.sporeTimeout

/-! ### Reading -/

/-- Pop one word (R480): up to four readable items, the rest IDLE; with none readable nothing changes but the latch. -/
def State.sporePop (s : State) : State :=
  let n := min 4 s.spore.readable
  let got := s.spore.items.take n
  let bytes := (got.map fun i => leBytes 16 i.item.toNat).flatten ++ List.replicate (64 - 16 * n) 0
  { s with spore := { s.spore with items := s.spore.items.drop n, latch := bytes, validBytes := 16 * n } }.sporeTake got

end Sys2Proof.Machine
end

