-- ==== Sys2Proof/Machine/HostPath.lean ====
section
/-! DEFINITION. The host's paths: device memory over CXL.mem (R448 to R453), host memory over CXL.cache and the host feed
(R454 to R457), and the function's power state (R459). -/

namespace Sys2Proof.Machine

/-! ### Device memory -/

/-- Whether the controller of a canonical address is ready; the Sphagnum needs none (R616). -/
def State.storeReady (s : State) (phys : Nat) : Bool :=
  let (c, i) := storeOf phys
  c == clsBank || s.memStateOf (if c = clsStack then i else 8 + i) == 3

/-- Whether a decoder exposes the byte to the host, in a populated part that is neither the landing area nor the spill
region, on a ready controller (R448, R450, R616). -/
def State.hostReaches (s : State) (a : Nat) : Bool :=
  decide (a < 0x0400_0000_0000) && s.resolveDirect a == some a && !inLanding a && !s.inSpill a && s.storeReady a

/-- Post an UNCORRECTABLE item that names no partition and set the memory bit (R452). -/
def State.hostUnc (s : State) (bad : Nat × Nat) : State := (s.commandUnc none bad).setGlobalFault 13

/-- The slots of a host access at the bank ports of its Sphagnum lines (R301, R302, R449): its requests carry the Crozier's service
code 0x030, and each is served in the slot of its cycle when the wheel gives that slot to the code, after 4,096 cycles by age, and
otherwise by the arbiter. -/
def State.hostSlots (s : State) (write : Bool) (as : List Nat) (slots : HostSlots) : State :=
  let lines := (as.filter fun a => decide (a < 0x4000_0000) && s.hostReaches a).foldl (fun l a => insertNat (a / 128) l) []
  (lines.zip slots).foldl (fun s e =>
    let g := storeOf (e.1 * 128)
    let entry := (sget (fun _ => (0 : BitVec 16)) s.wheels (wheelKey g.2 (if write then 1 else 0) (e.2.1 % 256))).toNat
    if entry / 2 ^ 14 = 2 ∧ entry % 4096 = 0x030 ∧ e.2.2 ≠ 0 then s.count64 clsBank g.2 0x1120 1
    else if 4096 ≤ e.2.2 then s.countFlag clsBank g.2 0x110C 1 13
    else s.count64 clsBank g.2 0x1128 1) s

/-- HOST_MEM_READ (R449, R450, R452). -/
def State.hostRead (s : State) (a n : Nat) : State :=
  let as := rangeFrom a n
  if as.any fun x => !s.hostReaches x then { s with host := { s.host with memData := [], memPoison := true } }
  else
    (unitsOf as).foldl (fun s u =>
      let r := s.readPhys none (as.filter fun x => x / 64 == u)
      let s := { r.state with host := { r.state.host with
        memData := r.state.host.memData ++ r.bytes, memPoison := r.state.host.memPoison || r.bad.isSome } }
      match r.bad with
      | some (v, k) => if k = 2 then s else s.hostUnc (v, k)
      | none => s) { s with host := { s.host with memData := [], memPoison := false } }

def execHostMemRead (a : Nat) (x : HostSpan) (s : State) : Out :=
  hostRow true (fun s => (s.hostSlots false (rangeFrom a x.length) x.slots).hostRead a x.length) s

/-- Whether a host write to a byte is dropped because a loaded plan's programs lie there (R450). -/
def State.inSomeProgram (s : State) (a : Nat) : Bool := s.parts.any fun e => inProgram e.2 a

/-- HOST_MEM_WRITE (R450 to R452): each 64-byte unit is written, dropped or refused on its own. -/
def State.hostWrite (s : State) (a : Nat) (data : List Byte) (mask : List Bool) : State :=
  let cells := (((cellsAt a data).zip mask).filter (·.2)).map (·.1)
  (unitsOf (cells.map (·.1))).foldl (fun s u =>
    let cs := cells.filter fun c => c.1 / 64 == u
    if cs.any fun c => !s.hostReaches c.1 || s.inSomeProgram c.1 then s
    else
      let w := s.writePhys none cs
      match w.refused with
      | some b => w.state.hostUnc (b.1, 2)
      | none => w.state) s

def execHostMemWrite (a : Nat) (data : List Byte) (x : HostMask) (s : State) : Out :=
  hostRow false (fun s => (s.hostSlots true (rangeFrom a data.length) x.slots).hostWrite a data x.mask) s

/-! ### Host memory -/

/-- A read of host memory over CXL.cache; none when a line of it returns poison or an error. -/
def State.readHost (s : State) (a n : Nat) : Option (List Byte) :=
  if (unitsOf (rangeFrom a n)).any fun u => sget (fun _ => false) s.hostBad u then none
  else some (sgets (fun _ => (0 : Byte)) s.hostMem a n)

/-- A write of host memory over CXL.cache. -/
def State.writeHost (s : State) (a : Nat) (bs : List Byte) : State :=
  { s with hostMem := sputs (fun _ => (0 : Byte)) s.hostMem a bs
           hostBad := (unitsOf (rangeFrom a bs.length)).foldl (fun m u => sput (fun _ => false) m u false) s.hostBad }

/-- Every snoop is answered with RspIHitI (R454). -/
def execHostSnoop (_a : Nat) (s : State) : Out :=
  .next (if s.linkServes then { s with host := { s.host with snoop := true } } else s)

/-- An uncorrectable CXL error is logged in advanced error reporting and sets the cxl bit of GLOBAL_FAULT (R461). -/
def execCxlUncorrectableError (s : State) : Out :=
  .next ({ s with pkg := { s.pkg with aerLogged := true } }.setGlobalFault 9)

/-- The function moves between D0 and D3hot (R459); configuration requests are served while the link is up. -/
def execPowerStateChange (d3hot : Bool) (s : State) : Out :=
  .next (if s.pkg.pwrOk && s.pkg.linkUp then { s with pkg := { s.pkg with d3hot := d3hot } } else s)

/-! ### The host feed -/

/-- Registers of the feed. -/
def offFeedSrc : Nat := 0x1180
def offFeedDst : Nat := 0x1188
def offFeedLen : Nat := 0x1190
def offFeedStatus : Nat := 0x1198

/-- Whether a byte may be a feed's destination: in a grant of Sphagnum, per-stack HBM4 or DDR5 blocks, named as such, and
outside the program area (R455). -/
def State.feedReaches (s : State) (p a : Nat) : Bool :=
  let x := s.part p
  s.resolveDirect a == some a && !inLanding a && (x.grants.any fun g => g.kind != 4 && inGrant a g) && !inProgram x a

/-- A write of 1 to FEED_CTRL bit 0 (R455). -/
def State.startFeed (s : State) (p : Nat) : State :=
  let src := (s.reg clsPart p offFeedSrc).toNat
  let dst := (s.reg clsPart p offFeedDst).toNat
  let len := (s.reg clsPart p offFeedLen).toNat
  if (s.part p).feed.isNone && (s.part p).state != .free && src % 64 == 0 && dst % 64 == 0 && len % 64 == 0 && len != 0
      && (List.range len).all fun i => s.feedReaches p (dst + i) then
    s.modPart p fun x => { x with feed := some { src := src, dst := dst, lines := len / 64, written := [], epoch := x.epoch.toNat } }
  else s.setBit clsPart p offFeedStatus 3

def execFeedStart (p : Nat) (s : State) : Out := if p < 16 then hostRow false (fun s => s.startFeed p) s else .fault .noSuchUnit

/-- Data of one line returns (R456): it is written with the partition's number and epoch; poison or an error stops the
copy. At most 1,024 reads are outstanding, so a line further ahead has not been read. -/
def State.feedReturn (s : State) (p line : Nat) (error : Bool) : State :=
  match (s.part p).feed with
  | none => s
  | some r =>
    if r.lines ≤ line ∨ r.written.contains line ∨ r.written.length + 1024 ≤ line then s
    else match (if error then none else s.readHost (r.src + 64 * line) 64) with
      | none => (s.modPart p fun x => { x with feed := none }).setBit clsPart p offFeedStatus 1
      | some bs =>
        let w := s.writePhys (some p) (cellsAt (r.dst + 64 * line) bs)
        (w.state.modPart p fun x => { x with feed := some { r with written := insertNat line r.written } }).count64
          clsPart p 0x11A0 64

def execFeedReadReturn (p line : Nat) (error : Bool) (s : State) : Out :=
  onUnit (decide (p < 16)) (s.feedReturn p line error)

/-- Every write of the copy is acknowledged: FEED_DONE counts it (R456). -/
def execFeedDone (p : Nat) (s : State) : Out :=
  onUnit (decide (p < 16)) (match (s.part p).feed with
    | some r =>
      if r.written.length = r.lines then (s.modPart p fun x => { x with feed := none }).count32 clsPart p 0x119C 1 else s
    | none => s)

end Sys2Proof.Machine
end

