-- ==== Sys2Proof/Machine/Banks.lean ====
section
/-! DEFINITION. The hyphal hops, the bank ports of the Sphagnum, and the controllers of the HBM4 stacks and DDR5 channels:
requests in transit, arbitration, errors found, scrubbing and bring-up (R296 to R306, R416, R425 to R445, R533, R645).

The rows of descriptors and commands do their accesses whole (Ops.lean). The rows here serve requests of their own, which
HYPHAL_PACKET brings or which stand in a row's operand. -/

namespace Sys2Proof

/-- The partition of a request; none for the host and the firmware. -/
def StoreReq.part (r : StoreReq) : Option Nat := if r.partition < 16 then some r.partition else none

/-- Addresses and bytes that a write names: those whose mask bit is set. -/
def StoreReq.cells (r : StoreReq) : List (Nat × Byte) := (((Machine.cellsAt r.addr r.data).zip r.mask).filter (·.2)).map (·.1)

/-- Whether a packet is that number of that link. -/
def HyphalPkt.is (a b : HyphalPkt) : Bool := a.link == b.link && a.number == b.number

/-- The table of DIMM types (R418). -/
def Dimm.supported (d : Dimm) : Bool :=
  d.kind == .registered && d.ecc && d.lanes == 80 && [4, 8].contains d.width && [16, 24, 32, 64].contains d.density
    && [1, 2].contains d.ranks && decide (1 ≤ d.height ∧ d.height ≤ 4) && [32, 48, 64, 96, 128, 192, 256].contains d.capacityGiB

/-- Whether a stack or channel passes steps 1 to 3. -/
def Training.passes (t : Training) (cls : Nat) : Bool :=
  t.present && t.pass && (cls == Machine.clsStack || (t.dimm.supported && [8800, 8000, 7200].contains t.rate))

/-- Capacity of a stack (R415) or of the DIMM of a channel. -/
def Training.capacityGiB (t : Training) (cls : Nat) : Nat := if cls = Machine.clsStack then 96 else t.dimm.capacityGiB

end Sys2Proof

namespace Sys2Proof.Machine

/-! ### Requests -/

/-- A request of an old epoch (R533). -/
def State.staleReq (s : State) (r : StoreReq) : Bool :=
  match r.part with
  | some p => (s.part p).epoch.toNat != r.epoch
  | none => false

/-- A request whose bytes its partition may not reach (R28). -/
def State.outOfReach (s : State) (r : StoreReq) (n : Nat) : Option Nat :=
  match r.part with
  | some p => s.firstBad p r.write (rangeFrom r.addr n)
  | none => (rangeFrom r.addr n).find? fun a => (s.resolve none a).isNone

/-- UNCORRECTABLE for the issuer of a request, raised by its store (R435); for the host and the firmware an item that names no
partition and the memory bit (R452). -/
def State.reqUnc (s : State) (r : StoreReq) (bad : Nat × Nat) : State :=
  match r.part with
  | some p => let (c, i) := storeOf (bad.1 * 64); s.raiseUnc p c i r.descAddr bad
  | none => s.hostUnc bad

/-- BUFFER_OVERFLOW for the issuer of a request: the record names the unit that issued the access (R28). -/
def State.reqOverflow (s : State) (r : StoreReq) (a : Nat) : State :=
  match r.part with
  | some p => s.raiseOverflow p 1 a r.cls r.index r.descAddr
  | none => { s with hyphae := { s.hyphae with reply := some (r.addr, [], true) } }

/-- The reply of a store to a read. -/
def State.replyWith (s : State) (r : StoreReq) (bs : List Byte) (bad : Bool) : State :=
  { s with hyphae := { s.hyphae with reply := some (r.addr, bs, bad) } }

/-- One word of a write as it came over the hyphae (R429, R432 to R434): the Sphagnum and DDR5 store it with its error; an HBM4
controller corrects it, or finds an uncorrectable error in the packet; poison poisons the unit. -/
def State.landFlip (s : State) (r : StoreReq) (f : Nat × BitVec 40) : State :=
  let a := r.addr + 4 * f.1
  match s.resolve r.part a with
  | none => s
  | some y =>
    if (r.mask.drop (4 * f.1)).take 4 != List.replicate 4 true then s
    else if syndrome f.2 = 0x7F then s.poisonUnit (y / 64)
    else if (storeOf y).1 ≠ clsStack then
      { s with flips := sput (fun _ => (0 : BitVec 40)) s.flips (y / 4) f.2 }
    else match readWord false f.2 with
      | .data .. => (s.flipWords (y / 64) [(y % 64 / 4, f.2)]).mendWord (y / 4)
      | _ =>
        let s := s.poisonUnit (y / 64)
        match r.part with
        | some p => s.descFault p cUncorrectable 0 (4 * 2 ^ 60 + 1 * 2 ^ 56 + y / 64 * 64) (storeOf y).1 (storeOf y).2 r.descAddr
        | none => s.hostUnc (y / 64, 1)

/-- Serve a request of `n` bytes at its store: stale ones are dropped (R533). -/
def State.serve (s : State) (r : StoreReq) (n : Nat) : State :=
  if s.staleReq r then s.dropStale r.partition
  else match s.outOfReach r n with
    | some a => s.reqOverflow r a
    | none =>
      if r.write then
        let w := s.writePhys r.part (r.cells.filterMap fun c => (s.resolve r.part c.1).map fun y => (y, c.2))
        match w.refused with
        | some b => w.state.reqUnc r (b.1, 2)
        | none => r.flips.foldl (fun s f => s.landFlip r f) w.state
      else
        let x := s.readPhys r.part ((rangeFrom r.addr n).filterMap (s.resolve r.part))
        let t := x.state.replyWith r x.bytes x.bad.isSome
        match x.bad with
        | some b => t.reqUnc r b
        | none => t

/-! ### HYPHAL_PACKET -/

/-- Number last taken on a link. -/
def Hyphae.last (h : Hyphae) (link : Nat) : Option Nat := (h.taken.find? fun e => e.1 == link).map (·.2)

/-- A packet taken at a hop: its number is noted, which acknowledges it, and the hold at the sender is released; a hop that sends
it on holds it until the next one acknowledges it (R300). -/
def State.takePacket (s : State) (p : HyphalPkt) : State :=
  let h := s.hyphae
  let on_ := match p.next with
    | some (l, n) => [{ p with link := l, number := n, next := none }]
    | none => []
  { s with hyphae := { h with
      taken := (h.taken.filter fun e => e.1 != p.link) ++ [(p.link, p.number)]
      held := (h.held.filter fun q => !q.is p) ++ on_ } }

/-- The slack that the issuing end stamps a request with (R303): the fetch sequencer of its frond is the stream's consumer or
producer end. It is computed as the request enters the bank's queue (log entry 133). -/
def State.slackOf (s : State) (r : StoreReq) : Option Nat :=
  if 4096 ≤ r.owner then none
  else match s.stream r.owner with
    | none => none
    | some x =>
      if x.drainPeriod = 0 then none
      else
        let ready := if x.consumerFrond = r.index ∧ x.consumerSeq = .fetch then x.filled.toNat
          else x.depth - x.freed.toNat - x.claimed
        some (min 65535 (ready * x.drainPeriod))

/-- Deliver a request to the port of its Sphagnum bank: it waits there. A request for a controller is served as it arrives. -/
def State.enqueue (s : State) (r : StoreReq) : State :=
  match s.resolve r.part r.addr with
  | some y =>
    if y < 0x4000_0000 then
      let bank := 256 * bitsOf y 29 1 + bitsOf y 7 8
      let k := 2 * bank + (if r.write then 1 else 0)
      let h := s.hyphae
      let q := (((h.bankq.find? fun e => e.1 == k).map (·.2)).getD []) ++ [⟨r, s.slackOf r⟩]
      { s with hyphae := { h with bankq := (h.bankq.filter fun e => e.1 != k) ++ [(k, q)] } }
    else s.serve r (if r.write then r.data.length else 64)
  | none => s.reqOverflow r r.addr

/-- A packet with the words a hop can correct corrected (R429): what stays is poison. A word corrected wrongly carries that data
on. -/
def mendPacket (p : HyphalPkt) : HyphalPkt :=
  let r := p.req
  let data := r.flips.foldl (fun d f => match readWord false f.2 with
    | .data v _ _ => if v = 0 then d else d.zipIdx.map fun b =>
        if b.2 / 4 = f.1 then b.1 ^^^ (v >>> (8 * (b.2 % 4))).setWidth 8 else b.1
    | _ => d) r.data
  { p with req := { r with data := data, flips := r.flips.filter fun f => syndrome f.2 == 0x7F } }

/-- Whether a packet passes its check at a hop: a word with an uncorrectable error fails it (R300, R428). -/
def packetOk (p : HyphalPkt) : Bool :=
  p.checkOk && !p.req.flips.any fun f => match readWord false f.2 with | .uncorrectable => true | _ => false

/-- Whether an earlier packet of the link is still held, so that this one is not taken before it (R299). -/
def Hyphae.behind (h : Hyphae) (p : HyphalPkt) : Bool := h.held.any fun q => q.link == p.link && decide (q.number < p.number)

/-- HYPHAL_PACKET (R299, R300): a packet that fails its check, or comes before an earlier one of its link, stays in its sender's
hold, to be sent again; a number already taken is acknowledged and discarded; any other is taken, its words corrected (R429),
and sent on, or at its destination delivered. -/
def State.hyphal (s : State) (p : HyphalPkt) : State :=
  let h := s.hyphae
  if (h.last p.link).any fun n => decide (p.number ≤ n) then { s with hyphae := { h with held := h.held.filter fun q => !q.is p } }
  else if !packetOk p || h.behind p then
    if h.held.any fun q => q.is p then s
    else { s with hyphae := { h with held := h.held ++
      [{ p with checkOk := true, req := { p.req with flips := p.req.flips.filter fun f => syndrome f.2 == 0x7F } }] } }
  else
    let p := mendPacket p
    let t := s.takePacket p
    if p.next.isNone then t.enqueue p.req else t

def execHyphalPacket (p : HyphalPkt) (s : State) : Out := .next (s.hyphal p)

/-! ### Bank ports (R296, R297, R301 to R304, R306) -/

/-- Whether a wheel entry assigns its slot to a request's owner. -/
def slotOwns (e : Nat) (r : StoreReq) : Bool :=
  (e / 2 ^ 14 == 1 && r.owner == e % 4096) || (e / 2 ^ 14 == 2 && r.owner == 4096 + e % 4096)

/-- The oldest of a list of requests, the first of equals; with its place. -/
def oldest : List (Waiting × Nat) → Option (Waiting × Nat)
  | [] => none
  | x :: r => match oldest r with
    | none => some x
    | some y => some (if y.1.req.arrived < x.1.req.arrived then y else x)

/-- The key of a request with a slack (arbiter rule). -/
def reqKey (cycle : Nat) (r : Waiting) (slack : Nat) : Int := (slack : Int) - ((cycle : Int) - r.req.arrived)

/-- The arbiter rule (R304): the least key, then the lowest stream; else the oldest without a slack, then the lowest owner. -/
def arbiter (cycle : Nat) (l : List (Waiting × Nat)) : Option (Waiting × Nat) :=
  let withSlack := l.filterMap fun x => x.1.slack.map fun k => (x, k)
  match withSlack with
  | x :: r =>
    some (r.foldl (fun b y =>
      let kb := reqKey cycle b.1.1 b.2
      let ky := reqKey cycle y.1.1 y.2
      if ky < kb ∨ (ky = kb ∧ y.1.1.req.owner < b.1.1.req.owner) then y else b) x).1
  | [] => match l with
    | [] => none
    | x :: r => some (r.foldl (fun b y =>
        if y.1.req.arrived < b.1.req.arrived ∨ (y.1.req.arrived = b.1.req.arrived ∧ y.1.req.owner < b.1.req.owner) then y else b) x)

/-- How a port chose. -/
inductive Chosen where
  | owner | age | arbiter
  deriving DecidableEq, Repr

/-- The request that a port serves in a cycle, with its place in the queue (R302): of those that have arrived; the owner's must
have waited at the start of the cycle. -/
def choose (entry cycle : Nat) (q : List Waiting) : Option (StoreReq × Nat × Chosen) :=
  let l := q.zipIdx.filter fun x => decide (x.1.req.arrived ≤ cycle)
  match oldest (l.filter fun x => slotOwns entry x.1.req && decide (x.1.req.arrived < cycle)) with
  | some x => some (x.1.req, x.2, .owner)
  | none => match oldest (l.filter fun x => decide (x.1.req.arrived + 4096 ≤ cycle)) with
    | some x => some (x.1.req, x.2, .age)
    | none => (arbiter cycle l).map fun x => (x.1.req, x.2, .arbiter)

/-- Address of line n of a bank. -/
def lineAddr (bank n : Nat) : Nat := bank / 256 * 2 ^ 29 + n * 2 ^ 15 + bank % 256 * 128

/-- Lines that patrol scrubbing has read at a bank since cold reset. -/
def State.scrubbed (s : State) (k : Nat) : Nat := sget (fun _ => 0) s.scrub k
def State.setScrubbed (s : State) (k n : Nat) : State := { s with scrub := sput (fun _ => 0) s.scrub k n }

/-- Passes that every bank of a group has completed. -/
def State.groupPasses (s : State) (g : Nat) : Nat :=
  ((rangeFrom (16 * g) 16).map fun b => s.scrubbed (16 + b) / 16384).foldl min (s.scrubbed (16 + 16 * g) / 16384)

/-- The partition that holds a canonical address in a grant. -/
def State.holderOf (s : State) (phys : Nat) : Option Nat := (List.range 16).find? fun p => s.holds p phys

/-- What a scrub read does with a unit (R306, R436, R438): corrections are counted and written back; an uncorrectable unit is
poisoned, and an item with cause 7 names its holder and sets the memory bit. -/
def State.scrubUnit (s : State) (u : Nat) (rep : DeviceReport) : State :=
  let s := s.show u rep
  let c := s.checkUnit u
  if c.cause = some 2 then s
  else
    let t := s.noteUnit u c
    match c.cause with
    | none => t
    | some _ =>
      let (cl, ix) := storeOf (u * 64)
      (t.raiseReport { Report.of cUncorrectable 0 (uncDetail (u * 64) 7) cl ix with partition := s.holderOf (u * 64) }).setGlobalFault 13

/-- A step of an idle port (R297, R302, R306): a read port scrubs its bank's next line, a write port writes a corrected line
back. -/
def State.idlePort (s : State) (bank : Nat) (write : Bool) (rep : DeviceReport) : State :=
  let g := bank / 16
  let s := s.count64 clsBank g 0x1130 1
  if write then
    match s.hyphae.correct.find? fun l => 256 * bitsOf (l * 128) 29 1 + bitsOf (l * 128) 7 8 == bank with
    | some l =>
      let s := (s.writeBack (2 * l)).writeBack (2 * l + 1)
      { s with hyphae := { s.hyphae with correct := s.hyphae.correct.filter (· != l) } }
    | none => s
  else
    let n := s.scrubbed (16 + bank)
    let u := lineAddr bank (n % 16384) / 64
    let before := s.groupPasses g
    let s := s.flipWords u rep.flips
    let clean : DeviceReport := { rep with flips := [] }
    let s := ((s.scrubUnit u clean).scrubUnit (u + 1) clean).setScrubbed (16 + bank) (n + 1)
    if s.groupPasses g = before then s else s.count32 clsBank g 0x1148 1

/-- A line of a bank as it stands. -/
def State.lineNow (s : State) (line cycle : Nat) : LineWas :=
  { line := line, cycle := cycle, bytes := sgets (fun _ => (0 : Byte)) s.mem (128 * line) 128
    flips := (List.range 32).map fun i => sget (fun _ => (0 : BitVec 40)) s.flips (32 * line + i)
    poison := (List.range 2).map fun i => sget (fun _ => false) s.poison (2 * line + i) }

/-- Put a line as it was. -/
def State.putLine (s : State) (l : LineWas) : State :=
  { s with mem := sputs (fun _ => (0 : Byte)) s.mem (128 * l.line) l.bytes
           flips := sputs (fun _ => (0 : BitVec 40)) s.flips (32 * l.line) l.flips
           poison := sputs (fun _ => false) s.poison (2 * l.line) l.poison }

/-- What a bank's line held before a write of this cycle. -/
def State.writtenNow (s : State) (bank line cycle : Nat) : Option LineWas :=
  ((s.hyphae.lineWas.find? fun e => e.1 == bank).map (·.2)).filter fun w => w.line == line && w.cycle == cycle

/-- A bank port moves one 128-byte line (R296): a read takes the whole line as it stood before a write of the same cycle, and a
write puts the bytes of the request that lie in the line. -/
def State.moveLine (s : State) (bank cycle : Nat) (r : StoreReq) : State :=
  let line := (s.resolve r.part r.addr).getD 0 / 128
  if r.write then
    let n := 128 - r.addr % 128
    let h := s.hyphae
    let s := { s with hyphae := { h with lineWas := (h.lineWas.filter fun (e : Nat × LineWas) => e.1 != bank) ++ [(bank, s.lineNow line cycle)] } }
    s.serve { r with data := r.data.take n, mask := r.mask.take n } (min n r.data.length)
  else
    let r := { r with addr := r.addr / 128 * 128 }
    match s.writtenNow bank line cycle with
    | some was => ((s.putLine was).serve r 128).putLine (s.lineNow line cycle)
    | none => s.serve r 128

/-- Serve one line at a bank port; a port serves at most one in a cycle (R302). -/
def State.servePort (s : State) (bank : Nat) (write : Bool) (cycle : Nat) (rep : DeviceReport) : State :=
  let k := 2 * bank + (if write then 1 else 0)
  let g := bank / 16
  if (s.hyphae.servedAt.find? fun e => e.1 == k).any fun e => decide (cycle ≤ e.2) then s
  else
  let s := { s with hyphae := { s.hyphae with servedAt := (s.hyphae.servedAt.filter fun (e : Nat × Nat) => e.1 != k) ++ [(k, cycle)] } }
  let q : List Waiting := ((s.hyphae.bankq.find? fun e => e.1 == k).map (·.2)).getD []
  let entry := (sget (fun _ => (0 : BitVec 16)) s.wheels ((2 * g + (if write then 1 else 0)) * 256 + cycle % 256)).toNat
  match choose entry cycle q with
  | none => s.idlePort bank write rep
  | some (r, i, how) =>
    let rest := q.eraseIdx i
    let others := s.hyphae.bankq.filter fun e => e.1 != k
    let s := { s with hyphae := { s.hyphae with bankq := if rest.isEmpty then others else others ++ [(k, rest)] } }
    let s := match how with
      | .owner => s.count64 clsBank g 0x1120 1
      | .age => s.countFlag clsBank g 0x110C 1 13
      | .arbiter => s.count64 clsBank g 0x1128 1
    let u := (s.resolve r.part r.addr).getD 0 / 128 * 2
    (s.flipWords u rep.flips).moveLine bank cycle r

def execBankPortServe (bank : Nat) (write : Bool) (cycle : Nat) (report : DeviceReport) (s : State) : Out :=
  onUnit (decide (bank < 512)) (s.servePort bank write cycle report)

/-! ### Memory controllers (R425, R426, R432, R435, R645) -/

/-- An HBM4 read that its stack or interface cannot deliver, or a write that fails its recheck: the unit is poisoned. -/
def State.deviceFault (s : State) (r : StoreReq) (u k : Nat) : State :=
  (((s.noteUnit u ⟨some k, 0⟩).replyWith r [] true)).reqUnc r (u, k)

/-- One access to one 64-byte unit at its controller, with what its device shows: a part of a unit is written after a read of the
unit, which the report concerns too (R426, R432). -/
def State.accessUnit (s : State) (r : StoreReq) (u : Nat) (rep : DeviceReport) : State :=
  let (cl, ix) := storeOf (u * 64)
  let (n, s) := s.freeNat
  let s := s.count64 cl ix 0x1148 n
  let n := if r.write then r.data.length else 64
  if s.staleReq r || (s.outOfReach r n).isSome then s.serve r n
  else if r.write && cl == clsStack && rep.recheckBad && !sget (fun _ => false) s.poison u then s.deviceFault r u 5
  else if r.write && coversUnit (r.cells.map (·.1)) (r.addr / 64) then s.serve r n
  else (s.show u rep).serve r n

/-- MEM_ACCESS: a request reaches the controller of its unit. A controller that is not ready serves nothing yet. -/
def State.memAccess (s : State) (r : StoreReq) (rep : DeviceReport) : State :=
  match s.resolve r.part r.addr with
  | none => s.reqOverflow r r.addr
  | some y =>
    if y < 0x4000_0000 then s.enqueue r
    else if !s.storeReady y then s
    else s.accessUnit r (y / 64) rep

def execMemAccess (r : StoreReq) (report : DeviceReport) (s : State) : Out := .next (s.memAccess r report)

/-- Whether a class and index name a memory controller. -/
def isController (cls index : Nat) : Bool := (cls == clsStack || cls == clsChannel) && decide (index < 8)

/-- Number of a controller: 0–7 stacks, 8–15 channels. -/
def controllerOf (cls index : Nat) : Nat := if cls = clsStack then index else 8 + index

/-- MEM_WRITEBACK (R436, R645): the corrected unit is written unless a request has written it meanwhile. -/
def execMemWriteback (cls index addr : Nat) (s : State) : Out :=
  onUnit (isController cls index)
    (let u := addr / 64
     if s.writebacks.contains u && storeOf (u * 64) == (cls, index) then
       { (s.writeBack u) with writebacks := s.writebacks.filter (· != u) }
     else s)

/-- Base address of a controller's memory. -/
def controllerBase (c : Nat) : Nat :=
  if c < 8 then 0x0100_0000_0000 + c * 0x0018_0000_0000 else 0x0200_0000_0000 + (c - 8) * 0x0040_0000_0000

/-- PATROL_SCRUB (R436 to R438): the next unit in ascending order, wrapping at the top, while scrubbing is enabled. -/
def State.patrol (s : State) (cls index : Nat) (rep : DeviceReport) : State :=
  let c := controllerOf cls index
  let ctl := (s.reg cls index 0x110C).toNat
  let units := s.memCap c * 2 ^ 24
  if s.memStateOf c != 3 || !bitAt ctl 31 || bitsOf ctl 0 16 == 0 || units == 0 then s
  else
    let n := s.scrubbed c
    let s := (s.scrubUnit (controllerBase c / 64 + n) rep).setScrubbed c ((n + 1) % units)
    if n + 1 = units then s.count32 cls index 0x1130 1 else s

def execPatrolScrub (cls index : Nat) (report : DeviceReport) (s : State) : Out :=
  onUnit (isController cls index) (s.patrol cls index report)

/-- MEM_REFRESH (R416): no contents and no register change. -/
def execMemRefresh (cls index : Nat) (s : State) : Out := onUnit (isController cls index) s

/-! ### Bring-up (R418, R419, R439, R441, R442) -/

/-- Every unit written with zero and a clear poison flag. -/
def State.fillMemory (s : State) (lo n : Nat) : State :=
  { s with mem := sclear (fun a => decide (lo ≤ a ∧ a < lo + n)) s.mem
           poison := sclear (fun u => decide (lo ≤ u * 64 ∧ u * 64 < lo + n)) s.poison
           flips := sclear (fun w => decide (lo ≤ w * 4 ∧ w * 4 < lo + n)) s.flips
           devErr := sclear (fun u => decide (lo ≤ u * 64 ∧ u * 64 < lo + n)) s.devErr }

/-- Set the state of a controller. -/
def State.setMemState (s : State) (c v : Nat) : State :=
  { s with pkg := { s.pkg with memState := sput (fun _ => 0) s.pkg.memState c v } }

/-- Whether every controller of a half is ready or failed. -/
def State.halfSettled (s : State) (h : Nat) : Bool :=
  (List.range 16).all fun c => c % 8 / 4 != h || s.memStateOf c == 3 || s.memStateOf c == 4

/-- The ready bits of the halves, and Memory_Active, which is set when mem_ready is set (R616). -/
def State.noteReady (s : State) : State :=
  { s with pkg := { s.pkg with
      half0Ready := s.pkg.half0Ready || s.halfSettled 0, half1Ready := s.pkg.half1Ready || s.halfSettled 1
      memActive := s.pkg.memActive || (s.halfSettled 0 && s.halfSettled 1) } }

/-- Whether a DIMM is one of the tier's one organisation and capacity, which the first channel accepted sets (R418; DESIGN CHOICE,
log entry 140). -/
def State.population (s : State) (cls : Nat) (t : Training) : Bool :=
  cls == clsStack || s.pkg.dimm.all (· == t.dimm)

/-- MEMORY_BRINGUP: a controller that is untrained is trained, tested and filled; one in self-refresh is retrained and keeps
its contents; one that fails is failed. -/
def State.bringUp (s : State) (cls index : Nat) (t : Training) : State :=
  let c := controllerOf cls index
  let was := s.memStateOf c
  if was != 0 && was != 5 then s
  else if !t.passes cls || !s.population cls t then s.setMemState c 4
  else
    let s := s.setMemState c 3
    let cap := t.capacityGiB cls
    let s := if was = 5 then s else
      { s.fillMemory (controllerBase c) (cap * 2 ^ 30) with pkg := { s.pkg with memCapacity := sput (fun _ => 0) s.pkg.memCapacity c cap } }
    if cls = clsStack then s
    else { s with pkg := { s.pkg with dimm := some t.dimm, ddrRate := if s.pkg.ddrRate = 0 then t.rate else min s.pkg.ddrRate t.rate } }

def execMemoryBringup (cls index : Nat) (t : Training) (s : State) : Out :=
  onUnit (isController cls index) (if s.pkg.pwrOk && !s.pkg.clocksStopped && !s.pkg.inWarmReset then (s.bringUp cls index t).noteReady else s)

end Sys2Proof.Machine
end

