-- ==== Sys2Proof/Machine/Copy.lean ====
section
/-! DEFINITION. The copy engine: MOVE with its shapes, layouts, formats, padding, checks and overlap rules (chapter 8),
and MULTICAST (R320 to R322, R391). -/

namespace Sys2Proof.Machine

/-! ### Copy shapes (R336, R337) -/

/-- A copy-shape record, dimension by dimension. -/
structure CopyShape where
  n : List Nat
  s : List Nat
  t : List Nat
  perm : List Nat
  pre : List Nat
  post : List Nat
  deriving DecidableEq, Repr

/-- Read a copy-shape record (copy-shape field map). -/
def copyShape (r : BitVec 512) : CopyShape :=
  let d := List.range 5
  { n := d.map fun i => field r (16 * i) 16
    s := d.map fun i => if i = 0 then 0 else field r (80 + 32 * (i - 1)) 32
    t := d.map fun i => if i = 0 then 0 else field r (208 + 32 * (i - 1)) 32
    perm := d.map fun i => field r (336 + 3 * i) 3
    pre := d.map fun i => field r (352 + 16 * i) 8
    post := d.map fun i => field r (360 + 16 * i) 8 }

def CopyShape.ext (x : CopyShape) (i : Nat) : Nat := x.n.getD i 1
def CopyShape.from (x : CopyShape) (i : Nat) : Nat := x.perm.getD i i
/-- Destination extent m[i]. -/
def CopyShape.m (x : CopyShape) (i : Nat) : Nat := x.ext (x.from i) + x.pre.getD i 0 + x.post.getD i 0

/-- Whether the copy permutes, and whether it transposes (R337). -/
def CopyShape.permuting (x : CopyShape) : Bool :=
  (List.range 5).any fun i => x.from i != i && decide (1 < x.ext (x.from i))
def CopyShape.transposing (x : CopyShape) : Bool := x.from 0 != 0
def CopyShape.padded (x : CopyShape) : Bool := (List.range 5).any fun i => x.pre.getD i 0 != 0 || x.post.getD i 0 != 0

/-- Indices of a run, dimension 1 fastest, by run number: [y1, y2, y3, y4]. -/
def runIndex (e : Nat → Nat) (k : Nat) : List Nat :=
  [k % e 1, k / e 1 % e 2, k / (e 1 * e 2) % e 3, k / (e 1 * e 2 * e 3)]

def runCount (e : Nat → Nat) : Nat := e 1 * e 2 * e 3 * e 4

/-! ### Sides -/

/-- One side of a MOVE after stream-relative resolution: the frond whose buffer it lies in (none: device memory), its
base, and the item it must stay in. -/
structure CopySide where
  buf : Option Nat
  base : Nat
  swz : Nat
  layout : Nat
  fmt : Nat
  item : Option (Nat × Nat)
  deriving DecidableEq, Repr

/-- The swizzle map (R344). -/
def swizzle (k a : Nat) : Nat := a ^^^ (((a >>> 13) &&& (2 ^ k - 1)) <<< 8)

/-- Bytes of one plane group: G of R340. -/
def planeGroup (fmt : Nat) : Nat := 32 * planesOf fmt

/-- Bytes of a run of n elements as stored. -/
def CopySide.runBytes (x : CopySide) (n : Nat) : Nat :=
  if x.layout = 2 then planeGroup x.fmt * cdiv n 256 else rowBytes x.fmt n

/-- Address of a run: base and strides of dimensions 1 to 4. -/
def CopySide.runAddr (x : CopySide) (stride : List Nat) (ix : List Nat) : Nat :=
  x.base + ((List.range 4).map fun i => ix.getD i 0 * stride.getD (i + 1) 0).sum

/-- A byte of a side (before its swizzle). -/
def State.sideByte (s : State) (p : Nat) (x : CopySide) (a : Nat) : Byte :=
  match x.buf with
  | some f => s.bufByte f (swizzle x.swz a)
  | none => s.devByte p (swizzle x.swz a)

/-- Element code k of a run at an address (R124, R337, R340). -/
def State.runCode (s : State) (p : Nat) (x : CopySide) (a k : Nat) : Nat :=
  if x.layout = 2 then
    let g := a + k / 256 * planeGroup x.fmt
    (List.range (planesOf x.fmt)).foldl (fun v b =>
      if (s.sideByte p x (g + 32 * b + k % 256 / 8)).getLsbD (k % 8) then v + 2 ^ b else v) 0
  else if x.fmt ≤ 1 then
    let v := (s.sideByte p x (a + k / 2)).toNat
    if k % 2 = 0 then v % 16 else v / 16
  else
    let w := codeBits x.fmt / 8
    let v := leNat ((rangeFrom (a + k * w) w).map (s.sideByte p x))
    if x.fmt = 2 then v % 64 else v

/-- Byte addresses an element occupies in its run. -/
def CopySide.elemBytes (x : CopySide) (a k : Nat) : List Nat :=
  if x.layout = 2 then
    (List.range (planesOf x.fmt)).map fun b => a + k / 256 * planeGroup x.fmt + 32 * b + k % 256 / 8
  else if x.fmt ≤ 1 then [a + k / 2]
  else rangeFrom (a + k * (codeBits x.fmt / 8)) (codeBits x.fmt / 8)

/-! ### Checks at the start -/

/-- Size that unaligned addresses must be multiples of (R356). -/
def alignUnit (unaligned : Bool) (x : CopySide) : Nat :=
  if unaligned then (if x.fmt ≤ 5 ∨ x.layout = 2 then 1 else codeBits x.fmt / 8) else 64

/-- First misalignment of one side, as (what, value): base, strides of dimensions 1 to 4, scale array (R355, R356,
R365; log entry 21: the order in which a MOVE's failures are reported). -/
def sideMisaligned (unaligned : Bool) (x : CopySide) (stride : List Nat) (ext : Nat → Nat) (scale : Nat) :
    Option (Nat × Nat) :=
  let u := alignUnit unaligned x
  let b := if x.layout = 1 then max u 256 else u
  if x.base % b ≠ 0 then some (0, x.base)
  else match (rangeFrom 1 4).find? fun i => decide (1 < ext i) && stride.getD i 0 % u != 0 with
    | some i => some (i, stride.getD i 0)
    | none => if scale % (if unaligned then 1 else 64) ≠ 0 then some (5, scale) else none

/-- Every byte address a source addresses. -/
def CopySide.srcBytes (x : CopySide) (h : CopyShape) : List Nat :=
  (List.range (runCount h.ext)).flatMap fun k => rangeFrom (x.runAddr h.s (runIndex h.ext k)) (x.runBytes (h.ext 0))

/-- Steps of a skewed panel (R129, R341 to R343). -/
def skewElems (fmt : Nat) (slot4 : Bool) : Nat := slotElems fmt (if slot4 then 2 else 0)
def skewPieces (fmt passes : Nat) : Nat := if fmt = 8 then (pieceOrder passes false).length else 1
def skewSteps (fmt passes : Nat) (slot4 : Bool) (m0 : Nat) : Nat := upTo 32 m0 * skewPieces fmt passes / skewElems fmt slot4
def skewLine (slot4 : Bool) : Nat := if slot4 then 512 else 256

/-- Panels of a skewed destination: their indices [y2, y3, y4]. -/
def panelIndex (h : CopyShape) (k : Nat) : List Nat := [k % h.m 2, k / h.m 2 % h.m 3, k / (h.m 2 * h.m 3)]
def panelCount (h : CopyShape) : Nat := h.m 2 * h.m 3 * h.m 4
def CopySide.panelAddr (x : CopySide) (h : CopyShape) (k : Nat) : Nat :=
  let ix := panelIndex h k
  x.base + ((List.range 3).map fun i => ix.getD i 0 * h.t.getD (i + 2) 0).sum

/-- Every byte address a destination addresses: pads, skew zeros and fill included (R358). -/
def CopySide.dstBytes (x : CopySide) (h : CopyShape) (b : MoveBody) : List Nat :=
  if x.layout = 1 then
    (List.range (panelCount h)).flatMap fun k =>
      rangeFrom (x.panelAddr h k) ((skewSteps x.fmt b.passes b.slot4 (h.m 0) + 127) * skewLine b.slot4)
  else
    (List.range (runCount h.m)).flatMap fun k => rangeFrom (x.runAddr h.t (runIndex h.m k)) (x.runBytes (h.m 0))

/-- Physical bytes of addresses of a side: mask windows and the interleaved alias resolved (R358). -/
def State.physOf (s : State) (p : Nat) (x : CopySide) (as : List Nat) : List Nat :=
  match x.buf with
  | some _ => as
  | none => as.filterMap (s.resolve (some p))

/-- Lowest and highest byte of a list. -/
def extentOf : List Nat → Option (Nat × Nat)
  | [] => none
  | a :: as => some (as.foldl (fun e x => (min e.1 x, max e.2 x)) (a, a))

/-- Lowest byte two extents share. -/
def overlapAt (a b : Option (Nat × Nat)) : Option Nat :=
  match a, b with
  | some a, some b => if max a.1 b.1 ≤ min a.2 b.2 then some (max a.1 b.1) else none
  | _, _ => none

/-- An exact in-place square transpose (R359): no two of its blocks share a byte. -/
def inPlaceTranspose (h : CopyShape) (src dst : CopySide) : Bool :=
  src.buf == dst.buf && src.base == dst.base && src.swz == dst.swz && h.s == h.t && h.perm == [1, 0, 2, 3, 4]
    && h.ext 0 == h.ext 1 && decide (h.ext 0 ≤ 64) && decide (codeBits src.fmt ≤ 32) && src.layout == 0 && dst.layout == 0
    && src.fmt == dst.fmt && !h.padded
    && (let runs := fun (k : Nat) => (List.range (h.ext 1)).map fun j =>
          src.runAddr h.s [j, k % h.ext 2, k / h.ext 2 % h.ext 3, k / (h.ext 2 * h.ext 3)]
        let n := src.runBytes (h.ext 0)
        let blocks := List.range (h.ext 2 * h.ext 3 * h.ext 4)
        blocks.all fun i => blocks.all fun j => decide (j ≤ i) ||
          (runs i).all fun x => (runs j).all fun y => decide (x + n ≤ y ∨ y + n ≤ x))

/-- A non-permuting copy that may overlap (R360). -/
def overlapAllowed (h : CopyShape) (src dst : CopySide) : Bool :=
  !h.permuting && !h.padded && src.layout == 0 && dst.layout == 0 && h.s == h.t && src.swz == dst.swz
    && codeBits src.fmt == codeBits dst.fmt

/-- The scale bytes a MOVE reads at its source, where it reads any (R349). -/
def CopySide.scaleSrc (x : CopySide) (b : MoveBody) (h : CopyShape) : List Nat :=
  if b.srcFmt != b.dstFmt && isShort x.fmt then rangeFrom b.srcScaleAddr (runCount h.ext * cdiv (h.ext 0) 32) else []

/-- The scale bytes a MOVE reads or writes at its destination, those of a bit-plane fill included (R340, R350). -/
def CopySide.scaleDst (x : CopySide) (b : MoveBody) (h : CopyShape) : List Nat :=
  if b.srcFmt != b.dstFmt && isShort x.fmt then
    let n := cdiv (h.m 0) 32
    let last := if x.layout = 2 ∧ !b.scaleSupplied then 8 * cdiv (h.m 0) 256 else n
    rangeFrom b.dstScaleAddr ((runCount h.m - 1) * n + last)
  else []

/-- The overlap of a MOVE's extents, if it is none of the allowed cases; and of its scale arrays (R358). -/
def State.moveOverlap (s : State) (p : Nat) (b : MoveBody) (h : CopyShape) (src dst : CopySide) : Option Nat :=
  let data := if src.buf == dst.buf then
      overlapAt (extentOf (s.physOf p src (src.srcBytes h))) (extentOf (s.physOf p dst (dst.dstBytes h b))) else none
  let scales := if src.buf == dst.buf && src.fmt != dst.fmt then
      overlapAt (extentOf (s.physOf p src (src.scaleSrc b h))) (extentOf (s.physOf p dst (dst.scaleDst b h)))
    else none
  match data with
  | some a => if inPlaceTranspose h src dst || overlapAllowed h src dst then scales else some a
  | none => scales

/-- First address of a side's scale array outside the frond buffer (R361). -/
def scaleBound (x : CopySide) (as : List Nat) : Option Nat :=
  if x.buf.isSome then as.find? fun a => decide (frondBytes ≤ a) else none

/-- First address of a side outside the frond buffer or outside its item (R361). -/
def sideBound (x : CopySide) (as : List Nat) : Option Nat :=
  let bad := fun (a : Nat) => (x.buf.isSome && decide (frondBytes ≤ a)) || (match x.item with
    | some (lo, n) => !decide (lo ≤ a ∧ a < lo + n)
    | none => false)
  as.find? bad

/-! ### Elements -/

/-- One destination element: its code's source (none for a pad), by source run and position, and where it goes. -/
structure CopyElem where
  src : Option (Nat × Nat)
  run : Nat
  pos : Nat
  deriving DecidableEq, Repr

/-- Source run number and position of the element at destination index (y0, ix); none for a pad (R337, R352). -/
def CopyShape.source (h : CopyShape) (y0 : Nat) (ix : List Nat) : Option (Nat × Nat) :=
  let y := fun (i : Nat) => if i = 0 then y0 else ix.getD (i - 1) 0
  if (List.range 5).any fun i => decide (y i < h.pre.getD i 0) || decide (h.ext (h.from i) ≤ y i - h.pre.getD i 0) then none
  else
    let x := fun (d : Nat) => match findIdxOpt (· == d) ((List.range 5).map h.from) with
      | some i => y i - h.pre.getD i 0
      | none => 0
    some (x 1 + h.ext 1 * (x 2 + h.ext 2 * (x 3 + h.ext 3 * x 4)), x 0)

/-- Destination elements in destination order, dimension 0 fastest (R338). -/
def CopyShape.elems (h : CopyShape) : List CopyElem :=
  (List.range (runCount h.m)).flatMap fun k => (List.range (h.m 0)).map fun y =>
    { src := h.source y (runIndex h.m k), run := k, pos := y }

/-- The code of a pad element (R352). -/
def padCode (fmt pad : Nat) : Nat :=
  if codeBits fmt ≤ 16 then (if fmt = 2 then pad % 64 else pad % 2 ^ codeBits fmt)
  else if fmt = 8 then Fmt.b32.encode (Fmt.bf16.decode pad) else 0

/-- Key of copy-engine generator g of a frond (R351). -/
def copyGen (f g : Nat) : Nat := 16640 + 256 * f + g

/-- Conversion of one value (R348): narrowing between integer formats wraps under wrap (R91); a float into i4 or i8 does
not (R74). -/
def copyConv (src dst scale : Nat) (r : Rounding) (wrap : Bool) (v : Val) : Conv :=
  match intWidth src, intWidth dst, v with
  | some _, some w, .fin .. =>
    if isShort dst && scale == 0xFF then scaledElem dst scale r wrap v
    else match roundInt r (if isShort dst then unscale scale v else v) with
      | some z => ⟨narrowInt w wrap z, !wrap && saturatesInt w z, false⟩
      | none => ⟨0, false, true⟩
  | _, _, _ => scaledElem dst scale r wrap v

/-- Work of the conversions: codes by destination element, generators, counts and free values. -/
structure CopyAcc where
  codes : List (Nat × Nat × Nat)
  gens : List (Nat × Dword)
  index : Nat
  sat : Nat
  nans : Nat

/-- Value of a source element with its block scale (R349). -/
def State.srcValue (s : State) (p : Nat) (b : MoveBody) (h : CopyShape) (src : CopySide) (e : Nat × Nat) : Val :=
  let a := src.runAddr h.s (runIndex h.ext e.1)
  let v := decodeElem src.fmt (s.runCode p src a e.2)
  if isShort src.fmt then
    let plain := { src with layout := 0, swz := 0 }
    applyScale (s.sideByte p plain (b.srcScaleAddr + e.1 * cdiv (h.ext 0) 32 + e.2 / 32)).toNat v
  else v

/-- Block scales of a destination run: chosen (R71) or supplied (R350). -/
def State.dstScales (s : State) (p : Nat) (b : MoveBody) (h : CopyShape) (src dst : CopySide) (k : Nat) : List Nat :=
  let n := cdiv (h.m 0) 32
  (List.range n).map fun blk =>
    if b.scaleSupplied then
      (s.sideByte p { dst with layout := 0, swz := 0 } (b.dstScaleAddr + k * n + blk)).toNat
    else
      chooseScale dst.fmt ((List.range 32).map fun j =>
        if 32 * blk + j < h.m 0 then
          match h.source (32 * blk + j) (runIndex h.m k) with
          | some e => s.srcValue p b h src e
          | none => .zero
        else .zero)

/-- Convert one element (R347, R348, R350, R351, R352). A code that is carried unchanged keeps every bit, those above a W48
value too (R347 before R100: DEDUCED, log entry 122). A converted element draws whether or not it needs rounding (log entry
121). A NaN under supplied scales leaves them as they are (R350; DEDUCED, log entry
149), and its code in f4 or f6 is free (log entry 5). -/
def State.copyElem (s : State) (p f : Nat) (b : MoveBody) (h : CopyShape) (src dst : CopySide)
    (scales : List (List Nat)) (a : CopyAcc) (e : CopyElem) : CopyAcc :=
  match e.src with
  | none => { a with codes := a.codes ++ [(e.run, e.pos, padCode dst.fmt b.padValue)] }
  | some x =>
    if src.fmt = dst.fmt then
      let c := s.runCode p src (src.runAddr h.s (runIndex h.ext x.1)) x.2
      { a with codes := a.codes ++ [(e.run, e.pos, c)], index := a.index + 1 }
    else
      let (rnd, gens) := drawRound a.gens (copyGen f (a.index % 256)) b.numctl
      let sc := (scales.getD e.run []).getD (e.pos / 32) 0x7F
      let v := s.srcValue p b h src x
      let c := copyConv src.fmt dst.fmt sc rnd (ncWrap b.numctl) v
      { a with codes := a.codes ++ [(e.run, e.pos, c.code)]
               gens := gens, index := a.index + 1, sat := a.sat + (if c.saturated then 1 else 0)
               nans := a.nans + (if c.nanToInt then 1 else 0) }

/-- Code of element y of destination run k. -/
def CopyAcc.code (a : CopyAcc) (k y : Nat) : Nat :=
  ((a.codes.find? fun c => c.1 == k && c.2.1 == y).map (·.2.2)).getD 0

/-! ### Destination bytes -/

/-- Bytes of a linear run of codes (R124, R354). -/
def linearBytes (fmt : Nat) (codes : List Nat) : List Byte :=
  if fmt ≤ 1 then
    (List.range (cdiv codes.length 2)).map fun j =>
      BitVec.ofNat 8 (codes.getD (2 * j) 0 % 16 + codes.getD (2 * j + 1) 0 % 16 * 16)
  else codes.flatMap fun c => leBytes (codeBits fmt / 8) (if fmt = 2 then c % 64 else c)

/-- What position x of the reduction of a slot holds: a code, or a piece of a binary32 element (R130, R343). -/
def skewCode (b : MoveBody) (fmt m0 : Nat) (codeAt_ : Nat → Nat) (x : Nat) : Nat :=
  if fmt = 8 then
    let ps := pieceOrder b.passes b.pieceRole
    let blk := x / (32 * ps.length)
    let y := 32 * blk + x % 32
    if y < m0 then Fmt.bf16.encode (pieceOf (ps.getD (x / 32 % ps.length) 0) (Fmt.b32.decode (codeAt_ y))) else 0
  else if x < m0 then codeAt_ x else 0

/-- The bytes of one slot of a panel line: e elements from position k on. -/
def slotBytesOf (fmt e : Nat) (codeAt_ : Nat → Nat) (k : Nat) : List Byte :=
  if fmt ≤ 1 then linearBytes 0 ((List.range 4).map fun j => codeAt_ (k + j))
  else if fmt ≤ 5 then (List.range 2).map fun j => BitVec.ofNat 8 (codeAt_ (k + j))
  else (List.range e).flatMap fun j => leBytes 2 (codeAt_ (k + j))

/-- One panel, line by line (R341, R342). -/
def panelOf (b : MoveBody) (h : CopyShape) (fmt : Nat) (a : CopyAcc) (k : Nat) : List Byte :=
  let n := skewSteps fmt b.passes b.slot4 (h.m 0)
  let e := skewElems fmt b.slot4
  let w := if b.slot4 then 4 else 2
  (List.range (n + 127)).flatMap fun l => (List.range 128).flatMap fun j =>
    if j < h.m 1 ∧ j ≤ l ∧ l - j < n then
      slotBytesOf fmt e (skewCode b fmt (h.m 0) fun y => a.code (k * h.m 1 + j) y) ((l - j) * e)
    else List.replicate w 0

/-- Cells of the destination's data, in the order they are written (before the swizzle). -/
def CopySide.dataCells (x : CopySide) (b : MoveBody) (h : CopyShape) (a : CopyAcc) (reverse : Bool) : List (Nat × Byte) :=
  if x.layout = 1 then
    (List.range (panelCount h)).flatMap fun k => cellsAt (x.panelAddr h k) (panelOf b h x.fmt a k)
  else
    let runs := (List.range (runCount h.m)).flatMap fun k =>
      let codes := (List.range (h.m 0)).map fun y => a.code k y
      cellsAt (x.runAddr h.t (runIndex h.m k)) (if x.layout = 2 then packCodes x.fmt codes else linearBytes x.fmt codes)
    if reverse then runs.reverse else runs

/-- Cells of the scale bytes a MOVE writes (R350); a block wholly in a bit-plane fill takes 0x7F (R340; log entry 22:
a later run's own scale stands where the two meet). -/
def CopySide.scaleCells (x : CopySide) (b : MoveBody) (h : CopyShape) (scales : List (List Nat)) : List (Nat × Byte) :=
  if b.scaleSupplied then []
  else
    let n := cdiv (h.m 0) 32
    scales.zipIdx.flatMap fun sk =>
      let fill := if x.layout = 2 then List.replicate (8 * cdiv (h.m 0) 256 - n) 0x7F else []
      cellsAt (b.dstScaleAddr + sk.2 * n) ((sk.1 ++ fill).map (BitVec.ofNat 8))

/-! ### The descriptor -/

/-- Resolve a side of a MOVE (R333, R334). -/
def State.moveSide (s : State) (i : Issue) (addr frond : Nat) (space rel : Bool) (layout swz fmt : Nat) :
    Option CopySide :=
  if rel then
    match s.stream i.streamId with
    | none => none
    | some x =>
      let it := s.endItem i.streamId x i.frond i.seq
      some { buf := if x.ringInFrond then some x.ringFrond else none, base := it + addr, swz := swz, layout := layout
             fmt := fmt, item := some (it, 64 * x.itemUnits) }
  else some { buf := if space then some frond else none, base := addr, swz := swz, layout := layout, fmt := fmt, item := none }

/-- First source byte that cannot be read, in destination order of elements, with the elements before it. -/
inductive ReadBad where
  | outside (a : Nat)
  | unit_ (u cause : Nat)
  | buffer (a cause : Nat)
  deriving DecidableEq, Repr

/-- The hyphal requests that cover a run of n bytes from a: whole 64-byte units, at most eight to a request; the manual says
what the largest holds, and not how a longer run is cut (R319, R357; DEDUCED, log entry 132). First unit and units of each. -/
def runRequests (a n : Nat) : List (Nat × Nat) :=
  if n = 0 then []
  else
    let us := (a + n - 1) / 64 - a / 64 + 1
    (List.range (cdiv us 8)).map fun k => (a / 64 + 8 * k, min 8 (us - 8 * k))

/-- The runs of a source, as address and bytes. -/
def CopySide.srcRuns (x : CopySide) (h : CopyShape) : List (Nat × Nat) :=
  (List.range (runCount h.ext)).map fun k => (x.runAddr h.s (runIndex h.ext k), x.runBytes (h.ext 0))

/-- The runs of a destination; of a skewed one its panels. -/
def CopySide.dstRuns (x : CopySide) (h : CopyShape) (b : MoveBody) : List (Nat × Nat) :=
  if x.layout = 1 then
    (List.range (panelCount h)).map fun k => (x.panelAddr h k, (skewSteps x.fmt b.passes b.slot4 (h.m 0) + 127) * skewLine b.slot4)
  else (List.range (runCount h.m)).map fun k => (x.runAddr h.t (runIndex h.m k), x.runBytes (h.m 0))

/-- A scale array as one run. -/
def oneRun (as : List Nat) : List (Nat × Nat) :=
  match as with
  | [] => []
  | a :: _ => [(a, as.length)]

/-- The bytes of each hyphal request of a MOVE of frond f, its reads before its writes (R335, R357): a side in the frond's own
buffer makes none. -/
def moveRequests (f : Nat) (b : MoveBody) (h : CopyShape) (src dst : CopySide) : List Nat :=
  let bytes : CopySide → List (Nat × Nat) → List Nat := fun x runs =>
    if x.buf == some f then [] else (runs.flatMap fun r => runRequests r.1 r.2).map fun q => 64 * q.2
  bytes src (src.srcRuns h ++ oneRun (src.scaleSrc b h)) ++ bytes dst (dst.dstRuns h b ++ oneRun (dst.scaleDst b h))

/-- What stops the reading of one byte of a side. -/
def State.byteBad (s : State) (p : Nat) (x : CopySide) (a : Nat) : Option ReadBad :=
  let a := swizzle x.swz a
  match x.buf with
  | some f => (s.bufBad f [a]).map fun k => .buffer k.1 k.2
  | none => match s.reach p false a with
    | none => some (.outside a)
    | some y => (s.checkUnit (y / 64)).cause.map fun k => .unit_ (y / 64) k

/-- The requests of a MOVE read whole units of device memory: each counts its bytes in ledger 0x5, and corrects what it finds
(R297, R335, R357). -/
def State.noteReads (s : State) (p : Nat) (x : CopySide) (runs : List (Nat × Nat)) : State :=
  match x.buf with
  | some _ => s
  | none => (runs.flatMap fun r => runRequests r.1 r.2).foldl (fun s q =>
      (s.readPhys (some p) ((rangeFrom (64 * q.1) (64 * q.2)).filterMap fun a => s.reach p false (swizzle x.swz a))).state) s

/-- A write request of a MOVE covers whole units: ledger 0x5 counts their bytes, of which `cells` are written (R335, R357). -/
def State.noteUnits (s : State) (p : Nat) (cells : List (Nat × Byte)) : State :=
  let as := cells.filterMap fun c => s.reach p true c.1
  (unitsOf as).foldl (fun s u =>
    let st := storeOf (64 * u)
    let n := 64 - (as.filter fun a => a / 64 == u).length
    (s.ledMake p 5 (st.1 * 256 + st.2) n).ledTake p 5 (st.1 * 256 + st.2) n) s

/-- Write cells of a side; the writes before the first that faults stand. -/
def State.writeSide (s : State) (p f desc : Nat) (x : CopySide) (cells : List (Nat × Byte)) : State × Bool :=
  let cells := cells.map fun c => (swizzle x.swz c.1, c.2)
  match x.buf with
  | some g => s.bufPutFor p g desc (wholeBytes cells)
  | none => (s.noteUnits p cells).writeFor p clsFrond f desc cells

/-- Misaligned runs (R356): the runs of either side that start off a 64-byte boundary; a run is of one side (R337). -/
def misRuns (h : CopyShape) (b : MoveBody) (src dst : CopySide) : Nat :=
  ((src.srcRuns h ++ dst.dstRuns h b).filter fun r => r.1 % 64 != 0).length

/-- One request of a frond's hyphal port, ready `gap` cycles after the regulator's last: in each cycle the bucket takes rate / 256
tokens up to burst, and the request issues once the bucket holds its bytes. The regulator afterwards, and the cycles the
request is held (R318, R319). -/
def Regulator.pass (r : Regulator) (gap bytes : Nat) : Regulator × Nat :=
  let full := 256 * r.burst
  let t := min full (r.tokens + r.rate * gap)
  let n := cdiv (256 * bytes - t) r.rate
  ({ r with tokens := min full (t + r.rate * n) - 256 * bytes }, n)

/-- Requests in order, with the cycles between them. -/
def Regulator.passAll (r : Regulator) : List Nat → List Nat → Regulator × Nat
  | [], _ => (r, 0)
  | q :: qs, gaps =>
    let a := r.pass (max 1 (gaps.headD 1)) q
    let b := Regulator.passAll a.1 qs (gaps.drop 1)
    (b.1, a.2 + b.2)

/-- The requests of a MOVE or MULTICAST take their tokens, and REG_STALL counts the cycles they are held (R318, R319). -/
def State.useRegulator (s : State) (f : Nat) (requests gaps : List Nat) : State :=
  let r := (s.frond f).regulator.passAll requests gaps
  (s.modFrond f fun x => { x with regulator := r.1 }).count32 clsFrond f 0x1184 r.2

/-- Detail of a MISALIGNED record (R365). -/
def misDetail (dst : Bool) (what shape value : Nat) : Nat :=
  (if dst then 2 ^ 63 else 0) + what * 2 ^ 60 + shape % 256 * 2 ^ 48 + value % 2 ^ 48

/-- Raise what stopped a read (R28, R364, R434). -/
def State.raiseRead (s : State) (p f desc : Nat) : ReadBad → State
  | .outside a => s.raiseOverflow p 1 a clsFrond f desc
  | .unit_ u k => (s.noteUnit u { cause := some k, corrected := 0 }).raiseUnc p clsFrond f desc (u, k)
  | .buffer a k => s.raiseBufBad p f desc (a, k)

/-- At its own frond a MOVE addresses banks as the copy engine, at another's through the hyphal port (R120). -/
def copyBank (f : Nat) : Nat → Option BankUser := fun g => some (if g = f then .copy else .port)

/-- Run a MOVE whose start checks have passed. -/
def State.moveData (s : State) (p : Nat) (i : Issue) (b : MoveBody) (h : CopyShape) (src dst : CopySide) :
    State × Option JobBody :=
  let f := i.frond
  let reverse := overlapAllowed h src dst && decide (src.base < dst.base) &&
    (src.buf == dst.buf && (overlapAt (extentOf (s.physOf p src (src.srcBytes h))) (extentOf (s.physOf p dst (dst.dstBytes h b)))).isSome)
  let elems := if reverse then h.elems.reverse else h.elems
  let convert := src.fmt != dst.fmt
  let scales := if convert && isShort dst.fmt then (List.range (runCount h.m)).map (s.dstScales p b h src dst) else []
  let bytesOf := fun (e : CopyElem) => match e.src with
    | some x => src.elemBytes (src.runAddr h.s (runIndex h.ext x.1)) x.2
    | none => []
  let s0 := s
  let a := elems.foldl (s0.copyElem p f b h src dst scales)
    { codes := [], gens := s.gens, index := 0, sat := 0, nans := 0 }
  let cells := dst.dataCells b h a reverse
  let scaleReads := src.scaleSrc b h
  let plainSrc := { src with layout := 0, swz := 0 }
  let plainDst := { dst with layout := 0, swz := 0 }
  let dstScaleReads := if convert && isShort dst.fmt && b.scaleSupplied then
      rangeFrom b.dstScaleAddr (runCount h.m * cdiv (h.m 0) 32) else []
  let firstBad := (elems.findSome? fun e => (bytesOf e).findSome? (s.byteBad p src)).orElse fun _ =>
    (scaleReads.findSome? (s.byteBad p plainSrc)).orElse fun _ => dstScaleReads.findSome? (s.byteBad p plainDst)
  let s := (s.countStalls (copyBank f) i.contests).count64 clsFrond f 0x11B0 i.cycles
  let s := if h.transposing then s.count32 clsFrond f 0x11C4 (stallCount (ownBank f .copy) i.contests) else s
  let requests := moveRequests f b h src dst
  match firstBad with
  | some bad =>
    -- how many requests it made before it stopped is open too
    let (n, s) := s.freeNat
    let s := s.useRegulator f (requests.take (n % (requests.length + 1))) i.gaps
    -- what the MOVE wrote before it stopped: an open number of the cells of the elements before the bad one, none of a
    -- 64-byte unit that the bad word reaches (R28, R364; log entry 24)
    let before := (elems.takeWhile fun e => (bytesOf e).all fun x => (s0.byteBad p src x).isNone).length
    let safe := if dst.layout = 0 && !convert then
        let whole := cells.take (before * codeBits dst.fmt / 8)
        let reached := (cells.drop (before * codeBits dst.fmt / 8)).map fun c => c.1 / 64
        whole.filter fun c => !reached.contains (c.1 / 64)
      else []
    let (n, s) := s.freeNat
    let (s, _) := s.writeSide p f i.addr dst (safe.take (n % (safe.length + 1)))
    (s.raiseRead p f i.addr bad, none)
  | none =>
    let s := s.useRegulator f requests i.gaps
    let s := ((s.noteReads p src (src.srcRuns h)).noteReads p plainSrc (oneRun scaleReads)).noteReads p plainDst (oneRun dstScaleReads)
    let s := { s with gens := a.gens }
    match s.writeSide p f i.addr dst cells with
    | (s, false) => (s, none)
    | (s, true) =>
      let (s, ok) := if convert && isShort dst.fmt then s.writeSide p f i.addr plainDst (dst.scaleCells b h scales) else (s, true)
      let s := ((s.count64 clsFrond f 0x11A0 cells.length).count32 clsFrond f 0x11BC a.sat).count32 clsFrond f 0x11C0 a.nans
      let s := if b.unaligned then s.count32 clsFrond f 0x11B8 (misRuns h b src dst) else s
      (s, if ok then some .move else none)

/-- MOVE: the start checks (R355, R358, R361), then the data. -/
def runMove (i : Issue) (b : MoveBody) : Run := fun p _ _ s =>
  let f := i.frond
  let h := copyShape (sget (fun _ => (0 : BitVec 512)) s.shapeTab (256 * f + b.shape))
  match s.storeFault p f i.addr .shapes (rangeFrom (16 * b.shape) 16) with
  | some t => (t, none)
  | none =>
  match s.moveSide i b.srcAddr b.srcFrond b.srcSpace b.srcRel b.srcLayout b.srcSwz b.srcFmt,
        s.moveSide i b.dstAddr b.dstFrond b.dstSpace b.dstRel b.dstLayout b.dstSwz b.dstFmt with
  | some src, some dst =>
    match sideMisaligned b.unaligned src h.s h.ext b.srcScaleAddr, sideMisaligned b.unaligned dst h.t h.m b.dstScaleAddr with
    | some (w, v), _ => (s.descFault p cMisaligned 0 (misDetail false w b.shape v) clsFrond f i.addr, none)
    | none, some (w, v) => (s.descFault p cMisaligned 0 (misDetail true w b.shape v) clsFrond f i.addr, none)
    | none, none =>
      match s.moveOverlap p b h src dst with
      | some a => (s.descFault p cOverlap 0 (b.shape % 256 * 2 ^ 48 + a % 2 ^ 48) clsFrond f i.addr, none)
      | none =>
        match ((sideBound src (src.srcBytes h)).orElse fun _ => sideBound dst (dst.dstBytes h b)).orElse fun _ =>
            (scaleBound src (src.scaleSrc b h)).orElse fun _ => scaleBound dst (dst.scaleDst b h) with
        | some a => (s.raiseOverflow p 2 a clsFrond f i.addr, none)
        | none => s.moveData p i b h src dst
  | _, _ => (s, none)

/-- R362: the copy engine holds at most two MOVEs. -/
def State.moveWait (s : State) (f : Nat) : Option Wait :=
  if 2 ≤ ((s.frond f).jobs.filter fun j => j.body == .move).length then some .engine else none

def execMove (i : Issue) (b : MoveBody) (s : State) : Out :=
  issueRow s i (isMove b) (b.wf && i.seq == .fetch) (fun _ s => s.moveWait i.frond) (runMove i b)

/-- A MOVE completes when every earlier MOVE has (R363). -/
def execMoveComplete (f id : Nat) (s : State) : Out :=
  completeRow s f id fun j s => match j.body with
    | .move =>
      match (s.frond f).jobs.find? fun x => x.body == .move with
      | some x => if x.id = j.id then some (s.count32 clsFrond f 0x11A8 1) else none
      | none => none
    | _ => none

/-! ### MULTICAST -/

/-- Stream of each destination (R320). -/
def multiStreams (i : Issue) (b : MulticastBody) : List Nat :=
  if b.streamed then (List.range (destsOf b.destMask).length).map fun j => i.streamId + j else []

/-- R320: a streamed MULTICAST waits until every destination stream holds a FREED credit. -/
def State.multicastWait (s : State) (i : Issue) (b : MulticastBody) : Option Wait :=
  (multiStreams i b).findSome? fun n => match s.stream n with
    | some x => if x.freed = 0 then some (.credit n) else none
    | none => none

/-- Take one FREED credit of each stream: counted as completed in ledger 0x1 (R53, R320). -/
def State.takeCredits (s : State) (p : Nat) (ns : List Nat) : State :=
  ns.foldl (fun s n => match s.stream n with
    | some x => (s.setStream n (some { x with freed := x.freed - 1, claimed := x.claimed + 1 })).ledTake p 1 n 1
    | none => s) s

/-- The units of a MULTICAST's source, read for their copies: a unit with an uncorrectable error stops it (R435), and a poisoned
one is carried, so that its consumers meet the poison (R434). The bytes, and the places of the poisoned units. -/
def State.multicastRead (s : State) (p f desc a n : Nat) : State × Option (List Byte × List Nat) :=
  match s.firstBad p false (rangeFrom a n) with
  | some x => (s.raiseOverflow p 1 x clsFrond f desc, none)
  | none =>
    let phys := (rangeFrom a n).map fun x => (s.reach p false x).getD 0
    let causes := (List.range (n / 64)).map fun k => (k, phys.getD (64 * k) 0 / 64, (s.checkUnit (phys.getD (64 * k) 0 / 64)).cause)
    let r := s.readPhys (some p) phys
    match causes.find? fun c => c.2.2.isSome && c.2.2 != some 2 with
    | some (_, u, k) => (r.state.raiseUnc p clsFrond f desc (u, k.getD 1), none)
    | none => (r.state, some (r.bytes, (causes.filter fun c => c.2.2 == some 2).map (·.1)))

/-- The MULTICAST's data (R320, R321); a skipped one moves none (R391). -/
def State.multicastData (s : State) (p : Nat) (i : Issue) (b : MulticastBody) : State × Bool :=
  let f := i.frond
  let ds := destsOf b.destMask
  -- every destination takes the lines through its hyphal port (R120)
  let s := (s.useRegulator f ((runRequests b.srcAddr b.length).map fun q => 64 * q.2) i.gaps).countStalls (fun g => if ds.contains g then some .port else none) i.contests
  match s.multicastRead p f i.addr b.srcAddr b.length with
  | (s, none) => (s, false)
  | (s, some (bytes, poisoned)) =>
    let ns := multiStreams i b
    ds.zipIdx.foldl (fun (a : State × Bool) dj =>
      if !a.2 then a
      else
        let s := a.1
        let base := match ns[dj.2]? with
          | some n => match s.stream n with
            | some x => s.endItem n x f i.seq + b.dstAddr
            | none => b.dstAddr
          | none => b.dstAddr
        match s.bufPutFor p dj.1 i.addr (wholeBytes (cellsAt base bytes)) with
        | (s, false) => (s, false)
        | (s, true) => (poisoned.foldl (fun s k => s.poisonBuf dj.1 (base / 64 + k)) s, true)) (s, true)

def runMulticast (i : Issue) (b : MulticastBody) : Run := fun p _ _ s =>
  let s := s.takeCredits p (multiStreams i b)
  match s.multicastData p i b with
  | (s, false) => (s, none)
  | (s, true) => (s, some (.multicast b i.streamId))

/-- A skipped MULTICAST with streamed set takes its credits and signals empty tokens (R391). -/
def skipMulticast (i : Issue) (b : MulticastBody) : Run := fun p _ _ s =>
  if b.streamed then (s.takeCredits p (multiStreams i b), some (.multicast b i.streamId)) else (s, none)

def execMulticast (i : Issue) (b : MulticastBody) (s : State) : Out :=
  issueRowWith (s.arrive i.arriving) i (isMulticast b) (b.wf && i.seq == .fetch) (fun _ s => s.multicastWait i b) (skipMulticast i b) (runMulticast i b)

/-- A MULTICAST completes when every destination has acknowledged its last line; with streamed set it signals one
FILLED on each stream (R320, R321). -/
def execMulticastComplete (f id : Nat) (s : State) : Out :=
  completeRow s f id fun j s => match j.body with
    | .multicast b base =>
      match s.ownerOf f with
      | none => some s
      | some p => some
          (if b.streamed then
            (List.range (destsOf b.destMask).length).foldl (fun s k => s.sendSignal p f .fetch id (.filled (base + k)) 1) s
          else s)
    | _ => none

end Sys2Proof.Machine
end

