-- ==== Sys2Proof/Machine/Pliund.lean ====
section
/-! DEFINITION. Pliund: ports and frames (R484 to R490), routes (R492 to R496), peers and epochs (R497 to R501),
collectives (R502 to R507) and BIND packets (R511 to R513). -/

namespace Sys2Proof.Machine

/-! ### Ports -/

/-- PLN_CTRL and its fields. -/
def offPlnCtrl : Nat := 0x110C
def State.portEnabled (s : State) (i : Nat) : Bool := (s.reg clsPort i offPlnCtrl).getLsbD 0
def State.portLoops (s : State) (i : Nat) : Bool := (s.reg clsPort i offPlnCtrl).getLsbD 2

/-- Whether a port carries traffic: it is up and not looped back. -/
def State.portUp (s : State) (i : Nat) : Bool := (s.port i).state == 2 && !s.portLoops i

/-- The Filene's own logical ID: the self entry's, or 0xFFFF (R492). -/
def State.ownId (s : State) : Nat :=
  match s.routes.find? (·.self) with
  | some r => r.chip
  | none => 0xFFFF


/-- The port a packet for a chip leaves by (R493). -/
def State.portTo (s : State) (chip : Nat) : Option Nat :=
  match s.routeTo chip with
  | none => none
  | some r => if s.portUp r.port then some r.port else if r.altValid && s.portUp r.altPort then some r.altPort else none

/-- The 16-byte header of a packet (packet-header field map), least significant byte first (R6). -/
def packetHeader (pk : Packet) : List Byte :=
  leBytes 16 (pk.dstChip * 2 ^ 112 + pk.srcChip * 2 ^ 96 + pk.dstEpoch * 2 ^ 80 + pk.srcEpoch * 2 ^ 64 + pk.dstPartition * 2 ^ 60
    + pk.srcPartition * 2 ^ 56 + pk.kind * 2 ^ 52 + pk.hops * 2 ^ 48 + pk.channel * 2 ^ 40 + pk.units * 2 ^ 35 + pk.offset)

/-- The CRC-64 over the header and payload of a packet's frame (R485). -/
def packetCrc (pk : Packet) : BitVec 64 := Config.crc64 (packetHeader pk ++ pk.payload)

/-- A payload in whole 64-byte units. -/
def wholeUnits (bs : List Byte) : List Byte := bs ++ List.replicate (p64 bs.length - bs.length) 0

/-- The acknowledgement that a frame carries: the sequence of the last frame taken of the reverse direction (R485, R487). -/
def Port.lastTaken (x : Port) : Nat := (x.expected + 65535) % 65536

/-- Whether the bytes of a packet count in ledger 0x5 of its sending partition (R62): DATA, HEALTH, and the MIRROR packets that
carry the partition's epoch (R551). Forwarded packets count in none (R494). -/
def State.countsBytes (s : State) (pk : Packet) : Bool :=
  pk.srcChip == s.ownId && pk.hops == 15 && (decide (pk.kind ≤ 1) || (pk.kind == 5 && pk.srcEpoch != 0))

/-- A port frames a packet, sends it and keeps it in its replay buffer until acknowledged (R485, R487). The bytes of a
partition's packet count in ledger 0x5 at the port (R62). -/
def State.launch (s : State) (i : Nat) (pk : Packet) (job : Option (Nat × Nat)) : State :=
  let s := s.modPort i fun x =>
    { x with replay := x.replay ++ [{ linkSeq := x.nextSeq, packet := pk, ack := x.lastTaken, crc := packetCrc pk, resends := 0, job := job }]
             nextSeq := (x.nextSeq + 1) % 65536 }
  let s := s.count64 clsPort i 0x1118 (64 * pk.units)
  if s.countsBytes pk then s.ledMake pk.srcPartition 5 (clsPort * 256 + i) (64 * pk.units) else s

/-- Frames that a replay buffer holds (R487). -/
def replayFrames : Nat := 256

/-- Hand a packet to a port: it is sent while the replay buffer has room for its frame, and otherwise waits. -/
def State.frameOut (s : State) (i : Nat) (pk : Packet) (job : Option (Nat × Nat)) : State :=
  let x := s.port i
  if x.waiting.isEmpty && decide (x.replay.length < replayFrames) then s.launch i pk job
  else s.setPort i { x with waiting := x.waiting ++ [(pk, job)] }

/-- Send what waits at a port as far as its replay buffer has room. -/
def State.pump (s : State) (i : Nat) : State :=
  let x := s.port i
  let n := replayFrames - x.replay.length
  (x.waiting.take n).foldl (fun s w => s.launch i w.1 w.2) (s.setPort i { x with waiting := x.waiting.drop n })

/-- Count a packet that is not sent or is dropped, in PLN_NO_ROUTE. Where no entry names a port, which port counts it is
not stated and is free (log entry 32). -/
def State.noRoute (s : State) (chip : Nat) : State :=
  match s.routeTo chip with
  | some r => s.count32 clsPort r.port 0x1134 1
  | none =>
    let (n, s) := s.freeNat
    s.count32 clsPort (n % 16) 0x1134 1

/-- Send a packet by its route (R493); with the logical ID 0xFFFF nothing is sent (R492). -/
def State.sendPacket (s : State) (pk : Packet) (job : Option (Nat × Nat)) : State :=
  if s.ownId = 0xFFFF ∧ pk.kind ≠ 4 then s
  else match s.portTo pk.dstChip with
    | none => s.noRoute pk.dstChip
    | some i => s.frameOut i pk job

/-- A packet of partition p of this chip. -/
def State.packet (s : State) (p chip part epoch kind channel offset : Nat) (payload : List Byte) : Packet :=
  { dstChip := chip, srcChip := s.ownId, dstEpoch := epoch, srcEpoch := (s.part p).epoch.toNat, dstPartition := part
    srcPartition := p, kind := kind, hops := 15, channel := channel, units := cdiv payload.length 64, offset := offset
    payload := wholeUnits payload }

/-- A packet that serves no partition (packet-kind table). -/
def State.chipPacket (s : State) (chip kind : Nat) (payload : List Byte) : Packet :=
  { dstChip := chip, srcChip := s.ownId, dstEpoch := 0, srcEpoch := 0, dstPartition := 0, srcPartition := 0, kind := kind
    hops := 15, channel := 0, units := cdiv payload.length 64, offset := 0, payload := wholeUnits payload }

/-! ### Fills and ports that go down -/

/-- A fill that runs has lost its partner (R517): SPARE_ADOPT answers FAULTED with PEER_TIMEOUT; the model answers a
restore that waits for its partner so too. The manual does not say how the failure is found; the model finds it when no
port towards the partner is up (log entry 33). -/
def State.fillLost (s : State) : State :=
  let s := match s.pair.filling with
    | some (m, _, _) =>
      if (s.portTo s.pair.partner).isNone then
        { s with pair := { s.pair with filling := none, pending := none } }.answerFaulted m cPeerTimeout s.tickNow
      else s
    | none => s
  match s.pair.restoring with
  | some r =>
    if (s.portTo (s.part r.partition).protect.partner).isNone then
      { s with pair := { s.pair with restoring := none } }.answerFaulted r.mb cPeerTimeout s.tickNow
    else s
  | none => s

/-- A port goes down (R488, R489): LINK_DOWN with the port and the cause, and the link bit of GLOBAL_FAULT. Frames in its
replay buffer stay there until it retrains; packets that have not left go by their routes again (R493). -/
def State.portDown (s : State) (i cause : Nat) : State :=
  let w := (s.port i).waiting
  let s := s.modPort i fun x => { x with state := if cause = 4 then 3 else 0, waiting := [] }
  let s := (w.foldl (fun s e => s.sendPacket e.1 e.2) s).setBit clsPort i offStatus 13
  ((s.raiseReport (Report.of cLinkDown 0 (i * 2 ^ 60 + cause * 2 ^ 56) clsPort i)).setGlobalFault 11).fillLost

def execPlnLaneLockLoss (i : Nat) (s : State) : Out :=
  onUnit (decide (i < 16)) (if (s.port i).state = 2 then s.portDown i 2 else s)

def execPlnAckSilence (i : Nat) (s : State) : Out :=
  onUnit (decide (i < 16)) (if (s.port i).state = 2 then s.portDown i 3 else s)

/-- The reset domain of a port: its lanes and its replay buffer, whose frames are discarded (R531). -/
def Port.clearLink (x : Port) : Port := { x with nextSeq := 0, expected := 0, replay := [] }

/-- An enabled port that is down retrains (R490). -/
def execPlnRetrain (i : Nat) (s : State) : Out :=
  onUnit (decide (i < 16))
    (if s.portEnabled i && (s.port i).state == 0 then s.modPort i fun x => { x.clearLink with state := 1 } else s)

/-- Four locked lanes and a measured link delay bring the port up (R490, R510). -/
def execPlnTrainingComplete (i delay : Nat) (s : State) : Out :=
  onUnit (decide (i < 16))
    (if (s.port i).state = 1 then
      (s.modPort i fun x => { x with state := 2 }).setReg clsPort i 0x1114 (BitVec.ofNat 64 (delay % 2 ^ 32))
    else s)

/-- A write of PLN_CTRL's enable bit; refused while the port serves a running partition (R518). -/
def State.writeEnable (s : State) (i : Nat) (on : Bool) : State :=
  let c := s.reg clsPort i offPlnCtrl
  let v := if on then c ||| 1 else c &&& ~~~1
  if s.unitRunning clsPort i then s.refuseLive clsPort i offPlnCtrl v.toNat
  else
    let s := s.setReg clsPort i offPlnCtrl v
    let st := (s.port i).state
    if on then if st = 3 then s.modPort i fun x => { x.clearLink with state := 0 } else s
    else if st = 3 then s
    else if st = 2 then s.portDown i 4
    else s.modPort i fun x => { x with state := 3 }

def execPlnPortDisable (i : Nat) (s : State) : Out := onUnit (decide (i < 16)) (s.writeEnable i false)
def execPlnPortEnable (i : Nat) (s : State) : Out := onUnit (decide (i < 16)) (s.writeEnable i true)

/-! ### Collectives -/

/-- The peer entry of partition p for a chip and partition, when announced: the epoch it holds. -/
def State.peerEpoch (s : State) (p chip part : Nat) : Option Nat :=
  ((s.part p).peers.find? fun x => x.chip == chip && x.partition == part && x.announced).map (·.epoch)

/-- Replace what a frond's engine holds of a job. -/
def State.setJob (s : State) (f id : Nat) (b : JobBody) : State :=
  s.modFrond f fun x => { x with jobs := x.jobs.map fun j => if j.id = id then { j with body := b } else j }

/-- Cut bytes into the payloads of DATA packets: 1,024 bytes, the last possibly shorter (R502). -/
def payloads : Nat → List Byte → List (List Byte)
  | 0, _ => []
  | n + 1, bs => if bs.isEmpty then [] else bs.take 1024 :: payloads n (bs.drop 1024)

/-- How many packets a REDUCE_SEND sends. -/
def sendPackets (b : SendBody) : Nat := cdiv b.length 1024 + (if b.withHealth then 1 else 0)

/-- The bytes of the frond buffer that a REDUCE_SEND reads. -/
def sendReads (b : SendBody) : List Nat :=
  rangeFrom b.srcAddr b.length ++ (if b.withHealth then rangeFrom b.healthAddr 32 else [])

/-- Send the partial, and the health word after it (R502). -/
def State.sendPartial (s : State) (p f id : Nat) (b : SendBody) (epoch : Nat) : State :=
  let s := (payloads (cdiv b.length 1024) (s.bufRead f b.srcAddr b.length)).zipIdx.foldl
    (fun s d => s.sendPacket (s.packet p b.dstChip b.dstPartition epoch 0 b.channel (16 * d.2) d.1) (some (f, id))) s
  if b.withHealth then
    s.sendPacket (s.packet p b.dstChip b.dstPartition epoch 1 b.channel 0
      (s.bufRead f b.healthAddr 32 ++ List.replicate 32 0)) (some (f, id))
  else s

/-- A REDUCE_SEND goes on once its peer is announced and a CLEAR for its chip, partition and channel has been taken in
(R501, R502). -/
def State.trySend (s : State) (p f : Nat) (j : Job) (b : SendBody) : State :=
  match s.peerEpoch p b.dstChip b.dstPartition,
      s.clears.find? (fun c => c.1 == p && c.2.1 == b.dstChip && c.2.2.1 == b.dstPartition && c.2.2.2.1 == b.channel) with
  | some e, some c =>
    let s := { s with clears := dropFirst (· == c) s.clears }
    if 64 * c.2.2.2.2 ≠ b.length then
      s.descFault p cOverflow 4 (b.channel * 2 ^ 56 + c.2.2.2.2 % 2 ^ 32) clsFrond f j.addr
    else match s.bufFault p f j.addr (sendReads b) with
      | some s => s
      | none => (s.setJob f j.id (.send b true 0 s.tickNow)).sendPartial p f j.id b e
  | some _, none => s
  | none, _ => s

/-- A REDUCE_RECV sends its CLEAR once its peer is announced (R503). -/
def State.tryClear (s : State) (p f : Nat) (j : Job) (b : RecvBody) : State :=
  match s.peerEpoch p b.srcChip b.srcPartition with
  | some e =>
    (s.setJob f j.id (.recv b true [] false s.tickNow)).sendPacket
      (s.packet p b.srcChip b.srcPartition e 2 b.channel (b.length / 64) []) none
  | none => s

/-- Let every collective of partition p that waits go on where it can. -/
def State.wakeCollectives (s : State) (p : Nat) : State :=
  (frondsOf (s.part p).fronds).foldl (fun s f =>
    (s.frond f).jobs.foldl (fun s j => match j.body with
      | .send b false _ _ => s.trySend p f j b
      | .recv b false _ _ _ => s.tryClear p f j b
      | _ => s) s) s

/-- REDUCE_SEND (R502). -/
def runSend (b : SendBody) : Run := fun _ _ _ s => (s, some (.send b false 0 s.tickNow))

/-- REDUCE_RECV (R503). -/
def runRecv (b : RecvBody) : Run := fun _ _ _ s => (s, some (.recv b false [] false s.tickNow))

/-- A collective starts as soon as it has been issued. -/
def State.afterIssue (f : Nat) : Out → Out
  | .next s => match s.workOf f with
    | some p => .next (s.wakeCollectives p)
    | none => .next s
  | o => o

def execReduceSend (i : Issue) (b : SendBody) (s : State) : Out :=
  State.afterIssue i.frond (issueRow s i (isSend b) (b.wf && i.seq == .execute) noWait (runSend b))

def execReduceRecv (i : Issue) (b : RecvBody) (s : State) : Out :=
  State.afterIssue i.frond (issueRow s i (isRecv b) (b.wf && i.seq == .execute) noWait (runRecv b))

/-- Complete once every packet has been acknowledged (R502). -/
def execReduceSendComplete (f id : Nat) (s : State) : Out :=
  completeRow s f id fun j s => match j.body with
    | .send b true n _ => if sendPackets b ≤ n then some s else none
    | _ => none

/-- Whether a REDUCE_RECV holds every byte, sum and health word. -/
def recvDone (b : RecvBody) (landed : List Nat) (health : Bool) : Bool :=
  decide (b.length / 64 ≤ landed.length) && (!b.withHealth || health)

/-- Complete once every byte has landed, every sum is written and the health word is merged (R503). -/
def execReduceRecvComplete (f id : Nat) (s : State) : Out :=
  completeRow s f id fun j s => match j.body with
    | .recv b true landed h _ => if recvDone b landed h then some s else none
    | _ => none

/-- One add of a REDUCE_RECV (R503, R504): the received element plus the local one, rounded to nearest even in fmt,
converted to out_fmt under numctl with the draw of its column's lane. -/
def State.reduceElem (s : State) (f : Nat) (b : RecvBody) (g : List (Nat × Dword)) (k code : Nat) :
    List ByteWrite × List (Nat × Dword) :=
  let w := codeBits b.fmt / 8
  let t := if b.fmt = 9 then 3 else 0
  let fm := if b.fmt = 9 then Fmt.w48 else Fmt.b32
  let sum := typeValOf t (addCode t fm code (s.bufNat f (b.localAddr + w * k) w))
  let (r, g) := if b.outFmt = 9 then (.nearest, g) else drawRound g (f * 128 + k % 128) b.numctl
  let c := if b.outFmt = 9 then Fmt.w48.encode sum else (convElem b.outFmt r false sum).code
  (elemWrites b.outFmt b.outAddr k c, g)
where
  /-- Value of a code of binary32 or W48. -/
  typeValOf (t code : Nat) : Val := if t = 3 then decodeW48 code else Fmt.b32.decode (code % 2 ^ 32)
  /-- The code of the rounded sum. -/
  addCode (t : Nat) (fm : Fmt) (a b : Nat) : Nat := fm.encode (fm.rn (Val.add false (typeValOf t a) (typeValOf t b)))

/-- The adds of one DATA packet that covers bytes [at, at + n) of the transfer. -/
def State.reduceAdds (s : State) (p f desc : Nat) (b : RecvBody) (at_ n : Nat) : State :=
  let w := codeBits b.fmt / 8
  match s.bufFault p f desc (rangeFrom (b.localAddr + at_) n) with
  | some s => s
  | none =>
    let r := (rangeFrom (at_ / w) (n / w)).foldl
      (fun (a : List ByteWrite × List (Nat × Dword)) k =>
        let x := s.reduceElem f b a.2 k (s.bufNat f (b.dstAddr + w * k) w)
        (a.1 ++ x.1, x.2))
      ([], s.gens)
    ({ s with gens := r.2 }.bufPutFor p f desc r.1).1

/-- A DATA packet lands in a REDUCE_RECV (R503). -/
def State.landData (s : State) (p f : Nat) (j : Job) (b : RecvBody) (landed : List Nat) (h : Bool) (pk : Packet) : State :=
  if b.length < 64 * (pk.offset + pk.units) then
    s.descFault p cOverflow 4 (b.channel * 2 ^ 56 + (pk.offset + pk.units) % 2 ^ 32) clsFrond f j.addr
  else match s.bufPutFor p f j.addr (wholeBytes (cellsAt (b.dstAddr + 64 * pk.offset) pk.payload)) with
    | (s, false) => s
    | (s, true) =>
      let s := s.setJob f j.id (.recv b true ((rangeFrom pk.offset pk.units).foldl (fun l u => insertNat u l) landed) h s.tickNow)
      if b.op = 1 then s.reduceAdds p f j.addr b (64 * pk.offset) (64 * pk.units) else s

/-- A HEALTH packet is merged with the local word (R503, R281). -/
def State.landHealth (s : State) (p f : Nat) (j : Job) (b : RecvBody) (landed : List Nat) (pk : Packet) : State :=
  match s.bufFault p f j.addr (rangeFrom b.healthAddr 32) with
  | some s => s
  | none =>
    let w := mergeHealth (s.bufNat f b.healthAddr 32) (leNat (pk.payload.take 32))
    match s.bufPutFor p f j.addr (wholeBytes (cellsAt b.healthAddr (leBytes 32 w))) with
    | (s, true) => s.setJob f j.id (.recv b true landed true s.tickNow)
    | (s, false) => s

/-- The REDUCE_RECV of partition p that a packet is for. -/
def State.receiver (s : State) (p : Nat) (pk : Packet) : Option (Nat × Job × RecvBody × List Nat × Bool) :=
  (frondsOf (s.part p).fronds).findSome? fun f => (s.frond f).jobs.findSome? fun j => match j.body with
    | .recv b true l h _ =>
      if b.srcChip = pk.srcChip ∧ b.srcPartition = pk.srcPartition ∧ b.channel = pk.channel then some (f, j, b, l, h) else none
    | _ => none

/-! ### Taking packets in -/

/-- A packet dropped under R500: PLN_EPOCH_STALE counts it, and the tick edge posts the tick's count. -/
def State.dropPacket (s : State) (i : Nat) : State :=
  (s.countFlag clsPort i 0x1130 1 12).modPort i fun x => { x with staleCount := x.staleCount + 1 }

/-- The four conditions of R500. -/
def State.takesIn (s : State) (pk : Packet) : Bool :=
  let x := s.part pk.dstPartition
  x.active && pk.dstEpoch == x.epoch.toNat && s.peerEpoch pk.dstPartition pk.srcChip pk.srcPartition == some pk.srcEpoch

/-- PLN_RX_BYTES counts the payload of packets taken in or forwarded. -/
def State.countTaken (s : State) (i : Nat) (pk : Packet) : State := s.count64 clsPort i 0x1120 (64 * pk.units)

/-- A row of one packet kind: the packet is the next one taken in at the port; it leaves the port, and `run` is what it
does. -/
def packetRow (s : State) (i kind : Nat) (pk : Packet) (run : State → State) : Out :=
  onUnit (decide (i < 16))
    (match (s.port i).inbox with
     | h :: r => if h = pk ∧ pk.kind = kind then run (s.modPort i fun x => { x with inbox := r }) else s
     | [] => s)

/-- The same for kinds 0 to 2, under the epoch checks. -/
def checkedRow (s : State) (i kind : Nat) (pk : Packet) (run : State → State) : Out :=
  packetRow s i kind pk fun s => if s.takesIn pk then run (s.countTaken i pk) else s.dropPacket i

/-- DATA (R503). A packet that no REDUCE_RECV waits for changes nothing (log entry 34). -/
def execData (i : Nat) (pk : Packet) (s : State) : Out :=
  checkedRow s i 0 pk fun s => match s.receiver pk.dstPartition pk with
    | some (f, j, b, l, h) => s.landData pk.dstPartition f j b l h pk
    | none => s

/-- HEALTH (R503). -/
def execHealthPacket (i : Nat) (pk : Packet) (s : State) : Out :=
  checkedRow s i 1 pk fun s => match s.receiver pk.dstPartition pk with
    | some (f, j, b, l, _) => if b.withHealth then s.landHealth pk.dstPartition f j b l pk else s
    | none => s

/-- CLEAR (R502). -/
def execClear (i : Nat) (pk : Packet) (s : State) : Out :=
  checkedRow s i 2 pk fun s =>
    { s with clears := s.clears ++ [(pk.dstPartition, pk.srcChip, pk.srcPartition, pk.channel, pk.offset)] }.wakeCollectives
      pk.dstPartition

/-- Send one ANNOUNCE to a peer (R498, R499); its dst_epoch is the epoch of the peer entry. -/
def State.announceTo (s : State) (p : Nat) (x : Peer) (answer : Bool) : State :=
  s.sendPacket (s.packet p x.chip x.partition x.epoch 3 (if answer then 1 else 0) 0 []) none

/-- At its start tick edge a partition announces itself to every peer (R498). -/
def State.announceAll (s : State) (p : Nat) : State := (s.part p).peers.foldl (fun s x => s.announceTo p x false) s

/-- The far end's ID is learned from a packet that has not been forwarded. -/
def State.learnId (s : State) (i : Nat) (pk : Packet) (chip : Nat) : State :=
  if pk.hops = 15 then s.setReg clsPort i 0x113C (BitVec.ofNat 64 (chip % 65536)) else s

/-- ANNOUNCE (R498, R499). -/
def State.announced (s : State) (i : Nat) (pk : Packet) : State :=
  let s := s.learnId i pk pk.srcChip
  let p := pk.dstPartition
  let x := s.part p
  match x.peers.find? fun y => y.chip == pk.srcChip && y.partition == pk.srcPartition with
  | none => s
  | some y =>
    if x.state == .free then s
    else
      let y' := { y with announced := true, epoch := pk.srcEpoch }
      let s := s.modPart p fun x => { x with peers := x.peers.map fun z => if z = y then y' else z }
      let s := if x.plan.isSome && pk.channel % 2 == 0 then s.announceTo p y' true else s
      s.wakeCollectives p

def execAnnounce (i : Nat) (pk : Packet) (s : State) : Out := packetRow s i 3 pk fun s => s.announced i pk

/-! ### Frames -/

/-- The reverse direction acknowledges every frame up to `ack`: its bytes are completed in ledger 0x5 and its
REDUCE_SEND counts it (R487, R502, R62); what waits for their places is sent. -/
def State.acknowledge (s : State) (i ack : Nat) : State :=
  match findIdxOpt (fun (e : Sent) => e.linkSeq == ack) (s.port i).replay with
  | none => s
  | some n =>
    let done := (s.port i).replay.take (n + 1)
    (done.foldl (fun s e =>
      if !s.countsBytes e.packet || e.packet.srcEpoch ≠ (s.part e.packet.srcPartition).epoch.toNat then s
      else
        let s := s.ledTake e.packet.srcPartition 5 (clsPort * 256 + i) (64 * e.packet.units)
        match e.job with
        | some (f, id) => s.modFrond f fun x =>
            { x with jobs := x.jobs.map fun j => match j.body with
                | .send b true k t => if j.id = id then { j with body := .send b true (k + 1) t } else j
                | _ => j }
        | none => s) (s.modPort i fun x => { x with replay := x.replay.drop (n + 1) })).pump i

/-- A frame that the far end discarded is sent again and counted; after eight resends of one frame have failed the port
goes down (R487, R488). Which frames fail at the far end is free (log entry 35). -/
def State.maybeResend (s : State) (i : Nat) : State :=
  match (s.port i).replay with
  | [] => s
  | e :: r =>
    let (b, s) := s.freeBool
    if !b then s
    else if 8 ≤ e.resends then s.portDown i 1
    else (s.modPort i fun x => { x with replay := { e with resends := e.resends + 1, ack := x.lastTaken } :: r }).count32 clsPort i 0x112C 1

/-- A recheck mismatch in a port (R486): UNCORRECTABLE with source 4 and cause 5, of the partition that the packet serves here; with
none, the memory bit. -/
def State.portUnc (s : State) (i : Nat) (p : Option Nat) : State :=
  let r := Report.of cUncorrectable 0 (4 * 2 ^ 60 + 5 * 2 ^ 56 + i * 2 ^ 52) clsPort i
  match p with
  | some q => if (s.part q).active then s.raiseStop q r false else (s.raiseReport r).setGlobalFault 13
  | none => (s.raiseReport r).setGlobalFault 13

/-- The partition of this chip that a packet taken in, or one sent, serves. -/
def State.servedBy (s : State) (pk : Packet) : Option Nat := if pk.dstChip = s.ownId ∧ pk.kind ≤ 2 then some pk.dstPartition else none
def State.sentBy (s : State) (pk : Packet) : Option Nat :=
  if pk.srcChip = s.ownId ∧ (pk.kind ≤ 3 ∨ s.countsBytes pk) then some pk.srcPartition else none

/-- Frames whose words failed the recheck as they were sent (R486). -/
def State.sentRechecks (s : State) (i : Nat) (bad : List Nat) : State :=
  ((s.port i).replay.filter fun e => bad.contains e.linkSeq).foldl (fun s e => s.portUnc i (s.sentBy e.packet)) s

/-- Whether a frame passes: its FEC codewords are correctable, its CRC is that of its header and payload, and its payload fills its
units, 16 at most (R485, R487). -/
def frameOk (f : PlnFrame) : Bool :=
  f.fecOk && decide (f.packet.payload.length = 64 * f.packet.units ∧ f.packet.units ≤ 16) && f.crc == packetCrc f.packet

/-- A packet that has passed its port's checks: taken in, forwarded with hops lowered, or dropped (R494; packet-kind
table). One of kinds 0 to 2 is taken in only under R500, when its row comes. -/
def State.deliver (s : State) (i : Nat) (pk : Packet) : State :=
  if 7 ≤ pk.kind then s.count32 clsPort i 0x1134 1
  else if pk.dstChip = s.ownId ∨ pk.kind = 4 then
    (if pk.kind ≤ 2 then s else s.countTaken i pk).modPort i fun x => { x with inbox := x.inbox ++ [pk] }
  else if 0 < pk.hops then
    (if s.ownId ≠ 0xFFFF ∧ (s.portTo pk.dstChip).isSome then s.countTaken i pk else s).sendPacket { pk with hops := pk.hops - 1 } none
  else s.count32 clsPort i 0x1134 1

/-- PLN_FRAME_RECEIVE (R485 to R487): frames are delivered in sequence order; one that fails its CRC is discarded. -/
def State.receiveFrame (s : State) (i : Nat) (f : PlnFrame) : State :=
  if !s.portUp i then s
  else
    let s := (s.count32 clsPort i 0x1128 f.fecCorrected).sentRechecks i f.sentBad
    if !frameOk f then s
    else
      let s := (s.acknowledge i f.ack).maybeResend i
      if f.linkSeq ≠ (s.port i).expected then s
      else
        let s := s.modPort i fun x => { x with expected := (x.expected + 1) % 65536 }
        if f.recheckBad then s.portUnc i (s.servedBy f.packet) else s.deliver i f.packet

def execPlnFrameReceive (i : Nat) (f : PlnFrame) (s : State) : Out := onUnit (decide (i < 16)) (s.receiveFrame i f)

/-! ### Waiting on a peer -/

/-- What a collective waits for (R507): 1 CLEAR, 2 DATA, 3 HEALTH, 4 announce; with its peer, channel and since when. -/
def State.peerWait (s : State) (p : Nat) (j : Job) : Option (Nat × Nat × Nat × Nat × Nat) :=
  match j.body with
  | .send b false _ t =>
    some (if (s.peerEpoch p b.dstChip b.dstPartition).isNone then 4 else 1, b.dstChip, b.dstPartition, b.channel, t)
  | .recv b c l h t =>
    if (s.peerEpoch p b.srcChip b.srcPartition).isNone || !c then some (4, b.srcChip, b.srcPartition, b.channel, t)
    else if l.length < b.length / 64 then some (2, b.srcChip, b.srcPartition, b.channel, t)
    else if b.withHealth && !h then some (3, b.srcChip, b.srcPartition, b.channel, t)
    else none
  | _ => none

/-- N of R506: the timeout of the port that the route entry names, or the smallest of the 16. -/
def State.peerTimeout (s : State) (chip : Nat) : Nat :=
  let n := fun i => (s.reg clsPort i 0x1110).toNat % 256
  match s.routeTo chip with
  | some r => n r.port
  | none => (List.range 16).foldl (fun a i => min a (n i)) 255

/-- PEER_TIMEOUT (R506, R507): in an open guard, a wait that spans its N-th tick edge stops the partition at that edge. -/
def State.raisePeer (s : State) (f id : Nat) : State :=
  if !s.tick.guardOpen then s
  else match s.workOf f, (s.frond f).job id with
    | some p, some j => match s.peerWait p j with
      | some (w, chip, part, ch, t) =>
        if s.peerTimeout chip ≤ s.tickNow + 1 - t then
          s.raiseStop p { Report.of cPeerTimeout 0 (chip % 2 ^ 16 * 2 ^ 48 + part % 16 * 2 ^ 44 + ch % 256 * 2 ^ 36 + w * 2 ^ 32) clsFrond f with
            desc := some j.addr, tick := some (s.tickNow + 1) } true
        else s
      | none => s
    | _, _ => s

def execPeerTimeout (f id : Nat) (s : State) : Out := onUnit (decide (f < 128)) (s.raisePeer f id)

/-! ### The pair -/

/-- The payload of a BIND: logical ID, FEED_ID, mode and serial, placed as log entry 36 says. -/
def State.bindPayload (s : State) (coFed : Bool) : List Byte :=
  leBytes 2 s.ownId ++ [BitVec.ofNat 8 s.pkg.feedId.toNat, if coFed then 1 else 0] ++ leBytes 4 0
    ++ leBytes 8 s.indus.serial ++ List.replicate 48 0

/-- Send a BIND by a port that is up. -/
def State.sendBind (s : State) (i chip : Nat) (coFed : Bool) : State :=
  if s.portUp i then s.frameOut i (s.chipPacket chip 4 (s.bindPayload coFed)) none else s

/-- Whether two FEED_IDs force co-fed mode (R512). -/
def forcedCoFed (a b : Nat) : Bool := a == b || a == 0 || b == 0

/-- A pair binds (R511 to R513). -/
def State.bindPair (s : State) (partner port1 port2 : Nat) (asked : Bool) (feed : Nat) : State :=
  let own := s.pkg.feedId.toNat
  let forced := forcedCoFed own feed
  let s := { s with pair := { s.pair with bound := true, coFed := asked || forced, partner := partner, port1 := port1, port2 := port2 } }
  if forced then s.raiseReport (Report.of cFeedShared 0 (feed * 16 + own) 0 0) else s

/-- The final answer of PAIR_BIND, or of a SPARE_ADOPT whose fill is done: FEED_SHARED when the FEED_IDs force co-fed
mode. -/
def State.answerBind (s : State) (m feed : Nat) (feedResult : Bool) : State :=
  let own := s.pkg.feedId.toNat
  let r := [BitVec.ofNat 8 own, BitVec.ofNat 8 feed]
  if forcedCoFed own feed then s.respond m stFeedShared r else s.ok m (if feedResult then r else [])

/-- Kind and length of a FILL request: the failed chip and the fill number (R516; log entry 37). -/
def fillRequest (chip n : Nat) : List Byte :=
  [0] ++ List.replicate 7 0 ++ leBytes 8 chip ++ leBytes 8 n ++ List.replicate 40 0

/-- A bind that waits completes when its BIND has been sent and the partner's has been taken in on its first port, before the
command or after it (R511; log entry 151). -/
def State.tryBind (s : State) : State :=
  match s.pair.pending with
  | none => s
  | some b =>
    if b.got.isSome || !b.sent then s
    else match s.pair.heard.find? fun h => h.1 == b.port1 && h.2.1 == b.partner with
      | none => s
      | some h =>
        let feed := h.2.2
        let s := s.bindPair b.partner b.port1 b.port2 b.coFedAsked feed
        let s := { s with pair := { s.pair with heard := s.pair.heard.filter (· != h) } }
        match b.fill with
        | none => { s with pair := { s.pair with pending := none } }.answerBind b.mb feed true
        | some n =>
          { s with pair := { s.pair with pending := some { b with got := some (BitVec.ofNat 4 feed) }
                                         filling := some (b.mb, s.ownId, n) } }.sendPacket
            (s.chipPacket b.partner 6 (fillRequest s.ownId n)) none

/-- BIND (R511 to R515): it is kept for the PAIR_BIND it answers; a bound partner answers the BIND of a spare that has
taken the chip's logical ID, on the ports its routes name. -/
def State.takeBind (s : State) (i : Nat) (pk : Packet) : State :=
  let chip := leNat (pk.payload.take 2)
  let feed := leNat ((pk.payload.drop 2).take 1) % 16
  let s := s.learnId i pk chip
  let routed := match s.routeTo chip with
    | some r => r.port == i || (r.altValid && r.altPort == i)
    | none => false
  if s.pair.bound && s.pair.partner == chip && s.pair.pending.isNone then
    if routed then (s.sendBind i chip s.pair.coFed).bindPair chip s.pair.port1 s.pair.port2 s.pair.coFed feed else s
  else
    { s with pair := { s.pair with heard := (i, chip, feed) :: s.pair.heard.filter (fun h => h.1 != i) } }.tryBind

def execBind (i : Nat) (pk : Packet) (s : State) : Out := packetRow s i 4 pk fun s => s.takeBind i pk

/-- 10 ms without a BIND from the partner: NO_PARTNER, with the first pair port (R511, R515). -/
def execPairBindTimeout (s : State) : Out :=
  .next (match s.pair.pending with
    | some b =>
      if b.got.isSome then s
      else { s with pair := { s.pair with pending := none } }.respond b.mb stNoPartner [BitVec.ofNat 8 b.port1]
    | none => s)

end Sys2Proof.Machine
end

