-- ==== Sys2Proof/Machine/Power.lean ====
section
/-! DEFINITION. Power shaping (R584 to R599), the emergency halving (R600 to R604) and temperature (R605, R606). Currents
are in mA; powers are priced at 0.80 V. -/

namespace Sys2Proof.Machine

/-! ### Levels -/

def State.currentOf (s : State) (k : Nat) : Nat := sget (fun _ => 0) s.power.current k
def State.targetOf (s : State) (k : Nat) : Nat := sget (fun _ => 0) s.power.target k
def State.holdOf (s : State) (k : Nat) : Nat := sget (fun _ => 0) s.power.hold k

/-- A power-profile record of a plan as a number (R375), for set, frame and tick. -/
def Plan.profile (pl : Plan) (set frame tick : Nat) : Nat :=
  leNat ((pl.power.drop (16 * ((set * pl.framesPerStep + frame) * pl.frameTicks + tick))).take 16)

/-- Peak and least current of a rail in A, from a profile record. -/
def profPeak (r rail : Nat) : Nat := bitsOf r (16 * rail) 16
def profLeast (r rail : Nat) : Nat := bitsOf r (32 + 16 * rail) 16

/-- A frond's share of a profile record's least current: divided equally among the partition's fronds on its rail (R593). -/
def Partition.share (x : Partition) (f rec_ : Nat) : Nat :=
  1000 * profLeast rec_ (f / 64) / ((frondsOf x.fronds).filter fun g => g / 64 == f / 64).length

/-- The hold level of a frond of a running partition in the present tick (R593). -/
def Partition.holdLevel (x : Partition) (f : Nat) : Nat :=
  match x.plan with
  | some pl => x.share f (pl.profile x.set x.frameIx x.frameTick)
  | none => 0

/-- The partition whose accepted start a frond awaits. -/
def State.startOf (s : State) (f : Nat) : Option Nat :=
  (s.ownerOf f).bind fun p => if (s.part p).start.isSome && !(s.part p).active then some p else none

/-- Whether a frond is free (R594): its partition neither runs nor stops, or it has none. -/
def State.frondFree (s : State) (f : Nat) : Bool :=
  match s.ownerOf f with
  | some p => !(s.part p).active
  | none => true

/-- Price a current in mA as mW at 0.80 V (R590). -/
def priced (ma : Nat) : Nat := ma * 4 / 5

/-- Ramp demands of the running and stopping partitions, in mW per tick, which is R592's sum times the tick period. -/
def State.demandsTick (s : State) : Nat := ((s.parts.filter fun e => e.2.active).map fun e => e.2.demand).sum

/-- Whether the running demands and `more`, both in mW per tick, exceed three quarters of a ramp (R592). -/
def State.overRamp (s : State) (ramp more : Nat) : Bool :=
  decide (750 * ramp * s.tick.period.toNat < 100000 * (s.demandsTick + more))

/-- The same sum in mW/ms, and the free ramp (R592). -/
def State.demands (s : State) : Nat := 100000 * s.demandsTick / s.tick.period.toNat
def State.freeRamp (s : State) : Nat := 1000 * s.power.ramp - s.demands

/-- Targets without a floor share (R594): an accepted start, a running partition, a hold level. None: a floor share. -/
def State.firmTarget (s : State) (f : Nat) : Option Nat :=
  match s.startOf f with
  | some p =>
    let x := s.part p
    (x.plan).map fun pl => x.share f (pl.profile x.set 0 0)
  | none =>
    if !s.frondFree f then (s.ownerOf f).map fun p => (s.part p).holdLevel f
    else if s.holdOf f ≠ 0 then some (s.holdOf f)
    else none

/-- Fronds that take part in the governor. -/
def State.governed (s : State) : List Nat := (List.range 128).filter fun f => !(s.frond f).retired

/-- What the governor wants each frond's target to be (R594). -/
def State.wanted (s : State) : List (Nat × Nat) :=
  let firm := s.governed.map fun f => (f, s.firmTarget f)
  let projected := 1000 * s.power.otherW + ((firm.filterMap (·.2)).map priced).sum
  let n := (firm.filter fun e => e.2.isNone).length
  let share := min 22000 ((1000 * s.power.floor - projected) * 5 / 4 / n)
  firm.map fun e => (e.1, e.2.getD share)

/-- Place of partition p's accepted start among the commands that wait, in the order they were taken (R596). -/
def State.startRank (s : State) (p : Nat) : Nat :=
  match (s.part p).start with
  | some (_, _, m) => (s.mbTaken.takeWhile (· != m)).length
  | none => 0

/-- A move of a free frond: from its present current to the wanted one, and the place of the accepted start it is for. -/
structure Move where
  frond : Nat
  present : Nat
  wanted : Nat
  rank : Option Nat
  deriving DecidableEq, Repr

def State.moves (s : State) : List Move :=
  (s.wanted.filter fun e => s.frondFree e.1).map fun e =>
    { frond := e.1, present := s.currentOf e.1, wanted := e.2, rank := (s.startOf e.1).map s.startRank }

/-- How far a move rises, or falls. -/
def Move.size (rise : Bool) (m : Move) : Nat := if rise then m.wanted - m.present else m.present - m.wanted

/-- Sum of the rises, or of the falls, of the moves that `sel` takes. -/
def sumMoves (rise : Bool) (sel : Move → Bool) (l : List Move) : Nat := ((l.filter sel).map (Move.size rise)).sum

/-- Whether a move goes before those of another rank: an accepted start's before those of starts accepted later, and before all
moves of no start (R595, R596). -/
def rankBefore (a b : Option Nat) : Bool :=
  match a, b with
  | some x, some y => decide (x < y)
  | some _, none => true
  | none, _ => false

/-- The governor's bound B as a current: free ramp × T (R595). -/
def State.bound (s : State) : Nat := s.freeRamp * s.tick.period.toNat / 80000

/-- Scale factor (numerator, denominator) of the moves of one rank: what the moves before them leave of what is allowed. -/
def scaleOf (allowed before own : Nat) : Nat × Nat :=
  if before + own ≤ allowed then (1, 1) else (allowed - before, max 1 own)

/-- One move, made in full or scaled (R595, R596); fractions of a mA are dropped. -/
def State.scaledMove (s : State) (l : List Move) (m : Move) : Nat :=
  let rise := decide (m.present ≤ m.wanted)
  let k := scaleOf (sumMoves (!rise) (fun _ => true) l + s.bound) (sumMoves rise (fun n => rankBefore n.rank m.rank) l)
    (sumMoves rise (fun n => n.rank == m.rank) l)
  if rise then m.present + m.size true * k.1 / k.2 else m.present - m.size false * k.1 / k.2

/-- GOVERNOR_TARGETS at a tick edge (R594, R595, R598). -/
def State.govern (s : State) : State :=
  let l := s.moves
  let tg := s.wanted.foldl (fun t e =>
    let v := match l.find? fun m => m.frond == e.1 with
      | some m => s.scaledMove l m
      | none => e.2
    sput (fun _ => 0) t e.1 v) ([] : List (Nat × Nat))
  let free := s.governed.filter s.frondFree
  let rest := 1000 * s.power.otherW + ((s.governed.filter fun f => !s.frondFree f).map fun f => priced (s.targetOf f)).sum
  let s' := { s with power := { s.power with target := tg } }
  if rest + free.length * priced 22000 < 1000 * s.power.floor then s'.setBit clsTuft 0 0x1120 26 else s'

/-- The least start tick of partition p (R596), with its start entered: the first tick edge by which the governor, moving
from the next edge on, has brought the partition's fronds, and those of starts accepted before, to their targets. -/
def State.leastStart (s : State) (p : Nat) : Nat :=
  let l := (s.modPart p fun x => { x with start := some (0, false, 0) }).moves
  let rs := sumMoves true (·.rank.isSome) l
  let first := s.bound + sumMoves false (fun _ => true) l
  s.tickNow + (if rs = 0 then 1 else if rs ≤ first then 2 else 2 + cdiv (rs - first) (max 1 s.bound))

/-! ### Estimates -/

/-- GOVERNOR_ESTIMATE (R584, R588, R589, R593, R597): the current follows the work, or the level the frond has to keep,
within the rise and fall of one 100 ns interval and the cap; how many cycles are withheld or filled is free (log entry 38). -/
def State.estimate (s : State) (isTuft : Bool) (ix activity : Nat) : State :=
  let k := if isTuft then 128 + ix else ix
  let (up, down, cap) := if isTuft then (650, 390, 11000) else (700, 420, 22000)
  let work := Config.currentOf isTuft activity
  let level := if isTuft then 0
    else if s.holdOf ix ≠ 0 then s.holdOf ix
    else if s.frondFree ix then s.targetOf ix
    else match s.ownerOf ix with
      | some p => (s.part p).holdLevel ix
      | none => 0
  let need := max work level
  let c := s.currentOf k
  let c' := min cap (min (c + up) (max (c - down) need))
  let t := if isTuft then ix else tuftOf ix
  let s := { s with power := { s.power with
    current := sput (fun _ => 0) s.power.current k c'
    estSum := if isTuft then s.power.estSum else sput (fun _ => 0) s.power.estSum k (sget (fun _ => 0) s.power.estSum k + c')
    estNum := if isTuft then s.power.estNum else sput (fun _ => 0) s.power.estNum k (sget (fun _ => 0) s.power.estNum k + 1) } }
  let s := if c' < work then
      let (n, s) := s.freeNat
      (s.count64 clsTuft t 0x1118 (n % 125 + 1)).setBit clsTuft t offStatus 12
    else s
  let s := if isTuft then s else { s with power := { s.power with
    ballast := if work < c' then insertNat ix s.power.ballast else s.power.ballast.filter (· != ix) } }
  if !isTuft && decide (work < c') then
    let (n, s) := s.freeNat
    s.count64 clsTuft t 0x1110 (n % 125 + 1)
  else s

def execGovernorEstimate (isTuft : Bool) (ix activity : Nat) (s : State) : Out :=
  onUnit (decide (ix < if isTuft then 16 else 128)) (s.estimate isTuft ix activity)

/-! ### Halving -/

/-- Whether the emergency halving is in force. -/
def Power.halving (x : Power) : Bool := x.step != 0 || x.direction != 0

/-- A cause has been detected (R600): halving begins outside a guard by its own row, or at the guard's tick edge. A
cause that arises while the clock is restored steps it back down from where it stands (R604). -/
def State.detect (s : State) (cause : Nat) : State :=
  let w := s.power
  if w.halving then
    { s with power := { w with causes := insertNat cause w.causes, direction := if w.direction < 0 then 1 else w.direction } }
  else if w.detected.isSome then s
  else { s with power := { w with detected := some cause } }

/-- Halving begins (R601, R603): the clock starts down, the entry is counted, and every running partition's frame counts
as overrun (R526). -/
def State.beginHalving (s : State) : State :=
  match s.power.detected with
  | none => s
  | some c =>
    let s := { s with
      power := { s.power with detected := none, firstCause := c, causes := [c], direction := 1 }
      parts := s.parts.map fun (e : Nat × Partition) => (e.1, if e.2.active then { e.2 with halvedMark := true } else e.2) }
    (s.count32 clsTuft 0 0x113C 1).setGlobalFault 8

def execEmergencyHalving (s : State) : Out := .next (if s.tick.guardOpen then s else s.beginHalving)

/-- CLOCK_STEP (R601): one of the eight steps down or up; at the last the stepping ends. -/
def Power.clockStep (x : Power) : Power :=
  if x.direction > 0 then { x with step := min 8 (x.step + 1), direction := if 8 ≤ x.step + 1 then 0 else 1 }
  else if x.direction < 0 then
    if x.step ≤ 1 then { x with step := 0, direction := 0, causes := [], firstCause := 0 } else { x with step := x.step - 1 }
  else x

def execClockStep (s : State) : Out := .next { s with power := s.power.clockStep }

/-- Every junction below a temperature in °C. -/
def Power.below (x : Power) (c : Int) : Bool := x.temps.all fun t => decide (t.2 < 8 * c)

/-- CLOCK_RESTORE (R604): every cause has been absent for 10 ms, for the thermal cause with every junction below
105 °C, and restoration begins. -/
def execClockRestore (s : State) : Out :=
  .next (if s.power.halving && (!s.power.causes.contains 4 || s.power.below 105) then
    { s with power := { s.power with direction := -1 } } else s)

/-- Which tuft of a rail or C-die raises a power or thermal fault is not stated (log entry 39). -/
def State.someTuft (s : State) (half : Nat) : Nat × State :=
  let (n, s) := s.freeNat
  (8 * half + n % 8, s)

/-- CURRENT_SAMPLE (R600): `amps` has stood for 1 µs, `slew` is the change in A/µs over 1 µs without the halving's own
steps, `meanW` the package power as a mean over 10 ms. -/
def State.sample (s : State) (rail amps : Nat) (slew : Int) (meanW : Nat) : State :=
  let w := s.power
  let s := { s with power := if rail = 0 then { w with sum0 := w.sum0 + amps, samples0 := w.samples0 + 1 }
                             else { w with sum1 := w.sum1 + amps, samples1 := w.samples1 + 1 } }
  let post := fun (s : State) (sub : Nat) =>
    let (t, s) := s.someTuft rail
    ((s.raiseReport (Report.of cPowerSlew sub (rail * 2 ^ 60 + slew.natAbs % 2 ^ 32) clsTuft t)).setGlobalFault 14).detect 1
  let s := if slew > 500 then post s 1 else if slew < -300 then post s 2 else s
  let s := if 1500 < amps then s.detect 2 else s
  if 2100 < meanW then s.detect 3 else s

def execCurrentSample (rail amps : Nat) (slew : Int) (meanW : Nat) (s : State) : Out :=
  onUnit (decide (rail < 2)) (s.sample rail amps slew meanW)

/-- TEMP_SAMPLE (R605): the sensor's reading, the tuft's hot bit at 100 °C, and the thermal cause at 110 °C. `tuft` is
the tuft of a C-die sensor and the point of another die's. -/
def State.senseTemp (s : State) (die tuft : Nat) (temp : Int) : State :=
  let s := { s with power := { s.power with temps := sput (fun _ => 0) s.power.temps (16 * die + tuft) temp } }
  let s := if die < 2 ∧ 800 ≤ temp then s.setBit clsTuft tuft offStatus 13 else s
  if 880 ≤ temp then s.detect 4 else s

def execTempSample (die tuft : Nat) (temp : Int) (s : State) : Out :=
  onUnit (decide (die < 5 ∧ tuft < 16 ∧ (die < 2 → tuft / 8 = die))) (s.senseTemp die tuft temp)

/-- THERMAL_TRIP (R527, R606): the arithmetic clock stops, the pin is asserted, the trip is recorded once for the package, as a fault
that stops every partition (R519), and once for each running or stopping partition, which enters faulted. -/
def State.trip (s : State) (die : Nat) (temp : Int) : State :=
  if s.pkg.thermalTrip || decide (temp < 920) then s
  else
    let s := { s with pkg := { s.pkg with thermalTrip := true, arithStopped := true } }
    let detail := die * 2 ^ 60 + unsignedOf 16 temp
    let (t, s) := if die < 2 then s.someTuft die else (0, s)
    let r := Report.of cThermal 0 detail (if die < 2 then clsTuft else 0) t
    let s := ((s.markUnit r.cls r.index r.code).postRecord { r with stops := true } false).setGlobalFault 15
    (List.range 16).foldl (fun s p =>
      if (s.part p).active then
        let s := s.raiseStop p r true
        s.faultNow p
      else s) s

def execThermalTrip (die : Nat) (temp : Int) (s : State) : Out := onUnit (decide (die < 5)) (s.trip die temp)

/-- VOLTAGE_MARGIN_LOSS (R583): the rail is to be raised at the next tick edge. -/
def execVoltageMarginLoss (rail : Nat) (s : State) : Out :=
  onUnit (decide (rail < 2))
    { s with power := if rail = 0 then { s.power with raise0 := true } else { s.power with raise1 := true } }

/-! ### The tick edge -/

/-- What a tick edge does to power: a pending voltage raise (R583), the last tick's means (R605 map), the energy, and the
end of hold levels that an earlier tick's stop set (R597). The mean power of the other rails is free within its limit of
530 W (R582; log entry 40). -/
def State.powerEdge (s : State) : State :=
  let w := s.power
  let (o, s) := s.freeNat
  let other := o % 531
  let sumOf := fun h => ((List.range 64).map fun i => s.currentOf (64 * h + i)).sum + ((List.range 8).map fun i => s.currentOf (128 + 8 * h + i)).sum
  let a0 := if w.samples0 = 0 then sumOf 0 / 1000 else w.sum0 / w.samples0
  let a1 := if w.samples1 = 0 then sumOf 1 / 1000 else w.sum1 / w.samples1
  let mean := (a0 * w.vid0 + a1 * w.vid1) / 1000 + other
  { s with power := { w with
      vid0 := if w.raise0 then min 800 (w.vid0 + 5) else w.vid0
      vid1 := if w.raise1 then min 800 (w.vid1 + 5) else w.vid1
      raise0 := false, raise1 := false
      meanW := mean, railA0 := a0, railA1 := a1, otherW := other, sum0 := 0, sum1 := 0, samples0 := 0, samples1 := 0
      energyMj := w.energyMj + BitVec.ofNat 64 (mean * s.tick.period.toNat / 100000)
      hold := [] } }

/-! ### POWER_CONFIG -/

/-- Largest P_max of the running and stopping partitions' plans, summed, in mW (R592). -/
def State.peaks (s : State) : Nat := ((s.parts.filter fun e => e.2.active).map fun e => e.2.peakMw).sum

/-- POWER_CONFIG (R599). -/
def State.powerConfig (s : State) (m : Nat) (t : Taken) : State :=
  let limit := t.arg 8 2
  let floor := t.arg 10 2
  let ramp := t.arg 12 2
  if limit < 900 ∨ 2100 < limit then s.badArg m 8 900
  else if 1500 < floor ∨ limit < floor then s.badArg m 10 0
  else if ramp < 20 ∨ 2000 < ramp then s.badArg m 12 20
  else if 1000 * limit < s.peaks + 530000 ∨ s.overRamp ramp 0 then s.notAllowed m 0xFF
  else { s with power := { s.power with pending := some (m, limit, floor, ramp) } }.accept m

def execPowerConfig (m : Nat) (s : State) : Out := linsoRow m 0x51 anyForm (fun t s => s.powerConfig m t) s

/-- A POWER_CONFIG accepted before a tick edge takes effect at it. -/
def State.applyPower (s : State) : State :=
  match s.power.pending with
  | some (m, l, f, r) => { s with power := { s.power with pending := none, limit := l, floor := f, ramp := r } }.ok m []
  | none => s

end Sys2Proof.Machine
end

