-- ==== Sys2Proof/Machine/Regs.lean ====
section
/-! DEFINITION. Registers: the maps of every unit window and of BAR0, what each register shows, reads and writes (R7 to
R14, R34, R410 to R412, R461 to R465, R483). -/

namespace Sys2Proof.Machine

/-! ### Maps -/

/-- How a register is accessed (access-code table): RO; RC; W1C and RW live with the mask of such bits; RW refused while
running; RWT with its mask; WO. -/
inductive Access where
  | ro | rc
  | w1c (mask : Nat)
  | live (mask : Nat)
  | rw (mask : Nat)
  | rwt (mask : Nat)
  | wo
  deriving DecidableEq, Repr

/-- A register: offset, bytes and access. -/
abbrev RegRow := Nat × Nat × Access

/-- Registers every unit window has: status with its sticky bits, last fault, LIVE_WRITE_COUNT. -/
def commonMap (sticky : Nat) : List RegRow := [(0x1100, 4, .w1c sticky), (0x1104, 4, .ro), (0x1108, 4, .rc)]

/-- The frond register map with its extensions (chapters 3, 4, 7, 8 and 13). -/
def frondMap : List RegRow :=
  commonMap 0xE000 ++
  [(0x110C, 4, .rc), (0x1110, 8, .ro), (0x1118, 8, .ro), (0x1120, 4, .w1c 0x1F), (0x1124, 4, .rc), (0x1128, 4, .rc),
   (0x112C, 4, .ro), (0x1140, 8, .ro), (0x1148, 8, .ro), (0x1150, 4, .rc), (0x1154, 4, .rc), (0x1158, 4, .rc),
   (0x115C, 4, .rc), (0x1160, 4, .ro), (0x1180, 4, .ro), (0x1184, 4, .rc), (0x1188, 4, .rc), (0x118C, 4, .rc),
   (0x1190, 4, .ro)] ++
  [(0x11A0, 8, .ro), (0x11A8, 4, .ro), (0x11AC, 4, .ro), (0x11B0, 8, .ro), (0x11B8, 4, .rc), (0x11BC, 4, .rc),
   (0x11C0, 4, .rc), (0x11C4, 4, .rc), (0x11D0, 8, .ro), (0x11D8, 4, .rc), (0x11DC, 4, .ro)]

/-- The tuft register map (chapter 15). -/
def tuftMap : List RegRow :=
  commonMap 0xF000 ++
  [(0x110C, 4, .ro), (0x1110, 8, .ro), (0x1118, 8, .ro), (0x1120, 4, .w1c 0x400_0000), (0x1124, 4, .ro), (0x1128, 4, .ro),
   (0x112C, 4, .ro), (0x1130, 4, .ro), (0x1134, 4, .ro), (0x1138, 4, .ro), (0x113C, 4, .rc), (0x1140, 8, .ro)]

/-- The Soredia register map (chapter 5). -/
def sorediaMap : List RegRow :=
  commonMap 0xC000 ++
  [(0x110C, 4, .live 0xFF), (0x1110, 8, .ro), (0x1118, 8, .ro), (0x1120, 8, .ro), (0x1128, 8, .ro), (0x1130, 4, .rc),
   (0x1134, 4, .rc), (0x1138, 4, .rc), (0x113C, 4, .rc), (0x1140, 4, .rc), (0x1144, 4, .ro), (0x1148, 4, .ro),
   (0x1150, 8, .ro), (0x1158, 8, .ro)]

/-- The bank-group register map (chapter 7). -/
def bankMap : List RegRow :=
  commonMap 0xF000 ++
  [(0x110C, 4, .rc), (0x1110, 8, .ro), (0x1118, 8, .ro), (0x1120, 8, .ro), (0x1128, 8, .ro), (0x1130, 8, .ro),
   (0x1138, 8, .ro), (0x1140, 4, .rc), (0x1144, 4, .rc), (0x1148, 4, .ro)]

/-- The memory register map (chapter 10). -/
def memoryMap : List RegRow :=
  commonMap 0xF000 ++
  [(0x110C, 4, .rwt 0x8000_FFFF), (0x1110, 8, .ro), (0x1118, 8, .ro), (0x1120, 4, .rc), (0x1124, 4, .rc), (0x1128, 4, .rc),
   (0x112C, 4, .rc), (0x1130, 4, .ro), (0x1134, 4, .ro), (0x1138, 4, .ro), (0x113C, 4, .rc), (0x1140, 8, .ro),
   (0x1148, 8, .ro)]

/-- The Pliund register map (chapter 12). -/
def portMap : List RegRow :=
  commonMap 0xF000 ++
  [(0x110C, 4, .rw 0x7), (0x1110, 4, .rwt 0xFF), (0x1114, 4, .ro), (0x1118, 8, .ro), (0x1120, 8, .ro), (0x1128, 4, .rc),
   (0x112C, 4, .rc), (0x1130, 4, .rc), (0x1134, 4, .rc), (0x1138, 4, .ro), (0x113C, 4, .ro)]

/-- The partition register map with its extensions (chapters 9, 11 and 13). -/
def partitionMap : List RegRow :=
  commonMap 0xE000 ++
  [(0x110C, 4, .ro), (0x1110, 16, .ro), (0x1120, 8, .ro), (0x1128, 8, .ro), (0x1130, 4, .ro), (0x1134, 4, .rc),
   (0x1138, 4, .rc), (0x113C, 4, .rc), (0x1140, 4, .rwt 0x3F), (0x1148, 8, .ro), (0x1150, 4, .live 0x100), (0x1154, 4, .rc),
   (0x1158, 8, .ro), (0x1160, 8, .ro), (0x1168, 4, .w1c 0x4000_0000), (0x116C, 4, .rc), (0x1170, 4, .rc), (0x1174, 4, .rc),
   (0x1178, 8, .ro)] ++
  [(0x1180, 8, .live (2 ^ 64 - 1)), (0x1188, 8, .live (2 ^ 64 - 1)), (0x1190, 4, .live (2 ^ 32 - 1)), (0x1194, 4, .wo),
   (0x1198, 4, .w1c 0xE), (0x119C, 4, .ro), (0x11A0, 8, .ro)]

/-- The update-unit register map (chapter 6). -/
def updateMap : List RegRow :=
  commonMap 0xE000 ++
  [(0x110C, 4, .rc), (0x1110, 8, .ro), (0x1118, 8, .ro), (0x1120, 8, .ro), (0x1128, 4, .rc), (0x112C, 4, .rc), (0x1130, 4, .rc)]

/-- Registers of BAR0 outside the unit window, the mailboxes and the MSI-X table (BAR0, tick and Spore register maps). -/
def bar0Map : List RegRow :=
  [(0x0, 4, .ro), (0x4, 4, .ro), (0x8, 8, .ro), (0x10, 8, .ro), (0x100, 4, .ro), (0x104, 4, .w1c 0xFFFF_FF00), (0x200, 4, .ro),
   (0x208, 8, .ro), (0x210, 4, .ro), (0x218, 4, .ro), (0x1000, 4, .live 0xFF_FFFF), (0x4040, 4, .ro), (0x4044, 4, .rc),
   (0x4048, 4, .ro), (0x404C, 4, .live (2 ^ 32 - 1)), (0x4050, 8, .ro), (0x4058, 4, .ro)]

/-- The map of a class; class 0 stands for BAR0 itself. -/
def regMap : Nat → List RegRow
  | 0 => bar0Map
  | 1 => frondMap
  | 2 => tuftMap
  | 3 => sorediaMap
  | 4 => bankMap
  | 5 => memoryMap
  | 6 => memoryMap
  | 7 => portMap
  | 8 => partitionMap
  | 9 => updateMap
  | _ => []

/-- The register that holds the byte at an offset. -/
def regAt (cls off : Nat) : Option RegRow := (regMap cls).find? fun r => decide (r.1 ≤ off ∧ off < r.1 + r.2.1)

/-- The unit that keeps a register: the package-wide registers of the tufts are one set. -/
def homeUnit (cls i off : Nat) : Nat := if cls = clsTuft ∧ 0x1120 ≤ off then 0 else i

/-! ### Fields that show other state -/

/-- A field of a register value. -/
def fieldAt (b : Bool) (lo : Nat) : Nat := if b then 2 ^ lo else 0

/-- FROND_STATUS state (FROND_STATUS field map). -/
def State.frondState (s : State) (f : Nat) : Nat :=
  let x := s.frond f
  if x.retired then 4
  else if x.inReset then 5
  else match s.ownerOf f with
    | none => 0
    | some p => if (s.part p).state == .faulted then 3 else if (s.part p).active then 2 else 1

/-- Sub-arrays that hold a tile. -/
def Frond.subBusy (x : Frond) : Nat :=
  (List.range 8).foldl (fun a j =>
    if x.jobs.any fun b => match b.body with
      | .dense _ _ _ sub _ _ => sub == j
      | .sparse .. => j == 0
      | .sampled .. => j == 0
      | _ => false
    then a + 2 ^ j else a) 0

/-- Signed 16-bit field. -/
def temp16 (t : Int) : Nat := unsignedOf 16 (max (-32768) (min 32767 t))

/-- Hottest of a list of temperatures with their keys. -/
def hottest : List (Nat × Int) → Option (Nat × Int)
  | [] => none
  | e :: r => match hottest r with
    | some h => if h.2 > e.2 then some h else some e
    | none => some e

/-- Whether a move of the governor is in progress. -/
def State.governing (s : State) : Bool := s.governed.any fun f => s.frondFree f && s.currentOf f != s.targetOf f

/-- Whether ALERT# is asserted (R603, R605). -/
def State.alert (s : State) : Bool := s.power.halving || s.power.temps.any fun t => decide (800 ≤ t.2)

/-- Partitions, as bits, for which f holds. -/
def State.partBits (s : State) (f : Nat → Partition → Bool) : Nat :=
  (List.range 16).foldl (fun a p => if (s.part p).state != .free && f p (s.part p) then a + 2 ^ p else a) 0

/-- Partitions that share a tuft's Soredia and update unit: their plan names a frond of the tuft (R256). -/
def sharesTuft (u : Nat) (x : Partition) : Bool :=
  match x.plan with
  | some pl => (List.range 8).any fun i => pl.fronds.getLsbD (8 * u + i)
  | none => false

/-- Whether an engine of a tuft's fronds holds such a descriptor. -/
def State.tuftHolds (s : State) (u : Nat) (f : JobBody → Bool) : Bool :=
  (rangeFrom (8 * u) 8).any fun i => (s.frond i).jobs.any fun j => f j.body

/-- The slot that a Soredia unit's slot registers show (R252). -/
def State.shownSlot (s : State) (u : Nat) : Option MaskSlot := s.slot ((s.reg clsSoredia u 0x110C).toNat % 256)

/-- PART_RECOVERY beside auto_release. -/
def Partition.recoveryBits (x : Partition) : Nat :=
  fieldAt (x.state == .recovering && x.ready) 31 + fieldAt x.planKept 30
    + (if x.plan.isNone then 0 else if x.planVerified then 2 else 1) * 2 ^ 28 + x.swept % 256

/-- PART_PROTECT (PART_PROTECT field map). -/
def State.protectBits (s : State) (p : Nat) : Nat :=
  let x := (s.part p).protect
  let snap := match s.protTable p with
    | some t => t.entries.zipIdx.any fun e => e.1.snapshot && x.dirty.contains e.2
    | none => false
  fieldAt x.mirrorOn 31 + fieldAt x.mirrorLost 30 + fieldAt x.drain.isSome 29 + fieldAt snap 28
    + fieldAt (s.pair.bound && s.pair.coFed) 27

/-- Every stack and channel is ready or failed (R439). -/
def State.memReady (s : State) : Bool := (List.range 16).all fun c => s.memStateOf c == 3 || s.memStateOf c == 4

/-- GLOBAL_STATUS (GLOBAL_STATUS field map). -/
def State.globalStatus (s : State) : Nat :=
  let failed := fun lo => (List.range 8).foldl (fun a c => if s.memStateOf (lo + c) == 4 then a + 2 ^ c else a) 0
  s.pkg.fwState * 2 ^ 28 + fieldAt s.pkg.half1Ready 27 + fieldAt s.pkg.half0Ready 26 + fieldAt s.memReady 25
    + fieldAt s.tick.locked 24 + failed 0 * 2 ^ 16 + failed 8 * 2 ^ 8 + fieldAt s.pair.bound 7
    + fieldAt (s.indus.debugScope != 0) 6 + fieldAt s.power.halving 5 + fieldAt (s.spore.readable != 0) 4

/-- CAPS. -/
def capsValue : Nat := 0x0010_0808_1080_100F

/-- What a register of BAR0 shows where it shows other state. -/
def State.shownBar0 (s : State) (off : Nat) : Option Nat :=
  match off with
  | 0x0 => some 0x96080F1E
  | 0x4 => some Config.rev.toNat
  | 0x8 => some capsValue
  | 0x10 => some s.indus.serial
  | 0x100 => some s.globalStatus
  | 0x200 => some s.tick.period.toNat
  | 0x208 => some s.tickNow
  | 0x210 => some (fieldAt s.tick.locked 31 + fieldAt s.tick.holdover 30 + s.tick.beaconPort.toNat * 2 ^ 16 + s.tick.source.toNat)
  | 0x218 => some (fieldAt s.tick.skewValid 31 + temp16 s.tick.skewNs)
  | 0x4040 => some (s.spore.validBytes * 2 ^ 16 + fieldAt (decide (512 < s.spore.items.length)) 1 + fieldAt (s.spore.readable != 0) 0)
  | 0x4048 => some s.spore.items.length
  | 0x4050 => some (s.spillBase.getD 0)
  | 0x4058 => some (if s.spillBase.isSome then 0x400_0000 else 0)
  | _ => none

/-- What a register of a unit window shows where it shows other state; sticky bits are the stored ones. -/
def State.shownUnit (s : State) (cls i off : Nat) : Option Nat :=
  let sticky := (s.reg cls i off).toNat
  match cls, off with
  | 1, 0x1100 =>
    let st := s.frondState i
    some (sticky + st * 2 ^ 28 + (if 1 ≤ st ∧ st ≤ 3 then (s.ownerOf i).getD 0 else 0) * 2 ^ 24 + (s.frond i).subBusy)
  | 1, 0x1180 =>
    let x := s.frond i
    some (x.execute.sigq.length * 2 ^ 16 + x.fetch.sigq.length * 2 ^ 12 + x.queue.length)
  | 1, 0x1190 => some ((s.frond i).regulator.tokens / 256)
  | 1, 0x11AC => some (((s.frond i).jobs.filter fun j => match j.body with | .move => true | _ => false).length % 4)
  | 2, 0x1100 =>
    some (sticky + ((s.power.ballast.filter fun f => f / 8 == i).length) * 2 ^ 24
      + (List.range 8).foldl (fun a j => if (s.frond (8 * i + j)).sweeping then a + 2 ^ j else a) 0 * 2 ^ 16)
  | 2, 0x110C => some (temp16 (((s.power.temps.find? fun t => t.1 == 16 * (i / 8) + i).map (·.2)).getD 0))
  | 2, 0x1120 =>
    let w := s.power
    some (sticky + fieldAt (w.step == 8) 31 + fieldAt (w.direction != 0) 30 + w.firstCause * 2 ^ 27
      + fieldAt s.governing 25 + fieldAt s.alert 24 + s.freeRamp / 1000 % 2 ^ 16)
  | 2, 0x1124 => some (s.power.limit * 2 ^ 16 + s.power.floor)
  | 2, 0x1128 => some s.power.ramp
  | 2, 0x112C => some (s.demands / 1000 % 2 ^ 16 * 2 ^ 16 + s.power.meanW % 2 ^ 16)
  | 2, 0x1130 => some (s.power.railA1 % 2 ^ 16 * 2 ^ 16 + s.power.railA0 % 2 ^ 16)
  | 2, 0x1134 => some (s.power.vid1 * 2 ^ 16 + s.power.vid0)
  | 2, 0x1138 => some (match hottest s.power.temps with | some h => h.1 / 16 * 2 ^ 16 + temp16 h.2 | none => 0)
  | 2, 0x1140 => some s.power.energyMj.toNat
  | 3, 0x1100 =>
    some (sticky + s.partBits (fun _ x => sharesTuft i x) * 2 ^ 16
      + fieldAt (s.tuftHolds i fun b => match b with | .commit .. => true | _ => false) 1
      + fieldAt (s.tuftHolds i fun b => match b with | .prune .. => true | .regrow .. => true | _ => false) 0)
  | 3, 0x1144 => some (match s.shownSlot i with | some m => m.generation.toNat | none => 0)
  | 3, 0x1148 => some (match s.shownSlot i with | some m => m.region * 2 ^ 8 + m.partition * 2 ^ 4 + m.state | none => 0)
  | 3, 0x1150 => some (match s.shownSlot i with | some m => m.nnz | none => 0)
  | 4, 0x1100 => some (sticky + s.partBits (fun _ x => x.grants.any fun g => g.kind == 1 && g.base / 0x2000_0000 == i / 16) * 2 ^ 16)
  | 5, 0x1100 => some (sticky + s.partBits (fun p _ => s.serves 5 i p) * 2 ^ 16 + s.memStateOf i)
  | 6, 0x1100 => some (sticky + s.partBits (fun p _ => s.serves 6 i p) * 2 ^ 16 + s.memStateOf (8 + i))
  | 5, 0x1134 => some (if s.memCap i = 0 then 0 else 15000)
  | 6, 0x1134 => some s.pkg.ddrRate
  | 5, 0x1138 => some (1024 * s.memCap i)
  | 6, 0x1138 => some (1024 * s.memCap (8 + i))
  | 7, 0x1100 =>
    some (sticky
      + s.partBits (fun _ x => x.peers.any fun y => (s.routeTo y.chip).any fun r => r.port == i) * 2 ^ 16
      + fieldAt (s.pair.bound && (s.pair.port1 == i || s.pair.port2 == i)) 3
      + fieldAt (s.tick.source == 2 && s.tick.beaconPort.toNat == i && s.tick.locked) 2 + (s.port i).state)
  | 8, 0x1100 =>
    let x := s.part i
    some (sticky + x.state.code * 2 ^ 28 + fieldAt x.quiesced 27 + fieldAt x.hold.isSome 26)
  | 8, 0x110C => some (s.part i).epoch.toNat
  | 8, 0x1110 => some (s.part i).fronds.toNat
  | 8, 0x1130 => some ((s.part i).bucket * 2 ^ 8 + (s.part i).set)
  | 8, 0x1150 => some (sticky + (s.part i).recoveryBits)
  | 8, 0x1168 => some (s.protectBits i)
  | 8, 0x1194 => some 0
  | 8, 0x1198 => some (sticky + fieldAt (s.part i).feed.isSome 0)
  | 9, 0x1100 =>
    some (sticky + s.partBits (fun _ x => sharesTuft i x) * 2 ^ 16
      + fieldAt (s.tuftHolds i fun b => match b with | .update .. => true | _ => false) 0)
  | _, _ => none

/-- The value of the register at an offset that opens it. -/
def State.regValue (s : State) (cls i off : Nat) : Nat :=
  let i := homeUnit cls i off
  ((if cls = 0 then s.shownBar0 off else s.shownUnit cls i off)).getD (s.reg cls i off).toNat

/-- A byte of a unit window or of the registers of BAR0; reserved offsets read zero. -/
def State.regByte (s : State) (cls i off : Nat) : Byte :=
  match regAt cls off with
  | some r => BitVec.ofNat 8 (s.regValue cls i r.1 / 2 ^ (8 * (off - r.1)))
  | none => 0

/-- Bytes of a unit window. -/
def State.regBytes (s : State) (cls i off n : Nat) : List Byte := (rangeFrom off n).map (s.regByte cls i)

/-! ### BAR0 -/

/-- Class and index that UNIT_SEL names, when there is such a unit. -/
def State.selected (s : State) : Option (Nat × Nat) :=
  let v := (s.reg 0 0 0x1000).toNat % 2 ^ 24
  if v / 256 < classCount (v % 256) then some (v % 256, v / 256) else none

/-- A write of UNIT_SEL, which sets `invalid` when it names no unit. After a reset, which gives the field 0 (R8), it stays 0
until the first write, although class 0 is no class (DEDUCED, log entry 116). -/
def State.selectUnit (s : State) (v : Nat) : State :=
  let v := v % 2 ^ 24
  s.setReg 0 0 0x1000 (BitVec.ofNat 64 (v + fieldAt (decide (classCount (v % 256) ≤ v / 256)) 31))

/-- A byte of a mailbox header (mailbox-header register map). -/
def State.headerByte (s : State) (off : Nat) : Byte :=
  let b := s.mailbox (off / 64)
  let w := match off % 64 / 4 with
    | 0 => b.cmdSeq
    | 1 => b.taken
    | 2 => b.respSeq
    | 3 => b.respStatus
    | _ => 0
  BitVec.ofNat 8 (w.toNat / 2 ^ (8 * (off % 4)))

/-- A byte of BAR0 as a read without side effects shows it. -/
def State.bar0Byte (s : State) (off : Nat) : Byte :=
  if 0x1100 ≤ off ∧ off < 0x2000 then
    match s.selected with
    | some (c, i) => s.regByte c i off
    | none => 0
  else if 0x4000 ≤ off ∧ off < 0x4040 then s.spore.latch.getD (off - 0x4000) 0
  else if 0x1_0000 ≤ off ∧ off < 0x1_0440 then s.headerByte (off - 0x1_0000)
  else if 0x2_0000 ≤ off ∧ off < 0x4_2000 then sget (fun _ => 0) s.mbArea off
  else if 0x5_0000 ≤ off ∧ off < 0x6_0000 then Config.componentByte s.componentValues (off - 0x5_0000)
  else if 0x6_0000 ≤ off ∧ off < 0x6_0130 then sget (fun _ => 0) s.msixTable (off - 0x6_0000)
  else if 0x6_1000 ≤ off ∧ off < 0x6_1008 then BitVec.ofNat 8 (s.msixPending.toNat / 2 ^ (8 * (off - 0x6_1000)))
  else s.regByte 0 0 off

/-- Whether BAR0 takes an access (R462). -/
def bar0Takes (off size : Nat) : Bool :=
  let wide := (decide (0x2_0000 ≤ off ∧ off + size ≤ 0x4_2000)) || decide (0x4000 ≤ off ∧ off + size ≤ 0x4040)
  (size == 4 || size == 8 || (wide && [1, 2, 16, 32, 64].contains size)) && off % size == 0

/-- Bytes of BAR0 as the host gets them. -/
def State.giveHost (s : State) (bs : List Byte) : State := { s with host := { s.host with reg := BitVec.ofNat 512 (leNat bs) } }

/-- TICK_COUNT_READ (R34). The latch keeps its value until the next 32-bit read of the low word, so a further read of the high
word returns it again (DESIGN CHOICE, log entry 117). -/
def State.readCount (s : State) : CountRead → State
  | .low32 =>
    { s.giveHost (leBytes 4 s.tickNow) with tick := { s.tick with latch := BitVec.ofNat 32 (s.tickNow / 2 ^ 32) } }
  | .high32 => s.giveHost (leBytes 4 s.tick.latch.toNat)
  | .both64 => s.giveHost (leBytes 8 s.tickNow)

def execTickCountRead (r : CountRead) (s : State) : Out := hostRow true (fun s => s.readCount r) s

/-- A read of SPORE_WORD (R483): one that includes its byte 0 pops. -/
def State.readSpore (s : State) (off size : Nat) : State :=
  let s := if off = 0x4000 then s.sporePop else s
  s.giveHost ((rangeFrom off size).map s.bar0Byte)

/-- SPORE_WORD_READ (R462, R483). -/
def execSporeWordRead (off size : Nat) (s : State) : Out :=
  hostRow true (fun s =>
    if !bar0Takes off size || off < 0x4000 || 0x4040 ≤ off then s.giveHost [] else s.readSpore off size) s

/-- The unit and offset of an RC counter that opens a word of BAR0: of the selected unit, or of BAR0. -/
def State.rcAt (s : State) (off : Nat) : Option (Nat × Nat × Nat) :=
  match (if 0x1100 ≤ off ∧ off < 0x2000 then s.selected else some (0, 0)) with
  | none => none
  | some (c, i) => match regAt c off with
    | some (o, _, .rc) => if o = off then some (c, homeUnit c i o, o) else none
    | _ => none

/-- Clear an RC counter that has been read; `inc` counts of the cycle of the read survive (R13). -/
def State.clearRc (s : State) (off inc : Nat) : State :=
  match s.rcAt off with
  | some (c, i, o) => s.setReg c i o (BitVec.ofNat 64 (inc % 2 ^ 32))
  | none => s

/-- RC_COUNTER_READ (R13, R462): an access of BAR0 of a size and alignment that it takes returns every RC counter in it as it stood
before the counts of the same cycle, and clears it; an access it does not take returns zero and clears nothing. An access of
SPORE_WORD or of TICK_COUNT acts as their own rows do. -/
def State.readRc (s : State) (off size : Nat) (incs : List Nat) : State :=
  if !bar0Takes off size then s.giveHost []
  else if 0x4000 ≤ off ∧ off < 0x4040 then s.readSpore off size
  else if off = 0x208 ∧ size = 4 then s.readCount .low32
  else if off = 0x20C then s.readCount .high32
  else
    (List.range (size / 4)).foldl (fun t k => t.clearRc (off + 4 * k) (incs.getD k 0)) (s.giveHost ((rangeFrom off size).map s.bar0Byte))

def execRcCounterRead (off : Nat) (r : CountedRead) (s : State) : Out := hostRow true (fun s => s.readRc off r.size r.increments) s

/-! ### Writes -/

/-- Replace the four bytes of a 64-bit register that a 32-bit write covers. -/
def spliceWord (old : Dword) (at_ v : Nat) : Nat := setBits old.toNat (8 * at_) 32 v

/-- A write of one 32-bit word to a register of a unit window or of BAR0 (R9 to R12, R410 to R412). A W1C bit that the hardware
sets in the same cycle (`set`) is left set, whatever the write clears (R12). -/
def State.writeWord (s : State) (cls i off v set : Nat) : State :=
  match regAt cls off with
  | none => s
  | some (o, n, a) =>
    let i := homeUnit cls i o
    let full := if n = 8 then spliceWord (s.reg cls i o) (off - o) v else v % 2 ^ 32
    match a with
    | .ro => s
    | .rc => s
    | .wo => if cls = clsPart ∧ o = 0x1194 ∧ v % 2 = 1 then s.startFeed i else s
    | .live m =>
      if cls = 0 ∧ o = 0x1000 then s.selectUnit full
      else s.setReg cls i o (BitVec.ofNat 64 full &&& BitVec.ofNat 64 m)
    | .rwt m => { s with shadow := s.shadow.filter (fun e => e.1 != regKey cls i o) ++ [(regKey cls i o, BitVec.ofNat 64 (full &&& m))] }
    | .w1c m =>
      if cls = clsPart ∧ o = 0x1168 then
        s.modPart i fun x => { x with protect := { x.protect with mirrorLost := (x.protect.mirrorLost && !bitAt v 30) || bitAt set 30 } }
      else
        let s := s.setReg cls i o ((s.reg cls i o &&& ~~~(BitVec.ofNat 64 (v &&& m))) ||| BitVec.ofNat 64 (set &&& m))
        if cls = 0 ∧ o = 0x104 then
          { s with pkg := { s.pkg with faultPin := s.globalFault != 0 || s.pkg.fwState == 4 || !s.pkg.lostRefs.isEmpty } }
        else s
    | .rw m =>
      -- PLN_CTRL is the one such register (R518)
      if s.unitRunning cls i then s.refuseLive cls i o v
      else
        let was := bitAt (s.reg cls i o).toNat 0
        let s := s.setReg cls i o (BitVec.ofNat 64 (setBits (v &&& m) 0 1 (if was then 1 else 0)))
        if bitAt v 0 = was then s else s.writeEnable i (bitAt v 0)

/-- Send the pending vectors that are no longer masked (R460). -/
def State.sendPending (s : State) : State :=
  (List.range 19).foldl (fun s v =>
    if s.msixPending.getLsbD v && !s.vectorMasked v then
      { s with msixPending := s.msixPending &&& ~~~(1#19 <<< v), host := { s.host with msi := v :: s.host.msi } }
    else s) s

/-- A host write of one word of BAR0. -/
def State.writeBar0 (s : State) (off v set : Nat) : State :=
  if 0x1100 ≤ off ∧ off < 0x2000 then
    match s.selected with
    | some (c, i) => s.writeWord c i off v set
    | none => s
  else if 0x1_0000 ≤ off ∧ off < 0x1_0440 then
    if (off - 0x1_0000) % 64 = 0 then
      let m := (off - 0x1_0000) / 64
      s.setMailbox m { s.mailbox m with cmdSeq := BitVec.ofNat 32 v }
    else s
  else if 0x5_0000 ≤ off ∧ off < 0x6_0000 then
    { s with component := sputs (fun _ => (0 : Byte)) s.component (off - 0x5_0000) (leBytes 4 v) }
  else if 0x6_0000 ≤ off ∧ off < 0x6_0130 then
    { s with msixTable := sputs (fun _ => (0 : Byte)) s.msixTable (off - 0x6_0000) (leBytes 4 v) }.sendPending
  else s.writeWord 0 0 off v set

/-- REGISTER_WRITE (R462 to R465): the low `size` bytes of the value, in words of 32 bits; the mailbox areas take any
aligned size up to 64 bytes. `hwSet` are the bits that the hardware sets in the cycle of the write. -/
def State.hostWriteReg (s : State) (off size : Nat) (value hwSet : BitVec 512) : State :=
  if !bar0Takes off size then s
  else if 0x2_0000 ≤ off ∧ off < 0x4_2000 then s.areaWrite off (leBytes size value.toNat)
  else if size < 4 then s
  else (List.range (size / 4)).foldl (fun s k =>
    s.writeBar0 (off + 4 * k) (bitsOf value.toNat (32 * k) 32) (bitsOf hwSet.toNat (32 * k) 32)) s

def execRegisterWrite (off size : Nat) (w : WordWrite) (s : State) : Out :=
  hostRow false (fun s => s.hostWriteReg off size w.value w.hwSet) s

end Sys2Proof.Machine
end

