-- ==== Sys2Proof/Machine/Dump.lean ====
section
/-! DEFINITION. Crash dumps (R540, R541) and counter reads (R413, R414). -/

namespace Sys2Proof.Machine

/-! ### Destinations -/

/-- Whether a command's device range lies where DUMP and COUNTERS_READ may write: the partition's grants of HBM4 or DDR5,
or DDR5 that no partition holds (text after R475). -/
def State.dumpReaches (s : State) (p : Option Nat) (a n : Nat) : Bool :=
  (unitsOf (rangeFrom a n)).all fun u => match s.resolveDirect (u * 64) with
    | none => false
    | some x => match p with
      | some q => decide (0x4000_0000 ≤ x) && s.holds q x
      | none => decide (0x0200_0000_0000 ≤ x) && !s.inSpill x && !(List.range 16).any fun q => s.holds q x

/-- Starts of the areas where a destination may lie: channels and what follows memory taken in them, or the partition's grants. -/
def State.dumpStarts (s : State) (p : Option Nat) : List Nat :=
  match p with
  | some q => (s.part q).grants.flatMap fun g => [g.base]
  | none =>
    regionStarts ++ ((List.range 16).flatMap fun q => (s.part q).grants.map fun g => g.base + grantBytes g)

/-- The scope of a DUMP or COUNTERS_READ: a partition, or the package. -/
def Taken.scope (m : Nat) (t : Taken) : Option Nat := t.target m

/-- The checks of a DUMP's and a COUNTERS_READ's arguments; the manual does not say how a destination outside its
condition is answered, and the model answers BAD_ARG (log entry 42). -/
def State.dumpArgs (s : State) (m : Nat) (t : Taken) : Option State :=
  if 1 < t.arg 8 1 then some (s.badArg m 8 0)
  else if !s.dumpReaches (t.scope m) (t.arg 16 8) (t.arg 24 8) then some (s.badArg m 16 (leastOf (s.dumpStarts (t.scope m)) fun a => s.dumpReaches (t.scope m) a (t.arg 24 8)))
  else none

/-! ### Unit records -/

/-- Units of a dump, ascending: class 0 is the hub (R540). -/
def State.dumpUnits (s : State) (p : Option Nat) : List (Nat × Nat) :=
  match p with
  | none => (0, 0) :: (rangeFrom 1 9).flatMap fun c => (List.range (classCount c)).map fun i => (c, i)
  | some q => (0, 0) :: [1, 2, 3, 4, 5, 6, 7, 9].flatMap fun c =>
      ((List.range (classCount c)).filter fun i => s.serves c i q).map fun i => (c, i)

/-- Bytes that the manual says nothing of, from place `lo` of dump `k` (log entry 8). -/
def openBytes (k lo n : Nat) : List Byte := (rangeFrom lo n).map (Config.dumpByte k)

/-- Fit a list of bytes to n bytes. -/
def fitBytes (n : Nat) (bs : List Byte) : List Byte := bs.take n ++ List.replicate (n - bs.length) 0

/-- The registers of a unit as the tick snapshot latched them (R41), in the order of its map. -/
def State.snapCounters (s : State) (u : Nat × Nat) : List Nat :=
  (regMap u.1).map fun r =>
    if u.1 = clsTuft ∧ r.1 = 0x1140 then s.snap.energy.toNat
    else (sget regReset s.snap.regs (regKey u.1 (homeUnit u.1 u.2 r.1) r.1)).toNat

/-- Every ledger count of the tick snapshot, with its key: of one partition number, or all (R41, R57). -/
def State.snapLedgers (s : State) (p : Option Nat) : List Nat :=
  (s.snap.ledgers.filter fun e => p.all (e.1 / 0x10000 / 8 == ·)).flatMap fun e =>
    [e.1, e.2.issued.toNat, e.2.completed.toNat, e.2.inFlight.toNat]

/-- A sequencer as a number. -/
def seqNum : SeqSel → Nat
  | .fetch => 0
  | .execute => 1

/-- The ends of every bound stream that `sel` takes. -/
def State.streamEnds (s : State) (sel : Stream → Bool) : List Nat :=
  s.streams.flatMap fun e => match e.2 with
    | some x => if sel x then [e.1, x.filled.toNat, x.freed.toNat, x.prodPos.toNat, x.consPos.toNat] else []
    | none => []

/-- The plain semaphores of a frond. -/
def Frond.semValues (x : Frond) : List Nat := x.plainSems.flatMap fun e => [e.1, e.2.toNat]

/-- The object and count a held signal names. -/
def HeldSignal.values (h : HeldSignal) : List Nat :=
  [semObject h.target, match h.target with | .filled _ => 0 | .freed _ => 1 | .plain .. => 2, h.count, h.jobId]

/-- A sequencer's position, wait and signal queue. -/
def Sequencer.values (q : Sequencer) : List Nat :=
  [q.pos, if q.wait.isSome then 1 else 0, if q.ended then 1 else 0, q.sigq.length] ++ q.sigq.flatMap HeldSignal.values

/-- What the control part of a frond's record holds: stream ends, plain semaphores, sequencer positions, the 64-entry queue and
the signal queues (dump-content table). -/
def State.controlValues (s : State) (f : Nat) : List Nat :=
  let x := s.frond f
  s.streamEnds (fun y => y.producerFrond == f || y.consumerFrond == f) ++ x.semValues ++ x.fetch.values ++ x.execute.values
    ++ x.queue.flatMap fun e => [e.dsc.addr, e.dsc.raw.toNat, e.dsc.tag.toNat]

/-- The vector, scalar and predicate registers of a frond, with the flags. -/
def Vector.values (v : Vector) : List Nat :=
  [v.pc, v.numctl] ++ (v.sregs.flatMap fun e => [e.1, e.2.toNat]) ++ (v.vregs.flatMap fun e => [e.1, e.2.toNat])
    ++ (v.preds.flatMap fun e => [e.1, if e.2 then 1 else 0]) ++ v.flags.flatMap fun e => [e.1, e.2.toNat]

/-- A panel of the activation bank. -/
def Panel.values (x : Panel) : List Nat :=
  [if x.filled then 1 else 0, x.fmt, x.extent, x.map, if x.scaleKind then 1 else 0] ++ x.active
    ++ (x.scales.flatMap fun e => [e.1, e.2.toNat]) ++ x.swz ++ x.data.flatMap fun e => [e.1, e.2.toNat]

/-- The descriptors of partition p that an update or a Soredia unit holds: where each stands, its engine's job and how many bytes
of the tile store it has. -/
def State.unitHolds (s : State) (p : Nat) (u : Nat × Nat) : List Nat :=
  (rangeFrom (8 * u.2) 8).flatMap fun f =>
    if (s.part p).fronds.getLsbD f then
      (s.frond f).jobs.flatMap fun j => match j.body with
        | .update _ v step pow1 pow2 =>
          if u.1 = clsUpdate then [f, j.id, j.addr, match v with | .apply => 0 | .skip => 1 | .skew => 2, step, pow1.toNat, pow2.toNat]
          else []
        | .prune k => if u.1 = clsSoredia then [f, j.id, j.addr, k] else []
        | .regrow k => if u.1 = clsSoredia then [f, j.id, j.addr, k] else []
        | .commit k a n => if u.1 = clsSoredia then [f, j.id, j.addr, k, a, n] else []
        | _ => []
    else []

/-- The standing wait reports of the hub. -/
def State.waitValues (s : State) : List Nat :=
  s.waits.flatMap fun w => [w.frond, seqNum w.seq, w.object, w.holders.length] ++ w.holders.flatMap fun h => [h.1, seqNum h.2]

/-- The parts of a frond's record in partition scope: control 16 KiB, accumulators 256 KiB, vector engine 33 KiB, tile
store 512 KiB, activation bank 512 KiB and frond buffer 3 MiB. The record's 4,401 KiB are the sum of these parts, so the
window image and the snapshot counters stand in the control part (log entry 43). -/
def State.frondRecord (s : State) (f : Nat) (image : List Byte) : List Byte :=
  let x := s.frond f
  image ++ fitBytes (16384 - image.length) (Config.laidOut 2 (s.snapCounters (clsFrond, f) ++ s.controlValues f))
    ++ ((List.range 32768).flatMap fun i => leBytes 8 (sget (fun _ => (0 : Dword)) s.acc (f * 32768 + i)).toNat)
    ++ fitBytes 33792 (Config.laidOut 3 x.vec.values)
    ++ fitBytes 262144 x.store0 ++ fitBytes 262144 x.store1
    ++ fitBytes 524288 (Config.laidOut 4 (x.panel0.values ++ x.panel1.values))
    ++ s.bufRead f 0 frondBytes

/-- What follows the head of a unit's record (dump-content table): the hub's ledger shadows of every partition and standing wait
reports; of every other unit its window image and its snapshot counters; and in partition scope what the table adds. -/
def State.recordBody (s : State) (p : Option Nat) (u : Nat × Nat) : List Byte :=
  if u.1 = 0 then Config.laidOut 5 (s.snapLedgers none ++ s.waitValues)
  else
    let image := s.regBytes u.1 u.2 0x1100 3840
    match p with
    | none => image ++ Config.laidOut 6 (s.snapCounters u)
    | some q =>
      if u.1 = clsFrond then s.frondRecord u.2 image
      else image ++ Config.laidOut 7 (s.snapCounters u ++ s.unitHolds q u)

/-- Unit state, byte 5 of a head; free for a unit whose register map gives no state. -/
def State.unitState (s : State) (k : Nat) (u : Nat × Nat) : Byte :=
  match u.1 with
  | 1 => BitVec.ofNat 8 (s.frondState u.2)
  | 5 => BitVec.ofNat 8 (s.memStateOf u.2)
  | 6 => BitVec.ofNat 8 (s.memStateOf (8 + u.2))
  | 7 => BitVec.ofNat 8 (s.port u.2).state
  | 8 => BitVec.ofNat 8 (s.part u.2).state.code
  | _ => Config.dumpByte k 0x100_0000

/-- One unit record (R541); a record's length counts its head. -/
def State.unitRecord (s : State) (k : Nat) (p : Option Nat) (u : Nat × Nat) : List Byte :=
  let silent := s.pkg.dumpSilent.contains u
  let body := if silent then [] else s.recordBody p u
  let answer := if silent then 1 else if u.1 = clsFrond ∧ (s.frond u.2).inReset then 2 else 0
  [BitVec.ofNat 8 u.1, 0] ++ leBytes 2 u.2 ++ [BitVec.ofNat 8 answer, s.unitState k u, 0, 0]
    ++ leBytes 8 (64 + body.length) ++ List.replicate 48 0 ++ body

/-- Records that fit in the length: the records, how many, and whether one was left out. -/
def fitRecords (room : Nat) : List (List Byte) → List Byte × Nat × Bool
  | [] => ([], 0, false)
  | r :: rs =>
    if room < r.length then ([], 0, true)
    else let x := fitRecords (room - r.length) rs; (r ++ x.1, x.2.1 + 1, x.2.2)

/-- The dump header (R541). The fault log of a package dump is not given and its bytes are free. -/
def State.dumpHeader (s : State) (k : Nat) (p : Option Nat) (count silent : Nat) (truncated : Bool) : List Byte :=
  let log := match p with
    | some q => fitBytes 512 ((s.part q).faultLog.flatMap fun r => leBytes 32 r.toNat)
    | none => openBytes k 0 512
  leBytes 4 0xD1F09608 ++ [if p.isSome then 1 else 0, BitVec.ofNat 8 (p.getD 0xFF)]
    ++ leBytes 2 ((p.map fun q => (s.part q).epoch.toNat).getD 0) ++ leBytes 8 s.tickNow ++ leBytes 8 s.snap.tick
    ++ leBytes 4 count ++ leBytes 4 silent ++ [if truncated then 1 else 0] ++ List.replicate 479 0 ++ log

/-- DUMP (R540, R541). -/
def State.dump (s : State) (m : Nat) (t : Taken) : State :=
  match s.dumpArgs m t with
  | some s => s
  | none =>
    if t.arg 24 8 < 1024 then s.badArg m 24 1024
    else
      let p := t.scope m
      let k := s.freeCtr
      let us := s.dumpUnits p
      let r := fitRecords (t.arg 24 8 - 1024) (us.map (s.unitRecord k p))
      let silent := ((us.take r.2.1).filter s.pkg.dumpSilent.contains).length
      let bytes := s.dumpHeader k p r.2.1 silent r.2.2 ++ r.1
      let s := { s with freeCtr := k + 4096, pkg := { s.pkg with dumpSilent := [] } }
      let w := s.fwWrite (t.arg 16 8) bytes
      match w.refused with
      | some b => w.state.cmdFaulted p m b
      | none => w.state.ok m (leBytes 8 bytes.length ++ leBytes 4 silent)

/-- A DUMP or COUNTERS_READ row: a partition's is judged by its state like every command that names it. -/
def scopedRow (m op : Nat) (run : Taken → State → State) (s : State) : Out :=
  linsoRow m op anyForm run s

def execDump (m : Nat) (s : State) : Out := scopedRow m 0x60 (fun t s => s.dump m t) s

/-- DUMP_UNIT_TIMEOUT (R540): the unit is recorded as NO_ANSWER in the dump that reads it. -/
def execDumpUnitTimeout (cls index : Nat) (s : State) : Out :=
  onUnit (decide (index < classCount cls ∨ (cls = 0 ∧ index = 0)))
    { s with pkg := { s.pkg with dumpSilent := (cls, index) :: s.pkg.dumpSilent.filter (· != (cls, index)) } }

/-! ### Counter reads -/

/-- Partitions whose holds a COUNTERS_READ takes. -/
def holdScope (p : Option Nat) : List Nat := match p with | some q => [q] | none => List.range 16

/-- COUNTERS_READ (R413, R414): the next guard takes the holds; while a hold is in force it answers BUSY (DEDUCED, log
entry 139). -/
def State.countersRead (s : State) (m : Nat) (t : Taken) : State :=
  match s.dumpArgs m t with
  | some s => s
  | none =>
    if (List.range 16).any fun q => (s.part q).hold.isSome then s.respond m stBusy []
    else ((holdScope (t.scope m)).foldl (fun s q => s.modPart q fun x => { x with hold := some (.asked (t.scope m).isNone) }) s).accept m

def execCountersRead (m : Nat) (s : State) : Out := scopedRow m 0x61 (fun t s => s.countersRead m t) s

/-- What the holds of a scope copy in cycle T0 (R413): the snapshot counters of every unit of the scope, the snapshot's ledger
counts, and the stream ends and semaphores, which are read through COUNTERS_READ too (chapter 7, register map). -/
def State.heldValues (s : State) (p : Option Nat) : List Nat :=
  (s.dumpUnits p).flatMap s.snapCounters ++ s.snapLedgers p ++ s.streamEnds (fun y => p.all (y.partition == ·))
    ++ (List.range 128).flatMap fun f =>
      if p.all (s.part · |>.fronds.getLsbD f) then (s.frond f).semValues.map (f * 2 ^ 32 + ·) else []

/-- In cycle T0 of a guard the tick snapshot is copied into the holds that were asked for (R413). -/
def State.takeHolds (s : State) : State :=
  (List.range 16).foldl (fun s p =>
    match (s.part p).hold with
    | some (.asked package) =>
      let vs := s.heldValues (if package then none else some p)
      (s.modPart p fun x => { x with hold := some (.taken s.snap.tick vs) }).setReg clsPart p 0x1148 (BitVec.ofNat 64 s.snap.tick)
    | _ => s) s

/-- Write the values of a hold and answer its COUNTERS_READ; how they are laid out, and in how many bytes, is not given
(log entry 8). -/
def State.countersDone (s : State) (m : Nat) (t : Taken) : State :=
  let p := t.scope m
  match (s.part (p.getD 0)).hold with
  | some (.taken tick values) =>
    let bytes := (Config.laidOut (if p.isSome then 1 else 0) values).take (t.arg 24 8)
    let w := s.fwWrite (t.arg 16 8) bytes
    let s := match w.refused with
      | some b => w.state.cmdFaulted p m b
      | none => w.state.ok m (leBytes 8 tick ++ leBytes 8 bytes.length)
    (holdScope p).foldl (fun s q => s.modPart q fun x => { x with hold := none }) s
  | _ => s

/-- Answer every COUNTERS_READ whose holds have been taken. -/
def State.answerCounters (s : State) : State :=
  s.mbTaken.foldl (fun s m => match (s.mailbox m).outstanding with
    | some t => if t.opcode == 0x61 && t.begun then s.countersDone m t else s
    | none => s) s

end Sys2Proof.Machine
end

