-- ==== Sys2Proof/Machine/Ecdsa.lean ====
section
/-! DEFINITION. ECDSA on brainpoolP384r1 over SHA-384, which every signature of the Indusium uses (chapter 14's opening).
PRESUMED: the curve's parameters are those of RFC 5639, the algorithm that of FIPS 186, and points, r and s are written
most significant byte first, as SEC 1 writes them; the manual names the curve only. -/

namespace Sys2Proof.Machine

/-! ### The curve -/

def bpP : Nat := 0x8CB91E82A3386D280F5D6F7E50E641DF152F7109ED5456B412B1DA197FB71123ACD3A729901D1A71874700133107EC53
def bpA : Nat := 0x7BC382C63D8C150C3C72080ACE05AFA0C2BEA28E4FB22787139165EFBA91F90F8AA5814A503AD4EB04A8C7DD22CE2826
def bpB : Nat := 0x04A8C7DD22CE28268B39B55416F0447C2FB77DE107DCD2A62E880EA53EEB62D57CB4390295DBC9943AB78696FA504C11
def bpGx : Nat := 0x1D1C64F068CF45FFA2A63A81B7C13F6B8847A3E77EF14FE3DB7FCAFE0CBD10E8E826E03436D646AAEF87B2E247D4AF1E
def bpGy : Nat := 0x8ABE1D7520F9C2A45CB1EB8E95CFD55262B70B29FEEC5864E19C054FF99129280E4646217791811142820341263C5315
def bpQ : Nat := 0x8CB91E82A3386D280F5D6F7E50E641DF152F7109ED5456B31F166E6CAC0425A7CF3AB6AF6B7FC3103B883202E9046565

/-- A point in Jacobian coordinates (X, Y, Z): x = X / Z², y = Y / Z³; Z = 0 at infinity. -/
abbrev Point := Nat × Nat × Nat

/-- b to the power e modulo m, for e below 2^384. -/
def modPow (m b e : Nat) : Nat :=
  (List.range 384).foldl (fun r i => let r := r * r % m; if e.testBit (383 - i) then r * b % m else r) 1

/-- Inverse modulo a prime. -/
def modInv (m a : Nat) : Nat := modPow m (a % m) (m - 2)

/-- Twice a point. -/
def pointDouble : Point → Point
  | (x, y, z) =>
    let w := 4 * x * (y * y % bpP) % bpP
    let m := (3 * x * x + bpA * (z * z % bpP * (z * z % bpP) % bpP)) % bpP
    let x' := (m * m + 2 * bpP - 2 * w) % bpP
    (x', (m * (w + bpP - x') + 8 * bpP - 8 * (y * y % bpP * (y * y % bpP) % bpP)) % bpP, 2 * y * z % bpP)

/-- Sum of two points. -/
def pointAdd : Point → Point → Point
  | (x1, y1, z1), (x2, y2, z2) =>
    if z1 = 0 then (x2, y2, z2)
    else if z2 = 0 then (x1, y1, z1)
    else
      let u1 := x1 * (z2 * z2 % bpP) % bpP
      let u2 := x2 * (z1 * z1 % bpP) % bpP
      let s1 := y1 * (z2 * z2 % bpP * z2 % bpP) % bpP
      let s2 := y2 * (z1 * z1 % bpP * z1 % bpP) % bpP
      if u1 = u2 then if s1 = s2 then pointDouble (x1, y1, z1) else (1, 1, 0)
      else
        let h := (u2 + bpP - u1) % bpP
        let r := (s2 + bpP - s1) % bpP
        let h2 := h * h % bpP
        let v := u1 * h2 % bpP
        let x := (r * r + 3 * bpP - h2 * h % bpP - 2 * v) % bpP
        (x, (r * (v + bpP - x) + bpP - s1 * (h2 * h % bpP) % bpP) % bpP, h * z1 % bpP * z2 % bpP)

/-- k times a point, for k below 2^384. -/
def pointMul (k : Nat) (x : Point) : Point :=
  (List.range 384).foldl (fun r i => let r := pointDouble r; if k.testBit (383 - i) then pointAdd r x else r) (1, 1, 0)

/-- The x coordinate of a point; none at infinity. -/
def pointX : Point → Option Nat
  | (x, _, z) => if z = 0 then none else let w := modInv bpP z; some (x * (w * w % bpP) % bpP)

def bpG : Point := (bpGx, bpGy, 1)

/-- Whether a pair of coordinates is a point of the curve. -/
def onCurve (x y : Nat) : Bool :=
  decide (x < bpP ∧ y < bpP) && (y * y) % bpP == (x * x * x + bpA * x + bpB) % bpP

/-! ### Signatures -/

/-- Whether r ‖ s is a signature of a message by the public key X ‖ Y; the four numbers stand little-endian (R6). -/
def ecdsaVerify (key sig message : List Byte) : Bool :=
  let x := leNat (key.take 48)
  let y := leNat (key.drop 48)
  let r := leNat (sig.take 48)
  let s := leNat (sig.drop 48)
  if r = 0 ∨ s = 0 ∨ bpQ ≤ r ∨ bpQ ≤ s ∨ !onCurve x y then false
  else
    let z := beNat (sha384Bytes message)
    let w := modInv bpQ s
    match pointX (pointAdd (pointMul (z * w % bpQ) bpG) (pointMul (r * w % bpQ) (x, y, 1))) with
    | some x => x % bpQ == r
    | none => false

/-- The signature of a message with private scalar d and nonce k. -/
def ecdsaSign (d k : Nat) (message : List Byte) : Nat × Nat :=
  let r := match pointX (pointMul k bpG) with
    | some x => x % bpQ
    | none => 0
  (r, modInv bpQ k * (beNat (sha384Bytes message) + r * d) % bpQ)

end Sys2Proof.Machine
end

