-- ==== Sys2Proof/Machine/Protect.lean ====
section
/-! DEFINITION. Protection of training state (R546 to R562): the partner mirror, snapshots, restoring, pairs and spares.

The manual does not lay out the payloads of MIRROR and FILL packets nor the held region's header; the model opens every such
payload with a 64-byte sub-header of its own (log entry 37): byte 0 type, byte 1 partition, byte 2 entry, byte 3 flag,
then eight-byte fields from byte 8. -/

namespace Sys2Proof

/-- A number of a packet's sub-header. -/
def Packet.num (pk : Packet) (off n : Nat) : Nat := Machine.leNat ((pk.payload.drop off).take n)

/-- The data after the sub-header. -/
def Packet.body (pk : Packet) : List Byte := (pk.payload.drop 64).take (pk.num 32 8)

/-- Its poisoned units. -/
def Packet.bodyPoison (pk : Packet) : List Nat := (pk.poison.filter (1 ≤ ·)).map (· - 1)

end Sys2Proof

namespace Sys2Proof.Machine

/-! ### Payloads -/

/-- A sub-header: type, partition, entry, flag and up to five numbers at 8, 16, 24, 32 and 40. -/
def subHeader (ty part entry : Nat) (flag : Bool) (ns : List Nat) : List Byte :=
  let h := [BitVec.ofNat 8 ty, BitVec.ofNat 8 part, BitVec.ofNat 8 entry, if flag then 1 else 0, 0, 0, 0, 0] ++ ns.flatMap (leBytes 8)
  h ++ List.replicate (64 - h.length) 0

/-- Step "none" of a seal without a snapshot number. -/
def noNumber : Nat := 2 ^ 64 - 1

/-! ### Sizes -/

/-- Bytes of ranges laid one after another, each rounded up to whole pages. -/
def rangesSize (rs : List (Nat × Nat)) : Nat := (rs.map fun r => upTo 4096 r.2).sum

/-- The mirror entries of partition p with their numbers and ranges. -/
def State.mirrorEntries (s : State) (p : Nat) : List (Nat × List (Nat × Nat)) :=
  match s.protTable p with
  | some t => (t.entries.zipIdx.filter fun e => e.1.mirror).map fun e => (e.2, s.entryRanges p e.1)
  | none => []

/-- M of R548. -/
def State.mirrorSize (s : State) (p : Nat) : Nat := ((s.mirrorEntries p).map fun e => rangesSize e.2).sum

/-- Offset of an entry's first page in a working copy. -/
def State.mirrorOffset (s : State) (p entry : Nat) : Nat :=
  (((s.mirrorEntries p).takeWhile fun e => e.1 != entry).map fun e => rangesSize e.2).sum

/-- Every page of every mirror entry. -/
def State.mirrorPages (s : State) (p : Nat) : List (Nat × Nat) :=
  (s.mirrorEntries p).flatMap fun e => (List.range (rangesSize e.2 / 4096)).map fun g => (e.1, g)

/-! ### Sending -/

/-- A packet of partition p's mirror. -/
def State.mirrorPacket (s : State) (p : Nat) (payload : List Byte) : Packet :=
  s.packet p (s.part p).protect.partner p 0 5 0 0 payload

/-- Whether packets for a chip can leave. -/
def State.reaches (s : State) (chip : Nat) : Bool := s.ownId != 0xFFFF && (s.portTo chip).isSome

/-- Poisoned pieces of the packet that carries bytes 960 j to 960 j + 959, behind a sub-header of one unit. -/
def packetPoison (bad : List Nat) (j : Nat) : List Nat :=
  (bad.filter fun u => decide (15 * j ≤ u ∧ u < 15 * j + 15)).map fun u => u - 15 * j + 1

/-- Send one page into working copy k mod 2 at an offset of the held region, in packets of up to 960 bytes; poison goes with its
data (R434). -/
def State.sendPage (s : State) (p at_ : Nat) (bs : List Byte) (bad : List Nat) : State :=
  let x := (s.part p).protect
  (List.range (cdiv bs.length 960)).foldl (fun s j =>
    s.sendPacket { s.mirrorPacket p (subHeader 1 p 0 false [x.heldBase, x.heldLength, at_ + 960 * j, min 960 (bs.length - 960 * j)] ++ (bs.drop (960 * j)).take 960)
      with poison := packetPoison bad j } none) s

/-- The table of mirror entries, one packet for each range; the first starts it afresh. -/
def State.sendTable (s : State) (p : Nat) : State :=
  let x := (s.part p).protect
  let rs := (s.mirrorEntries p).flatMap fun e => e.2.map fun r => (e.1, r)
  rs.zipIdx.foldl (fun s r => s.sendPacket (s.mirrorPacket p
    (subHeader 3 p r.1.1 (r.2 == 0) [x.heldBase, x.heldLength, r.1.2.1, r.1.2.2])) none) s

/-- One page of a send: what it held before a write that waited, or what it holds; its bit of the copy's map is cleared,
and set again by such a write (R549, R550). -/
def State.sendMapped (s : State) (p k : Nat) (pg : Nat × Nat) : State :=
  let x := (s.part p).protect
  let rs := ((s.mirrorEntries p).find? fun e => e.1 == pg.1).map (·.2)
  let kept := x.preMirror.find? fun e => e.1 == pg.1 && e.2.1 == pg.2
  let (bs, bad) := match kept with
    | some e => e.2.2
    | none => (s.pageBytes p (rs.getD []) pg.2, s.pageBad p (rs.getD []) pg.2)
  let s := s.sendPage p (8192 + k % 2 * s.mirrorSize p + s.mirrorOffset p pg.1 + 4096 * pg.2) bs bad
  if kept.isSome then s
  else s.modPart p fun y => { y with protect :=
    if k % 2 = 0 then { y.protect with map0 := y.protect.map0.filter (· != pg) }
    else { y.protect with map1 := y.protect.map1.filter (· != pg) } }

/-- Whether any snapshot entry of partition p is dirty (R555). -/
def State.snapDirty (s : State) (p : Nat) : Bool :=
  match s.protTable p with
  | some t => t.entries.zipIdx.any fun e => e.1.snapshot && (s.part p).protect.dirty.contains e.2
  | none => false

/-- MIRROR_SEND (R549): the pages of the closed step, then the seal. Nothing is sent while the partner is out of reach. -/
def State.mirrorSends (s : State) (p : Nat) : State :=
  let x := (s.part p).protect
  match x.sendStep with
  | none => s
  | some k =>
    if !x.mirrorOn || !s.reaches x.partner then s
    else
      let s := x.toSend.foldl (fun s pg => s.sendMapped p k pg) (s.sendTable p)
      let n := match x.drain with
        | some d => if d.2 = k then d.1 else noNumber
        | none => noNumber
      let s := s.sendPacket (s.mirrorPacket p (subHeader 2 p 0 (s.snapDirty p) [x.heldBase, x.heldLength, k, n])) none
      s.modPart p fun y => { y with protect :=
        { y.protect with sendStep := none, toSend := [], preMirror := [], sealSent := some k } }

def execMirrorSend (p : Nat) (s : State) : Out := onUnit (decide (p < 16)) (s.mirrorSends p)

/-- MIRROR_LOST (R551): 10 ms without reaching the partner end the mirroring, and writes no longer wait. -/
def State.loseMirror (s : State) (p : Nat) : State :=
  let x := (s.part p).protect
  if x.mirrorOn && (x.sendStep.isSome || x.sealSent.isSome) then
    s.modPart p fun y => { y with protect :=
      { y.protect with mirrorOn := false, mirrorLost := true, sendStep := none, toSend := [], preMirror := [], sealSent := none } }
  else s

def execMirrorLost (p : Nat) (s : State) : Out := onUnit (decide (p < 16)) (s.loseMirror p)

/-! ### The partner -/

/-- Whether a range of DDR5 may be held for a partner: populated, held by no partition, and outside the spill region
(R548). -/
def State.mayHold (s : State) (base len : Nat) : Bool :=
  decide (0 < len ∧ 0x0200_0000_0000 ≤ base ∧ base + len ≤ 0x0400_0000_0000) &&
    (unitsOf (rangeFrom base len)).all fun u =>
      (s.resolveDirect (u * 64)).isSome && !s.inSpill (u * 64) && !(List.range 16).any fun q => s.holds q (u * 64)

/-- Bytes of one copy in a held region. -/
def Held.size (h : Held) : Nat := rangesSize (h.table.map (·.2))

/-- Device address of copy c of a held region: W0, W1, B0, B1. -/
def Held.copyBase (h : Held) (c : Nat) : Nat := h.base + 8192 + c * h.size

/-- Replace or add the held region of a chip's partition. -/
def State.setHeld (s : State) (h : Held) : State :=
  { s with held := h :: s.held.filter fun g => !(g.chip == h.chip && g.partition == h.partition) }

/-- Data of a send lands, with its poison: the seal of the copy it falls in no longer describes it. -/
def State.landMirror (s : State) (h : Held) (at_ : Nat) (bs : List Byte) (bad : List Nat) : State :=
  if h.length < at_ + bs.length then s
  else
    let which := if h.size = 0 then 0 else (at_ - 8192) / h.size
    let h := if which = 0 then { h with seal0 := none } else if which = 1 then { h with seal1 := none } else h
    ((s.writePhys none (cellsAt (h.base + at_) bs)).state.carryPoison none (h.base + at_) bad).setHeld h

/-- A seal is recorded, and with a snapshot number the sealed working copy is copied into its base copy (R549, R555);
both are acknowledged. -/
def State.landSeal (s : State) (h : Held) (k n : Nat) (dirty : Bool) : State :=
  let h := if k % 2 = 0 then { h with seal0 := some k, dirty := dirty } else { h with seal1 := some k, dirty := dirty }
  let based := n != noNumber
  let s := if based then
      (s.writePhys none (cellsAt (h.copyBase (2 + n % 2)) (s.peek none (h.copyBase (k % 2)) h.size))).state.carryPoison none
        (h.copyBase (2 + n % 2)) (s.badPieces none (h.copyBase (k % 2)) h.size)
    else s
  let h := if !based then h else if n % 2 = 0 then { h with base0 := some k } else { h with base1 := some k }
  let s := s.setHeld h
  s.sendPacket { s.chipPacket h.chip 5 (subHeader 4 h.partition 0 based [h.base, h.length, k, n]) with
    dstPartition := h.partition, dstEpoch := h.epoch } none

/-- The held region a MIRROR packet writes to; a first packet reserves it (R548). -/
def State.heldFor (s : State) (pk : Packet) : Option Held :=
  let base := pk.num 8 8
  let len := pk.num 16 8
  match s.held.find? fun h => h.chip == pk.srcChip && h.partition == pk.srcPartition && h.base == base && h.length == len with
  | some h => some { h with epoch := pk.srcEpoch }
  | none =>
    if s.mayHold base len then
      some { chip := pk.srcChip, partition := pk.srcPartition, epoch := pk.srcEpoch, base := base, length := len, seal0 := none
             seal1 := none, base0 := none, base1 := none, dirty := false, table := [] }
    else none

/-- The acknowledgement of a seal reaches its sender (R551, R555). -/
def State.sealAcked (s : State) (pk : Packet) : State :=
  let p := pk.dstPartition
  let x := s.part p
  let k := pk.num 24 8
  if x.protect.mirrorOn && x.protect.partner == pk.srcChip && x.epoch.toNat == pk.dstEpoch then
    (s.setReg clsPart p 0x1158 (BitVec.ofNat 64 k)).modPart p fun y => { y with protect :=
      { y.protect with sealSent := if y.protect.sealSent = some k then none else y.protect.sealSent
                       baseAcked := y.protect.baseAcked || (pk.num 3 1 == 1 && y.protect.drain == some (pk.num 32 8, k)) } }
  else s

/-- MIRROR (R548, R549, R551): a packet of an epoch below the last recorded is dropped as EPOCH_STALE. -/
def State.takeMirror (s : State) (i : Nat) (pk : Packet) : State :=
  let ty := pk.num 0 1
  if ty = 4 then s.sealAcked pk
  else if s.held.any fun h => h.chip == pk.srcChip && h.partition == pk.srcPartition && decide (pk.srcEpoch < h.epoch) then
    s.dropPacket i
  else match s.heldFor pk with
    | none => s
    | some h =>
      if ty = 1 then s.landMirror h (pk.num 24 8) pk.body pk.bodyPoison
      else if ty = 2 then s.landSeal h (pk.num 24 8) (pk.num 32 8) (pk.num 3 1 == 1)
      else if ty = 3 then
        s.setHeld { h with table := (if pk.num 3 1 = 1 then [] else h.table) ++ [(pk.num 2 1, pk.num 24 8, pk.num 32 8)] }
      else s

def execMirror (i : Nat) (pk : Packet) (s : State) : Out := packetRow s i 5 pk fun s => s.takeMirror i pk

/-! ### Fills -/

/-- The partner's recovery point of a held region (R557): the step and the copy that holds it. -/
def Held.recovery (h : Held) : Option (Nat × Nat) :=
  let newest := fun (a b : Option Nat) (ca cb : Nat) => match a, b with
    | some x, some y => if x < y then some (y, cb) else some (x, ca)
    | some x, none => some (x, ca)
    | none, some y => some (y, cb)
    | none, none => none
  if h.dirty then newest h.base0 h.base1 2 3 else newest h.seal0 h.seal1 0 1

/-- A FILL packet to the spare. -/
def State.fillOut (s : State) (chip : Nat) (payload : List Byte) : State := s.sendPacket (s.chipPacket chip 6 payload) none

/-- Data of one range, in packets of up to 960 bytes. -/
def State.fillRange (s : State) (chip part n src dst len : Nat) : State :=
  (List.range (cdiv len 960)).foldl (fun s j =>
    s.sendPacket { s.chipPacket chip 6
        (subHeader 1 part 0 false [dst + 960 * j, 0, n, min 960 (len - 960 * j)] ++ s.peek none (src + 960 * j) (min 960 (len - 960 * j))) with
      poison := (s.badPieces none (src + 960 * j) (min 960 (len - 960 * j))).map (· + 1) } none) s

/-- Send the copy of one partition: each entry's ranges, then that the entry is complete (R560). -/
def State.fillPartition (s : State) (chip n : Nat) (h : Held) : State :=
  match h.recovery with
  | none => s
  | some (k, c) =>
    (h.table.foldl (fun (a : State × Nat) r =>
      let s := a.1.fillRange chip h.partition n (h.copyBase c + a.2) r.2.1 r.2.2
      let last := !(h.table.any fun q => q.1 == r.1 && decide (r.2.1 < q.2.1))
      (if last then s.fillOut chip (subHeader 2 h.partition r.1 false [0, k, n]) else s, a.2 + upTo 4096 r.2.2)) (s, 0)).1

/-- A fill request at the partner (R516, R560): first what will be filled, then the copies, then the end. -/
def State.serveFill (s : State) (pk : Packet) : State :=
  let chip := pk.srcChip
  let failed := pk.num 8 8
  let n := pk.num 16 8
  if n ≤ s.pair.highestFill then s.fillOut chip (subHeader 5 0 0 false [failed, n, s.pair.highestFill + 1])
  else
    let s := { s with pair := { s.pair with highestFill := n } }
    let hs := s.held.filter fun h => h.chip == failed
    let s := hs.foldl (fun s h => h.table.foldl (fun s r =>
      s.fillOut chip (subHeader 4 h.partition r.1 false [r.2.1, r.2.2, n])) s) s
    (hs.foldl (fun s h => s.fillPartition chip n h) s).fillOut chip (subHeader 3 0 0 false [failed, n, n])

/-- The fill ends with a response to SPARE_ADOPT. -/
def State.endFill (s : State) : State := { s with pair := { s.pair with filling := none, pending := none } }

/-- FILL at the spare (R514 to R516, R560). -/
def State.takeFilled (s : State) (mb : Nat) (pk : Packet) : State :=
  let p := pk.num 1 1 % 16
  let a := pk.num 8 8
  match pk.num 0 1 with
  | 1 => (s.writePhys none ((cellsAt a pk.body).filterMap fun c => (s.resolve none c.1).map fun y => (y, c.2))).state.carryPoison
      none a pk.bodyPoison
  | 2 =>
    (s.setReg clsPart p 0x1178 (BitVec.ofNat 64 (pk.num 16 8))).modPart p fun x => { x with protect :=
      { x.protect with copies := x.protect.copies.filter (fun c => c.1 != pk.num 2 1) ++ [(pk.num 2 1, pk.num 16 8)] } }
  | 3 =>
    let feed := ((s.pair.pending.bind (·.got)).map (·.toNat)).getD 0
    let s := (List.range 16).foldl (fun s q =>
      if (s.part q).state == .created && !(s.part q).protect.copies.isEmpty then
        s.modPart q fun x => { x with state := .recovering, ready := true, planKept := false }
      else s) s
    s.endFill.answerBind mb feed false
  | 4 =>
    if (s.part p).state == .created && (rangeFrom a (pk.num 16 8)).all fun x => (s.reach p true x).isSome then s
    else s.endFill.notAllowed mb (s.part p).state.code
  | 5 => s.endFill.badArg mb 12 (pk.num 24 8)
  | _ => s

/-! ### Snapshots -/

/-- What an image stores of each entry: its number and its range. A snapshot of an interval stores the snapshot entries;
SNAPSHOT_TAKE stores every entry (R552, R556). -/
def State.imageEntries (s : State) (p : Nat) (all : Bool) : List (Nat × Nat × Nat) :=
  match s.protTable p with
  | some t => t.entries.zipIdx.filterMap fun e =>
      if all || e.1.snapshot then (s.drainRange p e.2 e.1).map fun r => (e.2, r.1, r.2) else none
  | none => []

/-- Offset of each stored entry's data in the image: entries follow the header one after another. -/
def imageOffsets (at_ : Nat) : List (Nat × Nat × Nat) → List (Nat × Nat × Nat)
  | [] => []
  | (e, _, n) :: r => (e, at_, n) :: imageOffsets (at_ + n) r

/-- The 8 KiB header of an image (R552); `mark` is the completion mark, whose value is not given. -/
def imageHeader (hash : BitVec 384) (p step n tag mark : Nat) (offs : List (Nat × Nat × Nat)) : List Byte :=
  let h : List Byte := leBytes 48 hash.toNat ++ leBytes 8 p ++ leBytes 8 step ++ leBytes 8 n ++ leBytes 8 (tag % 65536) ++ leBytes 8 mark
    ++ List.replicate 40 (0 : Byte)
    ++ (List.range 255).flatMap fun e => match offs.find? fun o => o.1 == e with
        | some o => leBytes 8 o.2.1 ++ leBytes 8 o.2.2
        | none => List.replicate 16 (0 : Byte)
  h ++ List.replicate (8192 - h.length) 0

/-- Write bytes of an image to its target: host memory or device memory. -/
def State.imageWrite (s : State) (toHost : Bool) (a : Nat) (bs : List Byte) : State × Option (Nat × Nat) :=
  if toHost then (s.writeHost a bs, none)
  else let w := s.fwWrite a bs; (w.state, w.refused)

/-- Poison goes with what an image was copied from (R434). -/
def State.imagePoison (s : State) (toHost : Bool) (a : Nat) (bad : List Nat) : State :=
  if toHost then { s with hostBad := bad.foldl (fun m j => sput (fun _ => false) m ((a + 64 * j) / 64) true) s.hostBad }
  else s.carryPoison none a bad

/-- A page that an entry held when its drain began, with its bad pieces: what a write has waited for, or what stands there (R553,
R554). -/
def State.drainPage (s : State) (p : Nat) (e : Nat × Nat × Nat) (g : Nat) : List Byte × List Nat :=
  match (s.part p).protect.preSnap.find? fun x => x.1 == e.1 && x.2.1 == g with
  | some x => x.2.2
  | none => (s.pageBytes p [(e.2.1, e.2.2)] g, s.pageBad p [(e.2.1, e.2.2)] g)

/-- The bytes an entry held when its drain began. -/
def State.drainBytes (s : State) (p : Nat) (e : Nat × Nat × Nat) : List Byte :=
  (List.range (cdiv e.2.2 4096)).flatMap fun g => (s.drainPage p e g).1

/-- The bad pieces it held. -/
def State.drainBad (s : State) (p : Nat) (e : Nat × Nat × Nat) : List Nat :=
  (List.range (cdiv e.2.2 4096)).flatMap fun g => (s.drainPage p e g).2.map (64 * g + ·)

/-- Address of image slot n mod 2. -/
def ProtTable.slot (t : ProtTable) (n : Nat) : Nat := t.target + n % 2 * (t.size / 2)

/-- SNAPSHOT_DRAIN (R553, R554): the entries still to drain are written to the image. -/
def State.drains (s : State) (p : Nat) : State :=
  match (s.part p).protect.drain, s.protTable p with
  | some (n, _), some t =>
    let es := s.imageEntries p false
    let offs := imageOffsets (t.slot n + 8192) es
    (es.zip offs).foldl (fun s e =>
      if (s.part p).protect.drained.contains e.1.1 then s
      else
        let bs := s.drainBytes p e.1
        let bad := s.drainBad p e.1
        ((s.imageWrite t.toHost e.2.2.1 bs).1.imagePoison t.toHost e.2.2.1 bad).modPart p fun x => { x with protect :=
          { x.protect with drained := insertNat e.1.1 x.protect.drained
                           preSnap := x.protect.preSnap.filter fun y => y.1 != e.1.1 } }) s
  | _, _ => s

def execSnapshotDrain (p : Nat) (s : State) : Out := onUnit (decide (p < 16)) (s.drains p)

/-- A completion mark: any value that is not zero (log entry 44). -/
def State.freeMark (s : State) : Nat × State :=
  let (v, s) := s.freeBits 64
  ((v ||| 1).toNat, s)

/-- SNAPSHOT_COMPLETE (R555): every entry is drained and a mirroring partition's base copy is acknowledged; the header
and its completion mark are written and PART_SNAP_STEP shows the step. -/
def State.completeSnapshot (s : State) (p : Nat) : State :=
  let x := (s.part p).protect
  match x.drain, s.protTable p, (s.part p).plan with
  | some (n, k), some t, some pl =>
    let es := s.imageEntries p false
    if es.all (fun e => x.drained.contains e.1) && (!x.mirrorOn || x.baseAcked) then
      let (mark, s) := s.freeMark
      let s := (s.imageWrite t.toHost (t.slot n) (imageHeader pl.programHash p k n n mark (imageOffsets 8192 es))).1
      (s.setReg clsPart p 0x1160 (BitVec.ofNat 64 k)).modPart p fun y => { y with protect :=
        { y.protect with drain := none, drained := [], drainRegions := [], preSnap := [], baseAcked := false
                         dirty := y.protect.dirtySince, dirtySince := [] } }
    else s
  | _, _, _ => s

def execSnapshotComplete (p : Nat) (s : State) : Out := onUnit (decide (p < 16)) (s.completeSnapshot p)

/-- The snapshot of step S begins (R552, R555): the entries' present regions hold state S. -/
def State.beginDrain (s : State) (p n k : Nat) : State :=
  let regions := match s.protTable p with
    | some t => t.entries.zipIdx.filterMap fun e => (s.entrySlot p e.1).map fun m => (e.2, m.region)
    | none => []
  s.modPart p fun x => { x with protect :=
    { x.protect with drain := some (n, k), drained := [], drainRegions := regions, preSnap := [], baseAcked := false
                     dirtySince := [] } }

/-! ### SNAPSHOT_TAKE and SNAPSHOT_RESTORE -/

/-- Whether a range of a snapshot command is in host memory, or in a DDR5 part of the device. -/
def State.imageReaches (s : State) (host : Bool) (a n : Nat) : Bool :=
  host || (decide (0x0200_0000_0000 ≤ a ∧ a + n ≤ 0x0400_0000_0000) &&
    (unitsOf (rangeFrom a n)).all fun u => (s.resolveDirect (u * 64)).isSome)

/-- SNAPSHOT_TAKE (R556). -/
def State.snapshotTake (s : State) (p m : Nat) (t : Taken) : State :=
  let a := t.arg 16 8
  let es := s.imageEntries p true
  if 1 < t.arg 10 1 then s.badArg m 10 0
  else if !s.imageReaches (t.arg 10 1 == 1) a (8192 + (es.map fun e => e.2.2).sum) then
    s.badArg m 16 (leastOf regionStarts fun x => s.imageReaches false x (8192 + (es.map fun e => e.2.2).sum))
  else match (s.part p).plan with
    | none => s.notAllowed m (s.part p).state.code
    | some pl =>
      let k := s.stepsDone p
      let host := t.arg 10 1 == 1
      let bad := es.findSome? fun e => s.probe (some p) e.2.1 e.2.2
      match bad with
      | some b => s.cmdFaulted (some p) m b
      | none =>
        let (mark, s) := s.freeMark
        let (num, s) := s.freeNat
        let w := (es.zip (imageOffsets (a + 8192) es)).foldl (fun (r : State × Option (Nat × Nat)) e =>
          let x := r.1.imageWrite host e.2.2.1 (r.1.peek (some p) e.1.2.1 e.1.2.2)
          (x.1, r.2.orElse fun _ => x.2)) (s, none)
        let h := w.1.imageWrite host a (imageHeader pl.programHash p k num (t.arg 8 2) mark (imageOffsets 8192 es))
        match w.2.orElse fun _ => h.2 with
        | some b => h.1.cmdFaulted (some p) m b
        | none => h.1.ok m (leBytes 8 k)

def execSnapshotTake (m : Nat) (s : State) : Out := linsoPart m 0x30 anyForm (fun p t s => s.snapshotTake p m t) s

/-- The ranges that a restore of an entry writes: a masked entry's copy is of its active region. -/
def State.restoreRange (s : State) (p : Nat) (e : ProtEntry) : Option (Nat × Nat) :=
  if e.kind = 1 then some (e.base, e.length)
  else (s.entrySlot p e).map fun m => (m.activeBase, regionBytes m)

/-- Where an image keeps an entry's copy at a step: its address and length. -/
def State.copyPlace (s : State) (p : Nat) (t : Taken) (ix : Nat) (e : ProtEntry) : Option (Nat × Nat) :=
  let a := t.arg 16 8
  let num := fun (o n : Nat) =>
    (if t.arg 10 1 = 1 then s.readHost (a + o) n else some (s.peek none (a + o) n)).map leNat
  if t.arg 10 1 < 2 then
    match num 56 8, num 72 2, num 80 8, num (128 + 16 * ix) 8, num (136 + 16 * ix) 8, s.restoreRange p e with
    | some k, some tag, some mark, some off, some len, some r =>
      if k = t.arg 24 8 ∧ tag = t.arg 8 2 ∧ mark ≠ 0 ∧ off ≠ 0 ∧ len = r.2 then some (a + off, len) else none
    | _, _, _, _, _, _ => none
  else none

/-- The copy an image keeps of an entry, and where a restore writes it. -/
def State.copyIn (s : State) (p : Nat) (t : Taken) (ix : Nat) (e : ProtEntry) : Option (List (Nat × List Byte)) :=
  match s.copyPlace p t ix e, s.restoreRange p e with
  | some (x, n), some r =>
    (if t.arg 10 1 = 1 then s.readHost x n else some (s.peek none x n)).map fun bs => [(r.1, bs)]
  | _, _ => none

/-- A copy of an image in host memory that a host read does not give; one in device memory that a read does not give (R647). -/
def State.copyUnread (s : State) (places : List (Nat × Nat)) : Bool := places.any fun x => (s.readHost x.1 x.2).isNone
def State.copyBad (s : State) (places : List (Nat × Nat)) : Option (Nat × Nat) := places.findSome? fun x => s.probe none x.1 x.2

/-- COPY_LOST for a protection entry (R558, detail table). -/
def State.copyLost (s : State) (p ix : Nat) : State :=
  s.raiseReport { Report.of cCopyLost 0 (s.ownId % 2 ^ 16 * 2 ^ 48 + ix % 2 ^ 8 * 2 ^ 40) 0 0 with partition := some p }

/-- Write the restored copies; the entries then hold copies at the step. -/
def State.restoreCopies (s : State) (p step : Nat) (cs : List (Nat × List (Nat × List Byte))) : State :=
  cs.foldl (fun s c =>
    let s := c.2.foldl (fun s w => (s.fwWrite w.1 w.2).state) s
    s.modPart p fun x => { x with protect :=
      { x.protect with copies := x.protect.copies.filter (fun e => e.1 != c.1) ++ [(c.1, step)] } }) s

/-- Entries of the protection table, numbered. -/
def State.tableEntries (s : State) (p : Nat) : List (ProtEntry × Nat) :=
  match s.protTable p with
  | some t => t.entries.zipIdx
  | none => []

/-- Whether an entry lacks a copy after a fill or a restore (R558, R562). -/
def State.lacksCopy (s : State) (p : Nat) : Bool :=
  let x := (s.part p).protect
  x.lost || (!x.copies.isEmpty && (s.tableEntries p).any fun e => !x.copies.any fun c => c.1 == e.2)

/-- The check before anything is written (R558): the first entry with a copy neither in the source nor written earlier at
this step raises COPY_LOST and the command answers FAULTED. -/
def State.checkCopies (s : State) (p m step : Nat) (has : Nat → Bool) : Option State :=
  match (s.tableEntries p).find? fun e => !has e.2 && !(s.part p).protect.copies.contains (e.2, step) with
  | some e =>
    some (((s.copyLost p e.2).modPart p fun x => { x with protect := { x.protect with lost := true } }).answerFaulted m cCopyLost
      s.tickNow)
  | none => none

/-- A host read that returns poison or an error (R647): an UNCORRECTABLE item whose detail, for host memory, is not given
(log entry 46), and FAULTED. -/
def State.hostFaulted (s : State) (p : Option Nat) (m : Nat) : State :=
  let (d, s) := s.freeNat
  (s.raiseReport { Report.of cUncorrectable 0 d 0 0 with partition := p }).answerFaulted m cUncorrectable s.tickNow

/-- A request to the partner for the copies of a partition at a step, and the partner's answers: manifest with the
entries it holds as a bitmap, data as in a fill, end (log entry 37). -/
def State.askPartner (s : State) (p m step : Nat) : State :=
  let s := { s with pair := { s.pair with restoring := some { mb := m, partition := p, step := step, entries := none } } }
  (s.sendPacket { s.chipPacket (s.part p).protect.partner 6 (subHeader 6 p 0 false [0, step]) with srcPartition := p } none).accept m

/-- SNAPSHOT_RESTORE (R558). -/
def State.snapshotRestore (s : State) (p m : Nat) (t : Taken) : State :=
  let src := t.arg 10 1
  let a := t.arg 16 8
  let step := t.arg 24 8
  if 2 < src then s.badArg m 10 0
  else if src = 2 ∧ a ≠ 0 then s.badArg m 16 0
  else if src = 2 then s.askPartner p m step
  else if !s.imageReaches (src == 1) a 8192 then s.badArg m 16 (leastOf regionStarts fun x => s.imageReaches false x 8192)
  else if src = 1 ∧ (s.readHost a 8192).isNone then s.hostFaulted (some p) m
  else match (if src = 0 then s.probe none a 8192 else none) with
    | some b => s.cmdFaulted (some p) m b
    | none =>
      let places := (s.tableEntries p).filterMap fun e => s.copyPlace p t e.2 e.1
      if src = 1 ∧ s.copyUnread places then s.hostFaulted (some p) m
      else match (if src = 0 then s.copyBad places else none) with
    | some b => s.cmdFaulted (some p) m b
    | none =>
      let copies := (s.tableEntries p).filterMap fun e => (s.copyIn p t e.2 e.1).map fun c => (e.2, c)
      match s.checkCopies p m step fun ix => copies.any fun c => c.1 == ix with
      | some s => s
      | none =>
        ((s.restoreCopies p step copies).modPart p fun x => { x with protect := { x.protect with lost := false } }).ok m []

def execSnapshotRestore (m : Nat) (s : State) : Out := linsoPart m 0x31 anyForm (fun p t s => s.snapshotRestore p m t) s

/-- The copy of a held region that stands at a step. -/
def Held.copyAt (h : Held) (step : Nat) : Option Nat :=
  if h.seal0 = some step then some 0 else if h.seal1 = some step then some 1
  else if h.base0 = some step then some 2 else if h.base1 = some step then some 3 else none

/-- The partner serves a request for the copies of one partition at one step. -/
def State.serveRestore (s : State) (pk : Packet) : State :=
  let chip := pk.srcChip
  let p := pk.num 1 1
  let step := pk.num 16 8
  let h := s.held.find? fun h => h.chip == chip && h.partition == p
  let c := h.bind fun h => h.copyAt step
  match h, c with
  | some h, some c =>
    let bits := h.table.foldl (fun (a : List Nat) r => insertNat r.1 a) []
    let s := s.fillOut chip ((subHeader 7 p 0 false [0, step]).take 32 ++ leBytes 32 ((bits.map (2 ^ ·)).sum))
    let s := (h.table.foldl (fun (a : State × Nat) r =>
      (a.1.fillRange chip p 0 (h.copyBase c + a.2) r.2.1 r.2.2, a.2 + upTo 4096 r.2.2)) (s, 0)).1
    s.fillOut chip (subHeader 8 p 0 false [0, step])
  | _, _ =>
    (s.fillOut chip (subHeader 7 p 0 false [0, step])).fillOut chip (subHeader 8 p 0 false [0, step])

/-- What the partner sends for a restore. -/
def State.takeRestored (s : State) (r : Restore) (pk : Packet) : State :=
  let done := fun (s : State) => { s with pair := { s.pair with restoring := none } }
  match pk.num 0 1, r.entries with
  | 7, none =>
    let bits := pk.num 32 32
    match (done s).checkCopies r.partition r.mb r.step (bitAt bits) with
    | some s => s
    | none => { s with pair := { s.pair with restoring := some { r with entries := some ((List.range 255).filter (bitAt bits)) } } }
  | 1, some _ =>
    (s.writePhys none ((cellsAt (pk.num 8 8) pk.body).filterMap fun c =>
      (s.reach r.partition true c.1).map fun y => (y, c.2))).state.carryPoison none (pk.num 8 8) pk.bodyPoison
  | 8, some es =>
    ((done s).modPart r.partition fun x => { x with protect := { x.protect with
      lost := false
      copies := x.protect.copies.filter (fun c => !es.contains c.1) ++ es.map fun e => (e, r.step) } }).ok r.mb []
  | _, _ => s

/-- FILL (R516, R558, R560): a request at the partner, or what a fill or a restore that runs carries. -/
def State.takeFill (s : State) (pk : Packet) : State :=
  let fromPartner := s.pair.bound && s.pair.partner == pk.srcChip
  if pk.num 0 1 = 0 then if fromPartner then s.serveFill pk else s
  else if pk.num 0 1 = 6 then s.serveRestore pk
  else match s.pair.restoring, s.pair.filling with
    | some r, _ => if pk.srcChip = (s.part r.partition).protect.partner then s.takeRestored r pk else s
    | none, some (mb, _, _) => if s.pair.partner = pk.srcChip then s.takeFilled mb pk else s
    | none, none => s

def execFill (i : Nat) (pk : Packet) (s : State) : Out := packetRow s i 6 pk fun s => s.takeFill pk

/-! ### MIRROR_CONFIG -/

/-- Whether a MIRROR_CONFIG enables. -/
def mirrorEnables (t : Taken) : Bool := t.arg 8 1 != 0

/-- MIRROR_CONFIG with enable 1 (R548): the partner is the bound one; the region takes a header and four copies. Every
page of every mirror entry is due in both working copies. -/
def State.mirrorConfig (s : State) (p m : Nat) (t : Taken) : State :=
  let chip := t.arg 10 2
  let base := t.arg 16 8
  let len := t.arg 24 8
  if 1 < t.arg 8 1 then s.badArg m 8 0
  else if chip = 0xFFFF then s.badArg m 10 0
  else if base < 0x0200_0000_0000 ∨ 0x0400_0000_0000 ≤ base then s.badArg m 16 0x0200_0000_0000
  else if len < 8192 + 4 * s.mirrorSize p ∨ 0x0400_0000_0000 < base + len then s.badArg m 24 (8192 + 4 * s.mirrorSize p)
  else if !s.pair.bound || s.pair.partner != chip then s.notAllowed m (s.part p).state.code
  else
    let pages := s.mirrorPages p
    (s.modPart p fun x => { x with protect :=
      { x.protect with mirrorOn := true, mirrorLost := false, partner := chip, heldBase := base, heldLength := len, map0 := pages
                       map1 := pages, sendStep := none, toSend := [], preMirror := [], sealSent := none } }).ok m []

def execMirrorConfig (m : Nat) (s : State) : Out := linsoPart m 0x32 mirrorEnables (fun p t s => s.mirrorConfig p m t) s

/-- MIRROR_CONFIG with enable 0 (R548). -/
def State.mirrorOff (s : State) (p m : Nat) : State :=
  (s.modPart p fun x => { x with protect :=
    { x.protect with mirrorOn := false, sendStep := none, toSend := [], preMirror := [], sealSent := none } }).ok m []

def execMirrorConfigDisable (m : Nat) (s : State) : Out :=
  linsoPart m 0x32 (fun t => !mirrorEnables t) (fun p _ s => s.mirrorOff p m) s

/-! ### Pairs and spares -/

/-- PAIR_BIND (R511, R512). -/
def State.pairBind (s : State) (m : Nat) (t : Taken) : State :=
  let chip := t.arg 8 2
  let p1 := t.arg 11 1
  let p2 := t.arg 12 1
  if chip = 0xFFFF then s.badArg m 8 0
  else if 1 < t.arg 10 1 then s.badArg m 10 0
  else if 15 < p1 then s.badArg m 11 0
  else if 15 < p2 then s.badArg m 12 0
  else if (p1 = 14 ∧ p2 = 15 ∧ !s.pkg.pairSense) ∨ s.pair.bound then s.notAllowed m 0xFF
  else
    let asked := t.arg 10 1 == 1
    let b : Bind := { mb := m, partner := chip, coFedAsked := asked, port1 := p1, port2 := p2, got := none, sent := s.portUp p1
                      fill := none }
    let s := { s with pair := { s.pair with pending := some b } }
    (((s.accept m).sendBind p1 chip asked).sendBind p2 chip asked).tryBind

def execPairBind (m : Nat) (s : State) : Out := linsoRow m 0x33 anyForm (fun t s => s.pairBind m t) s

/-- Take a logical ID (R514): it replaces the self entry. -/
def State.takeId (s : State) (chip : Nat) : State :=
  { s with routes := { chip := chip, port := 0, altPort := 0, altValid := false, self := true } ::
      s.routes.filter fun r => !r.self && r.chip != chip }

/-- SPARE_ADOPT (R514, R515). Without a route to the partner its BIND cannot be answered; which port NO_PARTNER then names
is free (log entry 32). The mode asked is independent: the command has no mode field. -/
def State.spareAdopt (s : State) (m : Nat) (t : Taken) : State :=
  let chip := t.arg 8 2
  let partner := t.arg 10 2
  if chip = 0xFFFF then s.badArg m 8 0
  else if partner = 0xFFFF then s.badArg m 10 0
  else if !(List.range 16).all (fun p => (s.part p).state == .free || (s.part p).state == .created) || s.pair.bound then
    s.notAllowed m 0xFF
  else
    let s := s.takeId chip
    match s.routeTo partner with
    | none =>
      let (n, s) := s.freeNat
      s.respond m stNoPartner [BitVec.ofNat 8 (n % 16)]
    | some r =>
      let p2 := if r.altValid then r.altPort else r.port
      let b : Bind := { mb := m, partner := partner, coFedAsked := false, port1 := r.port, port2 := p2, got := none, sent := s.portUp r.port
                        fill := some (t.arg 12 4) }
      let s := { s with pair := { s.pair with pending := some b } }
      let s := (s.accept m).sendBind r.port partner false
      (if r.altValid then s.sendBind r.altPort partner false else s).tryBind

def execSpareAdopt (m : Nat) (s : State) : Out := linsoRow m 0x80 anyForm (fun t s => s.spareAdopt m t) s

end Sys2Proof.Machine
end

