-- ==== Sys2Proof/Machine/Tick.lean ====
section
/-! DEFINITION. The tick (R30 to R46): the guard, the tick edge and the frames that begin there (R379 to R399), stops at
ticks (R400 to R402), wait reports and the wait detector (R529, R530, R650), and external ticks (R35, R36, R509). -/

namespace Sys2Proof.Machine

/-! ### Frame programs -/

/-- Addresses of a program's descriptors. -/
def programAddrs (g : Nat × Nat) : List Nat := (List.range g.2).map fun k => g.1 + 64 * k

/-- Whether a program holds a descriptor of a sequencer. -/
def State.hasRoute (s : State) (p : Nat) (pl : Plan) (g : Nat × Nat) (q : SeqSel) : Bool :=
  (programAddrs g).any fun a => (tagRoute (s.tagAt p pl a) == 1) == (q == .execute)

/-! ### Work at a guard (R39, R381) -/

/-- Whether a sequencer is at work. -/
def Frond.seqWork (x : Frond) (q : SeqSel) : Bool :=
  let sq := x.sq q
  !sq.ended || sq.wait.isSome || !sq.sigq.isEmpty || x.jobs.any (fun j => j.seq == q)
    || (q == .fetch && (!x.queue.isEmpty || x.loop.isSome || !x.passes.isEmpty))
    || (q == .execute && !x.queue.isEmpty)

/-- The engine that holds a job: copy engine, Rhizoid, array, drain, vector engine, update unit, Soredia unit, port. -/
def JobBody.engine : JobBody → Option Nat
  | .move => some 0
  | .multicast .. => some 0
  | .gather _ => some 1
  | .dense .. => some 2
  | .sparse .. => some 2
  | .sampled .. => some 2
  | .drain .. => some 3
  | .vec => some 4
  | .update .. => some 5
  | .prune _ => some 6
  | .regrow _ => some 6
  | .commit .. => some 6
  | .send .. => some 7
  | .recv .. => some 7
  | .signal => none
  | .ticket => none

/-- Sequencers and engines of a frond still at work. -/
def Frond.atWork (x : Frond) : Nat :=
  (if x.seqWork .fetch then 1 else 0) + (if x.seqWork .execute then 1 else 0)
    + (x.jobs.foldl (fun (l : List Nat) j => match j.body.engine with | some e => insertNat e l | none => l) []).length

/-- Address of a frond's oldest incomplete descriptor. -/
def Frond.oldest (x : Frond) : Option Nat :=
  match x.jobs with
  | j :: _ => some (x.jobs.foldl (fun (b : Job) k => if k.id < b.id then k else b) j).addr
  | [] => match x.fetch.wait, x.execute.wait, x.queue with
    | some (.sem _ _ _ a), _, _ => some a
    | some (.tick _ _ a), _, _ => some a
    | _, some (.sem _ _ _ a), _ => some a
    | _, some (.tick _ _ a), _ => some a
    | _, _, e :: _ => some e.dsc.addr
    | _, _, [] => none

/-- Whether the partition's frame closes at the coming tick. -/
def Partition.closing (x : Partition) : Bool :=
  x.active && (match x.plan with | some pl => x.frameTick + 1 == pl.frameTicks | none => false)

/-- Whether that frame is the last of its step. -/
def Partition.lastFrame (x : Partition) : Bool :=
  match x.plan with
  | some pl => x.frameIx + 1 == pl.framesPerStep
  | none => false

/-- Whether a partition runs and no fault has stopped it. -/
def Partition.sound (x : Partition) : Bool := x.active && x.faultCode == 0 && !x.fenceDue

/-- Keep a fault of the guard until its record is posted. -/
def State.addLate (s : State) (p : Nat) (l : Late) : State := s.modPart p fun x => { x with late := x.late ++ [l] }

/-- A fault found in the guard stops the partition at the coming edge (R523); its record follows (R40). -/
def State.condemn (s : State) (p : Nat) (l : Late) : State :=
  (s.addLate p l).modPart p fun x => { x with stopAtEdge := x.stopAtEdge || x.faultCode == 0 }

/-! ### Guard: overrun -/

/-- FRAME_OVERRUN of a partition whose frame closes, whether or not an earlier fault of it still waits to stop it (R39, R525,
R526; detail table). -/
def State.judgeOverrun (s : State) (t p : Nat) : State :=
  let x := s.part p
  let fs := match x.plan with
    | some pl => frondsOf pl.fronds
    | none => []
  let busy := fs.filter fun f => (s.frond f).atWork != 0
  if x.closing && !x.fenceDue && (x.halvedMark || !busy.isEmpty) then
    let unit := busy.head?.getD (fs.head?.getD 0)
    s.condemn p
      { code := cOverrun, subcode := if x.halvedMark then 2 else 1, detail := (fs.map fun f => (s.frond f).atWork).sum % 2 ^ 32
        cls := clsFrond, index := unit, desc := if busy.isEmpty then none else (s.frond unit).oldest, tick := t, trace := [] }
  else s

/-! ### Guard: ledgers -/

/-- Signed difference of a ledger, saturating to 32 bits. -/
def Ledger.gap (l : Ledger) : Nat :=
  let d : Int := (l.issued.toNat : Int) - ((l.completed + l.inFlight).toNat : Int)
  unsignedOf 32 (max (-(2 ^ 31)) (min (2 ^ 31 - 1) d))

/-- Frond of a stream's producer or consumer end. -/
def State.endFrond (s : State) (n : Nat) (producer : Bool) : Nat :=
  match s.stream n with
  | some x => if producer then x.producerFrond else x.consumerFrond
  | none => 0

/-- Sequencers of partition p whose program for the current frame signals plain semaphore m of frond f. -/
def State.plainSignallers (s : State) (p f m : Nat) : List (Nat × SeqSel) :=
  match (s.part p).plan with
  | none => []
  | some pl =>
    let x := s.part p
    (frondsOf pl.fronds).flatMap fun g =>
      let as := (programAddrs (s.programAt p pl x.set x.frameIx g)).filter fun a =>
        let d := s.peekNat (some p) a 16
        dscKind d == 0x31 && dscBody d 0 2 == 2 && dscBody d 4 4 == m && dscBody d 9 7 == f
      [SeqSel.fetch, .execute].filterMap fun q =>
        if as.any fun a => (tagRoute (s.tagAt p pl a) == 1) == (q == .execute) then some (g, q) else none

/-- Whether issued is the count out of step: with more in flight than was issued, no count of the taking end explains the
issued count (R56; log entry 119). -/
def Ledger.issuedOff (l : Ledger) : Bool := decide (l.issued.toNat < l.inFlight.toNat)

/-- The unit that an imbalance names (R56). -/
def State.imbalanceUnit (s : State) (p code obj : Nat) (issued : Bool) : Nat × Nat :=
  let pl := (s.part p).plan
  match code with
  | 4 => (clsBank, s.recordGroup p (((pl.bind fun l => l.tickets.find? fun t => t.2 == obj).map (·.1)).getD 0))
  | 5 => (obj / 256, obj % 256)
  | 6 => (clsSoredia, ((s.slot obj).bind fun m => pl.bind fun l => l.tensorTufts[m.policyIx]?).getD 0)
  | 7 => (0, 0)
  | _ => (clsFrond,
      if code = 2 ∧ 0x8000 ≤ obj then
        let f := (obj - 0x8000) / 16
        if issued then ((s.plainSignallers p f ((obj - 0x8000) % 16)).head?.map (·.1)).getD f else f
      else s.endFrond obj ((code != 1) == issued))

/-- Detail of an imbalance (detail table). -/
def imbalanceDetail (code obj : Nat) (l : Ledger) : Nat :=
  let plain := code == 2 && decide (0x8000 ≤ obj)
  let fin := if code = 5 ∨ code = 7 then 3 else if l.issuedOff then 1 else 2
  let id := if plain then 0xFFF else if code = 5 ∨ code = 7 then 0 else obj % 2 ^ 12
  fin * 2 ^ 60 + id * 2 ^ 48 + (if plain then obj * 2 ^ 32 else 0) + l.gap

/-- The imbalances of partition number p (0xFF the package ledger) in the tick snapshot, lowest code and object first. -/
def State.imbalances (s : State) (p : Nat) : List (Nat × Ledger) :=
  s.snap.ledgers.filter fun e => e.1 / 0x10000 / 8 == p && !e.2.balanced

/-- The ledger check of a partition (R54, R55, R57). -/
def State.checkLedgers (s : State) (t p : Nat) : State :=
  match s.imbalances p with
  | [] => s
  | e :: rest =>
    let code := e.1 / 0x10000 % 8
    let obj := e.1 % 0x10000
    let u := s.imbalanceUnit p code obj e.2.issuedOff
    (s.condemn p
      { code := cImbalance, subcode := code, detail := imbalanceDetail code obj e.2, cls := u.1, index := u.2, desc := none
        tick := t, trace := [] }).count32 clsPart p 0x113C rest.length

/-- The package ledger (R61). -/
def State.checkPackage (s : State) : State :=
  match s.imbalances 0xFF with
  | [] => s
  | e :: _ => (s.raiseReport (Report.of cImbalance 7 (3 * 2 ^ 60 + e.2.gap) 0 0)).setGlobalFault 12

/-! ### Guard: mask switches -/

/-- Whether a partition qualifies for its mask switches: its frame closes, and nothing has stopped it (R43, R234). -/
def Partition.switches (x : Partition) : Bool := x.sound && x.closing && !x.stopAtEdge

/-- The mask-switch interval: the tensors of qualifying partitions switch, in ascending mask slot (R231), with the trace items
of PART_TRACE and the protection entries they change; and the exchanges of R553. -/
def State.switchAll (s : State) : State :=
  let due := s.slots.filter fun e => match e.2 with | some m => (s.part m.partition).switches | none => false
  due.foldl (fun s e => match e.2 with
    | none => s
    | some m =>
      let s := if m.state = 3 then (s.traceEvent m.partition 5).markDirty m.partition (some m.policyIx) [] else s
      s.setSlot e.1 (some m.atSwitch)) s

/-! ### Guard: shapes and the step number -/

/-- Extent of class c and dimension d as the shape block holds it (R385). -/
def State.readExtents (s : State) (p : Nat) (pl : Plan) : List Nat :=
  if pl.shapes.isEmpty then List.replicate 32 0
  else (List.range 32).map fun i => s.peekNat (some p) (pl.shapeAddr + 4 * i) 4

/-- Fields of the shape table (R384). -/
def Plan.shapeKind (pl : Plan) (c : Nat) : Nat := leNat ((pl.shapes.drop (32 * c)).take 1)
def Plan.shapeDims (pl : Plan) (c : Nat) : Nat := leNat ((pl.shapes.drop (32 * c + 1)).take 1)
def Plan.shapeMax (pl : Plan) (c d : Nat) : Nat := leNat ((pl.shapes.drop (32 * c + 16 + 4 * d)).take 4)
def Plan.buckets (pl : Plan) : Nat := (pl.shapes.length - 256) / 192
def Plan.bucketSet (pl : Plan) (b : Nat) : Nat := leNat ((pl.shapes.drop (256 + 192 * b)).take 1)
def Plan.bucketMax (pl : Plan) (b c d : Nat) : Nat := leNat ((pl.shapes.drop (256 + 192 * b + 64 + 16 * c + 4 * d)).take 4)

/-- Used dimensions of the classes of a kind, in order. -/
def Plan.dimsOf (pl : Plan) (kind : Nat) : List (Nat × Nat) :=
  (List.range 8).flatMap fun c =>
    if pl.shapeKind c = kind then (List.range (pl.shapeDims c)).map fun d => (c, d) else []

/-- The bucket rule (R387): set and bucket, or the class and dimension that is over. -/
def Plan.bucketRule (pl : Plan) (ext : List Nat) : (Nat × Nat) ⊕ (Nat × Nat) :=
  let x := fun (e : Nat × Nat) => ext.getD (4 * e.1 + e.2) 0
  let bs := pl.dimsOf 2
  match (pl.dimsOf 1).find? fun e => decide (pl.shapeMax e.1 e.2 < x e) with
  | some e => .inr e
  | none =>
    match (List.range pl.buckets).find? fun b => bs.all fun e => decide (x e ≤ pl.bucketMax b e.1 e.2) with
    | some b => .inl (pl.bucketSet b, b)
    | none =>
      if bs.isEmpty then .inl (0, 0)
      else .inr ((bs.find? fun e => decide (pl.bucketMax (pl.buckets - 1) e.1 e.2 < x e)).getD (bs.headD (0, 0)))

/-- The shape block of a step that is about to begin is read in T0 and the set is selected (R386 to R388). -/
def State.readShape (s : State) (t p : Nat) : State :=
  match (s.part p).plan with
  | none => s
  | some pl =>
    let ext := s.readExtents p pl
    match pl.bucketRule ext with
    | .inl (set, b) => s.modPart p fun x => { x with extents := ext, set := set, bucket := b, skippedInStep := false }
    | .inr (c, d) =>
      s.addLate p { code := cShape, subcode := 0, detail := c * 2 ^ 61 + d * 2 ^ 59 + ext.getD (4 * c + d) 0, cls := clsPart
                    index := p, desc := none, tick := t, trace := [] }

/-- Poison a unit that a reader of the guard has found in error, count it at its store (R435), and keep the record. -/
def State.lateUnc (s : State) (t p : Nat) (cls index : Nat) (desc : Option Nat) (b : Nat × Nat) : State :=
  let st := storeOf (b.1 * 64)
  let u := if b.2 = 2 then (cls, index) else st
  s.addLate p { code := cUncorrectable, subcode := 0, detail := uncDetail (b.1 * 64) b.2, cls := u.1, index := u.2, desc := desc
                tick := t, trace := [] }

/-- The step number of R90, read in T0; `steps` is PART_STEPS as it stands at the coming edge, which is the step number of a
plan without shard record. -/
def State.readStep (s : State) (t p steps : Nat) : State :=
  match (s.part p).plan with
  | none => s
  | some pl =>
    match pl.shards with
    | [] => s.modPart p fun x => { x with stepN := steps }
    | a :: _ =>
      let r := s.readPhys (some p) ((rangeFrom a 8).filterMap (s.resolve (some p)))
      match r.bad with
      | some b => r.state.lateUnc t p clsPart p none b
      | none => r.state.modPart p fun x => { x with stepN := leNat r.bytes }

/-- Each fetch sequencer of the partition fills its program buffer for a frame of the selected set (R379). -/
def State.fillPrograms (s : State) (t p frame : Nat) : State :=
  match (s.part p).plan with
  | none => s
  | some pl => (frondsOf pl.fronds).foldl (fun s f =>
      let g := s.programAt p pl (s.part p).set frame f
      match State.fillProg p f 8 (s.modFrond f fun x => { x with prog := [], progNext := g.1, progEnd := g.1 + 64 * g.2 }) with
      | (s, none) => s
      | (s, some b) => s.lateUnc t p clsFrond f (some (b.1 * 64)) b) s

/-- Whether the partition begins a frame at the coming edge, as far as its commands say. -/
def Partition.begins (x : Partition) : Bool := x.active && x.closing && x.halt.isNone && !x.fenceDue

/-- The guard's preparation of the frame that begins at tick t: the shape block and the step field are read at T0 (R90, R386),
and the program buffers are filled (R379, R398). PART_STEPS at a start is 0, or the steps of the resume record (R398, R404). -/
def State.prepare (s : State) (t p : Nat) : State :=
  let x := s.part p
  match (if x.active then none else x.start.filter fun st => st.1 == t) with
  | some (_, resume, _) =>
    ((s.readShape t p).readStep t p (if resume then x.resumeSteps.getD 0 else 0)).fillPrograms t p 0
  | none =>
    if x.begins then
      let s := if x.lastFrame then s.readShape t p else s
      let s := s.readStep t p (s.stepsDone p + if x.lastFrame then 1 else 0)
      if x.stopAtEdge || x.faultCode != 0 then s else s.fillPrograms t p (if x.lastFrame then 0 else x.frameIx + 1)
    else s

/-! ### Guard: waits -/

/-- The object a sequencer waits on, coded as for WAIT_CYCLE, with the units that can end the wait (R529); none for a wait
that is not reported. An execute sequencer whose queue is empty waits on the queue. -/
def State.waitObject (s : State) (f : Nat) (q : SeqSel) : Option Nat :=
  let x := s.frond f
  match (x.sq q).wait with
  | some (.sem r _ _ _) => some (semObject r)
  | some (.credit n) => some n
  | some .queue => some (0xC000 + f)
  | some .ticket => x.loop.map (·.stream)
  | some (.tick ..) => none
  | some .engine => none
  | none => if q == .execute && !x.execute.ended && x.queue.isEmpty then some (0xC000 + f) else none

/-- The other sequencer. -/
def otherSeq : SeqSel → SeqSel
  | .fetch => .execute
  | .execute => .fetch

/-- The holders of a wait (R529). -/
def State.holdersOf (s : State) (p f : Nat) (q : SeqSel) : List (Nat × SeqSel) :=
  let x := s.frond f
  let streamEnd := fun (n : Nat) (producer : Bool) => match s.stream n with
    | some y => [if producer then (y.producerFrond, y.producerSeq) else (y.consumerFrond, y.consumerSeq)]
    | none => []
  match (x.sq q).wait with
  | some (.sem (.filled n) _ _ _) => streamEnd n true
  | some (.sem (.freed n) _ _ _) => streamEnd n false
  | some (.sem (.plain g m) _ _ _) => s.plainSignallers p g m
  | some (.credit n) => streamEnd n false
  | some .queue => [(f, otherSeq q)]
  | none => [(f, otherSeq q)]
  | _ => []

/-- WAIT_REPORT (R529): a wait of 256 cycles is reported. -/
def State.report (s : State) (f : Nat) (q : SeqSel) : State :=
  match s.workOf f, s.waitObject f q with
  | some p, some o =>
    { s with waits := s.waits.filter (fun w => !(w.frond == f && w.seq == q)) ++
        [{ frond := f, seq := q, object := o, holders := s.holdersOf p f q }] }
  | _, _ => s

def execWaitReport (f : Nat) (q : SeqSel) (s : State) : Out := onUnit (decide (f < 128)) (s.report f q)

/-- Reports that stand: the wait they name still lasts. -/
def State.standing (s : State) (p : Nat) : List WaitRep :=
  s.waits.filter fun w => s.workOf w.frond == some p && s.waitObject w.frond w.seq == some w.object

/-- Drop members that a non-member can release, until none is left to drop (R530). -/
def cycleOf : Nat → List WaitRep → List WaitRep
  | 0, l => l
  | n + 1, l =>
    let l' := l.filter fun w => !w.holders.isEmpty && w.holders.all fun h => l.any fun v => v.frond == h.1 && v.seq == h.2
    if l'.length = l.length then l else cycleOf n l'

/-- Order of members: by unit, fetch before execute. -/
def memberLt (a b : WaitRep) : Bool := decide (a.frond < b.frond) || (a.frond == b.frond && a.seq == .fetch && b.seq == .execute)

/-- One member's item of a trace packet (R650). -/
def memberItem (place : Nat) (w : WaitRep) : Item :=
  BitVec.ofNat 128 (w.object % 2 ^ 16 + (if w.seq == .execute then 1 else 0) * 2 ^ 16 + clsFrond * 2 ^ 24 + w.frond * 2 ^ 32
    + place % 2 ^ 16 * 2 ^ 48)

/-- A scan of partition p (R530): the members of the largest cycle that the previous scan held too; the scan is kept. -/
def State.scan (s : State) (p : Nat) : List WaitRep × State :=
  let now := s.standing p
  let cyc := cycleOf now.length now
  let before := ((s.lastScan.find? fun e => e.1 == p).map (·.2)).getD []
  let both := cyc.filter fun w => before.contains (w.frond, w.seq)
  let raised := cycleOf both.length both
  (sortBy memberLt raised,
   { s with lastScan := s.lastScan.filter (fun e => e.1 != p) ++ (if cyc.isEmpty then [] else [(p, cyc.map fun w => (w.frond, w.seq))]) })

/-- Detail of WAIT_CYCLE (detail table). A cycle of one member has no second: the record repeats the first (DESIGN CHOICE, log
entry 118). -/
def cycleDetail (l : List WaitRep) : Nat :=
  min 255 l.length * 2 ^ 56 + ((l.head?.map (·.object)).getD 0) % 2 ^ 16 * 2 ^ 40
    + (((l.drop 1).head?.map (·.object)).getD ((l.head?.map (·.object)).getD 0)) % 2 ^ 16 * 2 ^ 24

/-- Cut items into packets of at most 15. -/
def packetsOf : Nat → List Item → List (List Item)
  | 0, _ => []
  | n + 1, l => if l.isEmpty then [] else l.take 15 :: packetsOf n (l.drop 15)

/-- The trace packets of the hub after a WAIT_CYCLE record (R650). -/
def State.postMembers (s : State) (p : Nat) (items : List Item) : State :=
  (packetsOf items.length items).foldl (fun s is => s.post (some p) 3 0 0 is) s

/-- A scan that raises WAIT_CYCLE: in a guard it is posted after every other record, otherwise at once. -/
def State.scanRaise (s : State) (p : Nat) (guardTick : Option Nat) : State :=
  let (l, s) := s.scan p
  match l with
  | [] => s
  | w :: _ =>
    let items := l.zipIdx.map fun e => memberItem e.2 e.1
    match guardTick with
    | some t => s.addLate p { code := cWaitCycle, subcode := 0, detail := cycleDetail l, cls := clsFrond, index := w.frond
                              desc := none, tick := t, trace := items }
    | none => (s.raiseStop p (Report.of cWaitCycle 0 (cycleDetail l) clsFrond w.frond) false).postMembers p items

/-- WAIT_SCAN_MIDTICK (R530). -/
def execWaitScanMidtick (s : State) : Out :=
  .next ((List.range 16).foldl (fun s p => if (s.part p).sound then s.scanRaise p none else s) s)

/-! ### The guard -/

/-- Whether ticks run: the package is powered, out of reset, and its clocks run (R612, R614). -/
def State.ticking (s : State) : Bool :=
  s.pkg.pwrOk && !s.pkg.inWarmReset && !s.pkg.clocksStopped && !s.pkg.arithStopped

/-- The stop that is due at the coming edge (R399, R400, R402, R409). -/
def State.dueHalt (s : State) (p : Nat) : Option StopKind :=
  let x := s.part p
  if !x.active || x.fenceDue then none
  else match x.stop with
    | some (.preempt, _) => some .preempt
    | some (.destroy, _) => some .destroy
    | some (.planStop, _) => if x.closing && x.lastFrame then some .planStop else none
    | none =>
      match x.plan with
      | some pl =>
        if x.closing && x.lastFrame && pl.runSteps != 0 && s.stepsDone p + 1 == pl.runSteps then some .planStop else none
      | none => none

/-- Whether a stop in this guard is quiesced (R401). -/
def State.isQuiet (s : State) (p : Nat) : Bool :=
  (s.snap.ledgers.all fun e =>
      e.1 / 0x10000 / 8 != p || e.1 / 0x10000 % 8 < 2 || e.2.inFlight == 0)
    && !s.hyphae.signals.any fun g => g.partition == p && semLedger g.target == 1

/-- T0 of a partition: overrun, the halt that is due, and what a preempted partition abandons in T0+1. -/
def State.guardOpens (s : State) (t p : Nat) : State :=
  let s := s.judgeOverrun t p
  let h := s.dueHalt p
  let s := s.modPart p fun x => { x with halt := h }
  let s := if h.isSome then (let q := s.isQuiet p; s.modPart p fun x => { x with quiesced := q }) else s
  let s := s.prepare t p
  let s := if (s.part p).active && !(s.part p).fenceDue then s.scanRaise p (some t) else s
  let x := s.part p
  if h.isSome && h != some .planStop && !x.closing then s.abandon p else s

/-- Shadowed writes are applied (R10, R411), and with them a route table whose apply tick this is (R495). -/
def State.applyShadows (s : State) (t : Nat) : State :=
  let s := { s with regs := s.shadow.foldl (fun m (e : Nat × Dword) => sput regReset m e.1 e.2) s.regs, shadow := [] }
  match s.pendingRoutes with
  | some (m, at_, rs) => if at_ = t then { s with routes := rs, pendingRoutes := none }.ok m [] else s
  | none => s

/-- Post kept records of partition p that satisfy `now`, each with its trace items (R507, R523, R650). -/
def State.postLate (s : State) (now : Late → Bool) (p : Nat) : State :=
  let x := s.part p
  let s := s.modPart p fun x => { x with late := x.late.filter fun l => !now l }
  (x.late.filter now).foldl (fun s l =>
    (s.raiseStop p { Report.of l.code l.subcode l.detail l.cls l.index with desc := l.desc, tick := some l.tick } true).postMembers
      p l.trace) s

/-- Faults of a guard whose records come before those of PEER_TIMEOUT (R507). -/
def Late.early (l : Late) : Bool := l.code == cOverrun || l.code == cImbalance

/-- TICK_GUARD (R40): snapshot and holds, overruns, shadowed writes; then the ledger check of every running or stopping
partition (R54); then the mask switches; then the records. Those that R507 puts after PEER_TIMEOUT are posted as the edge
comes, after the rows of PEER_TIMEOUT. -/
def State.runGuard (s : State) : State :=
  let t := s.tickNow + 1
  let s := { s with tick := { s.tick with guardOpen := true }, snap := { tick := t, regs := s.regs, energy := s.power.energyMj, ledgers := s.ledgers } }
  let s := s.takeHolds
  let s := (List.range 16).foldl (fun s p => s.guardOpens t p) s
  let s := s.applyShadows t
  let s := (List.range 16).foldl (fun s p => if (s.part p).active then s.checkLedgers t p else s) s
  let s := s.switchAll
  ((List.range 16).foldl (fun s p => s.postLate Late.early p) s).checkPackage

def execTickGuard (s : State) : Out := .next (if s.ticking && !s.tick.guardOpen then s.runGuard else s)

/-! ### The edge: records -/

/-- EPOCH_STALE items of the tick (R500, R533). -/
def State.postStale (s : State) : State :=
  let s := (List.range 16).foldl (fun s i =>
    let n := (s.port i).staleCount
    if n = 0 then s else (s.raiseReport (Report.of cStale 0 (n % 2 ^ 32) clsPort i)).modPort i fun x => { x with staleCount := 0 }) s
  (List.range 16).foldl (fun s p =>
    let n := (s.part p).staleTick
    if n = 0 then s
    else (s.raiseReport { Report.of cStale 0 (n % 2 ^ 32) clsPart p with partition := some p }).modPart p fun x => { x with staleTick := 0 }) s

/-! ### The edge: frames -/

/-- A frond at a frame's first tick edge (R315, R319, R379, R380). -/
def State.frondBegins (s : State) (p : Nat) (pl : Plan) (f : Nat) : State :=
  let x := s.part p
  let g := s.programAt p pl x.set x.frameIx f
  let noFetch := !s.hasRoute p pl g .fetch
  let noExecute := !s.hasRoute p pl g .execute
  let s := s.resetPlain p f
  s.modFrond f fun y =>
    { y with stopped := false, fetch := { Sequencer.idle with ended := noFetch }, execute := { Sequencer.idle with ended := noExecute }
             queue := [], jobs := [], loop := none, passes := [], claimNo := 0
             regulator := { y.regulator with tokens := y.regulator.burst * 256 } }

/-- Reseed the generators of a partition (R89, R90): lanes, copy engines, and its own in the update units. -/
def State.reseed (s : State) (p : Nat) (pl : Plan) : State :=
  let x := s.part p
  let fs := frondsOf x.fronds
  let put := fun (g : List (Nat × Dword)) (k lane : Nat) =>
    sput (fun _ => genReset) g k (seedOf pl.seed (BitVec.ofNat 64 x.stepN) (min 255 x.frameIx) lane)
  let lanes := fs.flatMap fun f => rangeFrom (f * 128) 128 ++ rangeFrom (16640 + 256 * f) 256
  let tufts := fs.foldl (fun (l : List Nat) f => insertNat (tuftOf f) l) []
  let own := tufts.flatMap fun u => (List.range 16).map fun j => (updGen u p j, 16384 + 16 * u + j)
  { s with gens := own.foldl (fun g e => put g e.1 e.2) (lanes.foldl (fun g l => put g l l) s.gens) }

/-- A snapshot step begins (R552, R555): the step after step k, a multiple of the interval. -/
def State.snapshotStep (s : State) (p k : Nat) : State :=
  match s.protTable p with
  | none => s
  | some t =>
    if t.interval = 0 ∨ k = 0 ∨ k % t.interval ≠ 0 ∨ (s.reg clsPart p 0x1160).toNat = k then s
    else match (s.part p).protect.drain with
      | some d => if d.2 = k then s else s.count32 clsPart p 0x116C 1
      | none => s.beginDrain p (k / t.interval) k

/-- A frame begins (R37, R379, R410 map): plain semaphores, ticket records and regulator buckets are reset, generators
reseeded, and the frame is counted. -/
def State.beginFrame (s : State) (p : Nat) : State :=
  match (s.part p).plan with
  | none => s
  | some pl =>
    let s := if (s.part p).frameIx = 0 then (s.snapshotStep p (s.stepsDone p)).traceEvent p 2 else s
    let s := (frondsOf pl.fronds).foldl (fun s f => s.frondBegins p pl f) s
    let s := pl.tickets.foldl (fun s a => s.resetTicket p a.1) s
    ((s.reseed p pl).count64 clsPart p 0x1120 1).traceEvent p 0

/-- A step closes (R37, R549): PART_STEPS counts it, and the changed pages of its working copy are due to be sent. -/
def State.stepCloses (s : State) (p : Nat) : State :=
  let s := s.count64 clsPart p 0x1128 1
  let k := s.stepsDone p
  s.modPart p fun x => { x with protect :=
    if x.protect.mirrorOn then
      { x.protect with sendStep := some k, toSend := if k % 2 = 0 then x.protect.map0 else x.protect.map1, preMirror := [] }
    else x.protect }

/-- A start takes effect at its tick edge (R397, R398, R404, R498). -/
def State.startsNow (s : State) (t p : Nat) (resume : Bool) (m : Nat) : State :=
  let x := s.part p
  let fresh := !resume || x.stopKind == 2
  let s := if fresh then s.freshStreams p else s
  let s := s.restartMaskLedgers p
  let s := if resume then s.setReg clsPart p 0x1128 (BitVec.ofNat 64 (x.resumeSteps.getD 0))
    else (s.setReg clsPart p 0x1128 0).setReg clsPart p 0x1120 0
  let s := s.modPart p fun y =>
    { y with state := .running, start := none, resumeSteps := none, frameTick := 0, frameIx := 0, quiesced := false, ready := false
             faultCode := 0, stopKind := 0, protect := { y.protect with copies := [], lost := false } }
  let s := (s.beginFrame p).announceAll p
  s.ok m (leBytes 8 t ++ leBytes 2 x.epoch.toNat)

/-- What a sound partition does at the edge after its guard found a stop due. -/
def State.haltsNow (s : State) (t p : Nat) (h : StopKind) : State :=
  let s := s.modPart p fun x => { x with stopTick := t }
  match h with
  | .planStop => s.stopDone p
  | _ => ((s.abandon p).bumpEpoch p true).modPart p fun x => { x with fenceDue := true }

/-- A running partition at a tick edge: its frame goes on, closes, or its stop takes effect (R37, R400, R402). -/
def State.advance (s : State) (t p : Nat) : State :=
  let x := s.part p
  let closing := x.closing
  let s := if closing then s.traceEvent p 1 else s
  let s := s.modPart p fun y => { y with frameTick := if closing then 0 else y.frameTick + 1, halvedMark := y.halvedMark && !closing }
  let s := if closing && x.lastFrame then s.stepCloses p else s
  let s := if closing then s.modPart p fun y => { y with frameIx := if x.lastFrame then 0 else y.frameIx + 1 } else s
  match x.halt with
  | some h => s.haltsNow t p h
  | none => if closing then s.beginFrame p else s

/-- One partition at the tick edge. -/
def State.partEdge (s : State) (t p : Nat) : State :=
  let x := s.part p
  if x.stopAtEdge then (s.faultNow p).epochEdge p
  else if x.epochDue then (if x.epochHeld then s else s.epochEdge p)
  else if x.active then (if x.fenceDue || x.faultCode != 0 then s else s.advance t p)
  else match x.start with
    | some (st, resume, m) => if st = t then s.startsNow t p resume m else s
    | none => s

/-- 40 µs are past for an epoch that was incremented at an earlier edge, when the tick is that long (R535). -/
def State.ageEpoch (s : State) (p : Nat) : State :=
  match (s.part p).epochRecent with
  | none => s
  | some n =>
    if 4000 ≤ s.tick.period.toNat ∧ 1 ≤ n then s.epochHoldExpires p
    else s.modPart p fun x => { x with epochRecent := some (n + 1) }

/-- The first tick of an epoch that began between two ticks: the ledgers restart (R60). -/
def State.restartDue (s : State) (p : Nat) : State :=
  if (s.part p).ledgersDue then (s.restartLedgers p).modPart p fun x => { x with ledgersDue := false } else s

/-- A port that is up with beacon_tx set sends a beacon at the edge: the low 32 bits of TICK_COUNT, and the delay to its insertion
at the next FEC codeword boundary, at most 3 ns and otherwise free (R508; log entry 146). -/
def State.sendBeacon (s : State) (i : Nat) : State :=
  if s.portUp i && (s.reg clsPort i offPlnCtrl).getLsbD 1 then
    let (n, s) := s.freeNat
    s.modPort i fun x => { x with beacon := some (n % 31, s.tick.count.setWidth 32) }
  else s

/-- The tick edge (R33, R40, R508): TICK_COUNT, beacons, power, frames, stops and starts. -/
def State.runEdge (s : State) : State :=
  let t := s.tickNow + 1
  let s := (List.range 16).foldl (fun s p => s.postLate (fun _ => true) p) s
  let s := { s with
    tick := { s.tick with count := s.tick.count + 1, guardOpen := false, pulses := s.tick.pulses + 1 }, livePosted := [] }
  let s := ((List.range 16).foldl State.sendBeacon s).postStale
  let s := (List.range 16).foldl State.restartDue s
  let s := (List.range 16).foldl State.ageEpoch s
  let s := (s.powerEdge.applyPower).beginHalving
  let s := (List.range 16).foldl (fun s p => s.partEdge t p) s
  let s := s.govern
  { s with power := { s.power with estSum := [], estNum := [] } }.answerCounters

/-- TICK_EDGE. A guard opens before every edge (R40), so an edge commanded with none open runs it first (log entry 47). -/
def execTickEdge (s : State) : Out :=
  .next (if s.ticking then (if s.tick.guardOpen then s else s.runGuard).runEdge else s)

/-! ### External ticks -/

/-- Limit an offset in ns. -/
def clampNs (lim : Int) (z : Int) : Int := max (-lim) (min lim z)

/-- An external edge measured against the local tick (R35, R36): the local tick moves towards it by at most 10 ns, sixteen
edges within 40 ns in a row lock, and holdover ends. While locked the local tick stays within 40 ns, so an edge outside ends
the lock (DEDUCED, log entry 83). -/
def Tick.edgeAt (x : Tick) (ns : Int) : Tick :=
  let run := if ns.natAbs ≤ 40 then min 16 (x.run + 1) else 0
  { x with holdover := false, skewValid := true, skewNs := clampNs 32767 ns, phaseNs := x.phaseNs + clampNs 10 ns, run := run
           locked := decide (ns.natAbs ≤ 40) && (x.locked || run == 16) }

def execTickInEdge (ns : Int) (s : State) : Out := .next (if s.tick.source = 1 then { s with tick := s.tick.edgeAt ns } else s)

/-- BEACON_RECEIVED (R509): `ns` is the arrival less the carried delay and the link delay, against the local tick. -/
def State.takeBeacon (s : State) (i : Nat) (ns : Int) (count : BitVec 32) : State :=
  if s.tick.source = 2 ∧ s.tick.beaconPort.toNat = i ∧ s.portUp i then
    { s with tick := s.tick.edgeAt ns }.setReg clsPort i 0x1138 (BitVec.ofNat 64 (count - s.tick.count.setWidth 32).toNat)
  else s

def execBeaconReceived (i : Nat) (ns : Int) (count : BitVec 32) (s : State) : Out :=
  onUnit (decide (i < 16)) (s.takeBeacon i ns count)

/-- TICK_HOLDOVER (R36): no external edge 1 µs after the local tick. The event item's code is not given (log entry 6). -/
def State.holdover (s : State) : State :=
  if s.tick.source = 0 ∨ s.tick.holdover then s
  else
    let (v, s) := s.freeBits 128
    { s with tick := { s.tick with holdover := true, locked := false, run := 0 } }.post none 2 0 0 [v]

def execTickHoldover (s : State) : Out := .next s.holdover

end Sys2Proof.Machine
end

