-- ==== Sys2Proof/Machine/Linso.lean ====
section
/-! DEFINITION. Linso commands on the package and on partitions: IDENTIFY, HEALTH, PARTITION_CREATE, _RESIZE and _DESTROY,
PLAN_START, PLAN_STOP, PREEMPT, TICK_CONFIG, ROUTE_SET, STEP_SET and LOSS_SCALE_SET (R290, R393 to R409, R475, R495). -/

namespace Sys2Proof.Machine

/-! ### IDENTIFY and HEALTH -/

/-- IDENTIFY (Linso command table). -/
def State.identify (s : State) (m : Nat) : State :=
  s.ok m (leBytes 4 (s.regValue 0 0 0x0) ++ leBytes 4 (s.regValue 0 0 0x4) ++ leBytes 8 (s.regValue 0 0 0x8)
    ++ leBytes 8 (s.regValue 0 0 0x10) ++ leBytes 4 s.indus.fwVersion.toNat ++ leBytes 4 s.indus.edition.toNat
    ++ leBytes 2 s.ownId ++ [BitVec.ofNat 8 s.pkg.feedId.toNat, if s.pkg.pairSense then 1 else 0])

def execIdentify (m : Nat) (s : State) : Out := linsoRow m 0x01 anyForm (fun _ s => s.identify m) s

/-- HEALTH (Linso command table); the hottest junction in °C is its reading in 1/8 °C rounded down. -/
def State.health (s : State) (m : Nat) : State :=
  let hot := match hottest s.power.temps with | some h => h.2 / 8 | none => 0
  let retired := (List.range 128).foldl (fun a f => if (s.frond f).retired then a + 2 ^ f else a) 0
  s.ok m (leBytes 4 (s.regValue 0 0 0x100) ++ leBytes 4 (s.regValue 0 0 0x104)
    ++ ((List.range 16).map fun c => BitVec.ofNat 8 (s.memStateOf c)) ++ leBytes 2 s.pkg.ddrRate ++ leBytes 2 (unsignedOf 16 hot)
    ++ leBytes 2 s.power.meanW ++ leBytes 2 s.power.limit ++ leBytes 16 retired
    ++ (List.range 16).map fun i => BitVec.ofNat 8 (s.port i).state)

def execHealth (m : Nat) (s : State) : Out := linsoRow m 0x02 anyForm (fun _ s => s.health m) s

/-! ### Grants -/

/-- Fields that PARTITION_CREATE and PARTITION_RESIZE share. -/
structure GrantArgs where
  fronds : BitVec 128
  slots : BitVec 256
  bridge : Nat
  grants : List Grant
  deriving DecidableEq, Repr

/-- The arguments, read. -/
def Taken.grantArgs (t : Taken) : GrantArgs :=
  { fronds := BitVec.ofNat 128 (t.arg 16 16), slots := BitVec.ofNat 256 (t.arg 32 32), bridge := t.arg 64 2
    grants := (List.range (t.arg 72 2)).map fun i =>
      { kind := t.arg (80 + 16 * i) 1, blocks := t.arg (84 + 16 * i) 4, base := t.arg (88 + 16 * i) 8 } }

/-- Block size of a grant's base: 1 MiB for the Sphagnum, 256 MiB otherwise. -/
def blockSize (kind : Nat) : Nat := if kind = 1 then 0x10_0000 else 0x1000_0000

/-- Lowest address and end of a kind's region. -/
def kindRegion (kind : Nat) : Nat × Nat :=
  match kind with
  | 1 => (0, 0x4000_0000)
  | 2 => (0x0100_0000_0000, 0x01C0_0000_0000)
  | 3 => (0x0200_0000_0000, 0x0400_0000_0000)
  | _ => (0x0800_0000_0000, 0x08C0_0000_0000)

/-- Offset and least acceptable value of the first bad field of a grant entry (R406, R477): kind, reserved bytes, count, base. -/
def Taken.badGrant (t : Taken) (i : Nat) : Option (Nat × Nat) :=
  let e := 80 + 16 * i
  let k := t.arg e 1
  let (lo, hi) := kindRegion k
  let b := t.arg (e + 8) 8
  if k = 0 ∨ 4 < k then some (e, 1)
  else if t.arg (e + 1) 3 ≠ 0 then some ((((rangeFrom 1 3).find? fun o => t.arg (e + o) 1 != 0).map (e + ·)).getD (e + 1), 0)
  else if t.arg (e + 4) 4 = 0 then some (e + 4, 1)
  else if b % blockSize k ≠ 0 ∨ b < lo ∨ hi ≤ b then some (e + 8, lo)
  else none

/-- Canonical address intervals (base, length) of a grant. -/
def Grant.pieces (g : Grant) : List (Nat × Nat) :=
  if g.kind = 4 then
    (List.range 8).map fun st => (0x0100_0000_0000 + st * 0x0018_0000_0000 + (g.base - 0x0800_0000_0000) / 8, g.blocks * 0x200_0000)
  else [(g.base, grantBytes g)]

/-- Whether two intervals meet. -/
def spansMeet (a b : Nat × Nat) : Bool := decide (a.1 < b.1 + b.2 ∧ b.1 < a.1 + a.2)

/-- Whether any interval of one list meets one of another. -/
def anyMeets (a b : List (Nat × Nat)) : Bool := a.any fun x => b.any (spansMeet x)

/-- Whether a grant lies within the populated capacity of its stack or channel (R406), and outside the landing area
(R293). -/
def State.grantFits (s : State) (g : Grant) : Bool :=
  match g.kind with
  | 1 => decide (g.base + grantBytes g ≤ 0x4000_0000)
      && !anyMeets g.pieces [(0x1FE0_0000, 0x20_0000), (0x3FE0_0000, 0x20_0000)]
  | 2 => g.pieces.all fun x => let o := (x.1 - 0x0100_0000_0000) % 0x0018_0000_0000
      decide (o + x.2 ≤ s.memCap ((x.1 - 0x0100_0000_0000) / 0x0018_0000_0000) * 2 ^ 30)
  | 4 => g.pieces.zipIdx.all fun x => let o := (x.1.1 - 0x0100_0000_0000) % 0x0018_0000_0000
      decide (o + x.1.2 ≤ s.memCap x.2 * 2 ^ 30)
  | _ => let o := (g.base - 0x0200_0000_0000) % 0x0040_0000_0000
      decide (o + grantBytes g ≤ s.memCap (8 + (g.base - 0x0200_0000_0000) / 0x0040_0000_0000) * 2 ^ 30)

/-- Stacks and channels of a grant, by controller number. -/
def Grant.controllers (g : Grant) : List Nat :=
  match g.kind with
  | 2 => [(g.base - 0x0100_0000_0000) / 0x0018_0000_0000]
  | 3 => [8 + (g.base - 0x0200_0000_0000) / 0x0040_0000_0000]
  | 4 => List.range 8
  | _ => []

/-- Whether some controller of the grants has failed, or is not yet ready (R424, R440). -/
def State.grantFailed (s : State) (gs : List Grant) : Bool := (gs.flatMap Grant.controllers).any fun c => s.memStateOf c == 4
def State.grantWaits (s : State) (gs : List Grant) : Bool :=
  !s.grantFailed gs && (gs.flatMap Grant.controllers).any fun c => s.memStateOf c != 3

/-- Memory that no partition may be granted: what partitions hold, the spill region and held regions (R406, R481, R548). -/
def State.takenMemory (s : State) : List (Nat × Nat) :=
  ((List.range 16).flatMap fun p => (s.part p).grants.flatMap Grant.pieces)
    ++ (match s.spillBase with | some b => [(b, 0x400_0000)] | none => [])
    ++ s.held.map fun h => (h.base, h.length)

/-- Whether the grants of a request overlap one another. -/
def selfMeets : List Grant → Bool
  | [] => false
  | g :: r => r.any (fun h => anyMeets g.pieces h.pieces) || selfMeets r

/-- Fronds that may be granted: in state 0 and not retired (R406). -/
def State.frondGrantable (s : State) (f : Nat) : Bool :=
  (s.ownerOf f).isNone && !(s.frond f).retired && !(s.frond f).inReset

/-- Slot numbers and bridge lines that partitions hold. -/
def State.slotsHeld (s : State) : BitVec 256 := (List.range 16).foldl (fun a p => a ||| (s.part p).slotShare) 0
def State.bridgeHeld (s : State) : Nat := ((List.range 16).map fun p => (s.part p).bridgeLines).sum

/-- Whether every resource asked for is free (R406). -/
def State.allFree (s : State) (a : GrantArgs) : Bool :=
  (frondsOf a.fronds).all s.frondGrantable && (a.slots &&& s.slotsHeld) == 0 && decide (s.bridgeHeld + a.bridge ≤ 12800)
    && a.grants.all s.grantFits && !selfMeets a.grants && !anyMeets (a.grants.flatMap Grant.pieces) s.takenMemory

/-- MiB blocks of an interval. -/
def mibs (x : Nat × Nat) : List Nat := rangeFrom (x.1 / 0x10_0000) (x.2 / 0x10_0000)

/-- Zero the blocks of new grants that another owner held last, or none (R407), and note the owner. -/
def State.grantMemory (s : State) (tag : Dword) (gs : List Grant) : State :=
  let ms := (gs.flatMap Grant.pieces).flatMap mibs
  let fresh := ms.filter fun b => sget (fun _ => (none : Option Dword)) s.blockTag b != some tag
  { s with
    mem := sclear (fun a => fresh.contains (a / 0x10_0000)) s.mem
    poison := sclear (fun u => fresh.contains (u * 64 / 0x10_0000)) s.poison
    flips := sclear (fun w => fresh.contains (w * 4 / 0x10_0000)) s.flips
    devErr := sclear (fun u => fresh.contains (u * 64 / 0x10_0000)) s.devErr
    blockTag := ms.foldl (fun m b => sput (fun _ => (none : Option Dword)) m b (some tag)) s.blockTag }

/-- Judge the entries of a request: offset of the first bad field. -/
def Taken.badGrants (t : Taken) : Option (Nat × Nat) := (List.range (t.arg 72 2)).findSome? t.badGrant

/-! ### PARTITION_CREATE -/

/-- The partition that PARTITION_CREATE makes: the one named, or the lowest-numbered free one (R406). -/
def State.createTarget (s : State) (n : Nat) : Option Nat :=
  if n = 0xFF then (List.range 16).find? fun p => (s.part p).state == .free
  else if (s.part n).state = .free then some n else none

/-- PARTITION_CREATE (R406, R407); it is held while the number's epoch has been incremented within 40 µs (R535). -/
def State.create (s : State) (m : Nat) (t : Taken) : State :=
  match t.badGrants with
  | some o => s.badArg m o.1 o.2
  | none =>
    let n := t.arg 0 1
    match s.createTarget n with
    | none => s.notAllowed m (if n = 0xFF then 0xFF else (s.part n).state.code)
    | some p =>
      let a := t.grantArgs
      if (s.part p).epochRecent.isSome then s
      else if s.grantWaits a.grants then s.respond m stBusy []
      else if s.grantFailed a.grants || !s.allFree a then s.notAllowed m (if n = 0xFF then 0xFF else 0)
      else
        let tag := BitVec.ofNat 64 (t.arg 8 8)
        let s := s.grantMemory tag a.grants
        let s := s.modPart p fun x =>
          { x with state := .created, ownerTag := tag, fronds := a.fronds, grants := a.grants, slotShare := a.slots
                   bridgeLines := a.bridge, epoch := nextEpoch x.epoch, epochRecent := some 0, ledgersDue := true, faultLog := [] }
        s.ok m (leBytes 8 p ++ leBytes 2 (s.part p).epoch.toNat)

def execPartitionCreate (m : Nat) (s : State) : Out := linsoRow m 0x10 anyForm (fun t s => s.create m t) s

/-! ### PARTITION_RESIZE -/

/-- Ranges of device addresses that a loaded plan names (R408). -/
def Plan.ranges (pl : Plan) : List (Nat × Nat) :=
  (pl.bufferMap.filter fun r => r.kind != 4).map (fun r => (r.base, r.length))
    ++ pl.streams.filterMap (fun e => if strRingInFrond e.1 then none else some (strBase e.1, 64 * strUnits e.1 * strDepth e.1))
    ++ pl.policies.flatMap (fun p => [(polRegion0 p, polTiles p * slotBytes p), (polRegion1 p, polTiles p * slotBytes p),
        (polEdit p, polEditBytes p)] ++ if polInitUse p then [(polInit p, 262144 * polTiles p)] else [])
    ++ pl.shards.map (fun a => (a, 64)) ++ pl.initial ++ pl.tickets.map (fun a => (a.1, 64))
    ++ [(pl.progBase, pl.progBytes), (pl.resumeAddr, 128 + 8 * pl.policies.length), (pl.lossScaleAddr, 32)]
    ++ (if pl.shapes.isEmpty then [] else [(pl.shapeAddr, 128)])

/-- Whether a range of device addresses, in any view, touches a canonical interval: by its 2 KiB chunks in the interleaved
view, whole otherwise. -/
def rangeTouches (r x : Nat × Nat) : Bool :=
  if 0x0800_0000_0000 ≤ r.1 then
    (List.range (cdiv (r.1 % 2048 + r.2) 2048)).any fun k =>
      let o := (r.1 - 0x0800_0000_0000) / 2048 + k
      spansMeet (0x0100_0000_0000 + o % 8 * 0x0018_0000_0000 + o / 8 * 2048, 2048) x
  else spansMeet r x

/-- Whether a grant entry lies wholly inside the partition's grants of its kind. -/
def Partition.hasGrant (x : Partition) (g : Grant) : Bool :=
  (List.range g.blocks).all fun i => x.grants.any fun h =>
    h.kind == g.kind && decide (h.base ≤ g.base + i * blockSize g.kind ∧ g.base + i * blockSize g.kind < h.base + grantBytes h)

/-- Remove one grant's blocks from a list of grants. -/
def cutGrant (g : Grant) (l : List Grant) : List Grant :=
  l.flatMap fun h =>
    if h.kind = g.kind ∧ spansMeet (h.base, grantBytes h) (g.base, grantBytes g) then
      let b := blockSize h.kind
      let before := (g.base - h.base) / b
      let after := (h.base + grantBytes h - (g.base + grantBytes g)) / b
      (if before = 0 then [] else [{ h with blocks := before }])
        ++ (if after = 0 then [] else [{ h with base := g.base + grantBytes g, blocks := after }])
    else [h]

/-- Whether a stream's data crosses the bridge out of half h: from its producer to its ring, or from the ring to its
consumer; a ticketed array, whose ends are not used, in either direction (R305, R307). -/
def crossesFrom (h : Nat) (e : BitVec 256) : Bool :=
  let ring := if strRingInFrond e then strRingFrond e / 64 else bitsOf (strBase e) 29 1
  strKind e == 1 || (strProducerFrond e / 64 == h && ring != h) || (ring == h && strConsumerFrond e / 64 != h)

/-- Bridge lines that streams reserve, in the larger direction (R305, R394). -/
def bridgeNeed (es : List (BitVec 256)) : Nat :=
  let dir := fun (h : Nat) => ((es.filter (crossesFrom h)).map strBridge).sum
  max (dir 0) (dir 1)

/-- The same for a loaded plan. -/
def Plan.bridgeUse (pl : Plan) : Nat := bridgeNeed (pl.streams.map (·.1))

/-- Whether a partition's wheel entries for a slot are unassigned (R408). -/
def State.slotUnassigned (s : State) (p slot : Nat) : Bool :=
  match (s.part p).plan with
  | none => true
  | some pl => (List.range 64).all fun k => leNat ((pl.wheels.drop (2 * (k * 256 + slot))).take 2) == 0

/-- Fronds that leave a partition are at reset and idle. -/
def State.resizeAdd (s : State) (p m : Nat) (t : Taken) : State :=
  match t.badGrants with
  | some o => s.badArg m o.1 o.2
  | none =>
    let a := t.grantArgs
    if s.grantWaits a.grants then s.respond m stBusy []
    else if s.grantFailed a.grants || !s.allFree a then s.notAllowed m (s.part p).state.code
    else
      let s := s.grantMemory (s.part p).ownerTag a.grants
      (s.modPart p fun x =>
        { x with fronds := x.fronds ||| a.fronds, slotShare := x.slotShare ||| a.slots, bridgeLines := x.bridgeLines + a.bridge
                 grants := x.grants ++ a.grants }).ok m []

/-- op of PARTITION_RESIZE: 0 adds; a reserved op is judged with the adds and answers BAD_ARG. -/
def resizeAdds (t : Taken) : Bool := t.arg 8 1 != 1

def execPartitionResizeAdd (m : Nat) (s : State) : Out :=
  linsoPart m 0x12 resizeAdds (fun p t s => if t.arg 8 1 ≠ 0 then s.badArg m 8 0 else s.resizeAdd p m t) s

/-! ### PARTITION_DESTROY -/

/-- PARTITION_DESTROY (R409): a running partition is first stopped as PREEMPT stops it. -/
def State.destroy (s : State) (p m : Nat) : State :=
  let x := s.part p
  if x.active then
    if x.epochRecent.isSome && !x.fenceDue then s
    else
      let rep := match x.stop with
        | some (.planStop, k) => some k
        | _ => x.replacedStop
      (s.modPart p fun y => { y with stop := some (.destroy, m), replacedStop := rep }).accept m
  else s.destroyOrHold p m

def execPartitionDestroy (m : Nat) (s : State) : Out := linsoPart m 0x11 anyForm (fun p _ s => s.destroy p m) s

/-! ### PLAN_START -/

/-- Whether PLAN_START asks to resume. -/
def wantsResume (t : Taken) : Bool := t.arg 16 1 % 2 == 1

/-- What forbids any start (R396, R397, R545, R558, R592). -/
def State.mayStart (s : State) (p : Nat) : Bool :=
  let x := s.part p
  match x.plan with
  | none => false
  | some pl =>
    x.planVerified && !(frondsOf pl.fronds).any (fun f => (s.frond f).retired) && !s.lacksCopy p
      && pl.tickPeriod == s.tick.period.toNat && !s.power.halving
      && decide (s.peaks + x.peakMw + 530000 ≤ 1000 * s.power.limit) && !s.overRamp s.power.ramp x.demand

/-- The start tick that a PLAN_START names (R397). -/
def State.startTick (s : State) (t : Taken) : Nat := if t.arg 8 8 = 0 then s.tickNow + 2 else t.arg 8 8

/-- The earliest start tick (R397, R596). -/
def State.earliest (s : State) (p : Nat) : Nat := max (s.tickNow + 2) (s.leastStart p)

/-- A field of a PLAN_START that is out of range: the start tick, then the flags (R397, R477). -/
def State.badStart (s : State) (p : Nat) (t : Taken) (flags : Nat) : Option (Nat × Nat) :=
  if s.startTick t < s.earliest p then some (8, s.earliest p) else if t.arg 16 1 ≠ flags then some (16, 0) else none

/-- The start is accepted. -/
def State.beginStart (s : State) (p m : Nat) (t : Taken) (resume : Bool) (steps : Option Nat) : State :=
  (s.modPart p fun x => { x with start := some (s.startTick t, resume, m), resumeSteps := steps }).accept m

/-- PLAN_START of a fresh run (R397, R398). -/
def State.planStart (s : State) (p m : Nat) (t : Taken) : State :=
  match s.badStart p t 0 with
  | some b => s.badArg m b.1 b.2
  | none => if !s.mayStart p then s.notAllowed m (s.part p).state.code else s.beginStart p m t false none

def execPlanStart (m : Nat) (s : State) : Out :=
  linsoPart m 0x22 (fun t => !wantsResume t) (fun p t s => s.planStart p m t) s

/-- PLAN_START with resume (R404, R405, R647). -/
def State.planResume (s : State) (p m : Nat) (t : Taken) : State :=
  let x := s.part p
  match s.badStart p t 1, x.plan with
  | some b, _ => s.badArg m b.1 b.2
  | none, none => s.notAllowed m x.state.code
  | none, some pl =>
    if x.state != .stopped && x.state != .preempted then s.notAllowed m x.state.code
    else
      let r := s.fwRead pl.resumeAddr 128
      match r.bad with
      | some b => r.state.cmdFaulted (some p) m b
      | none =>
        let s := r.state
        if !x.resumeValid then s.cmdFaulted (some p) m (((s.resolve none pl.resumeAddr).getD 0) / 64, 2)
        else if leNat (r.bytes.take 48) ≠ pl.programHash.toNat ∨ (x.stopKind = 2 ∧ !pl.resumable) ∨ !s.mayStart p then
          s.notAllowed m x.state.code
        else s.beginStart p m t true (some (leNat ((r.bytes.drop 56).take 8)))

def execPlanStartResume (m : Nat) (s : State) : Out := linsoPart m 0x22 wantsResume (fun p t s => s.planResume p m t) s

/-! ### PLAN_STOP and PREEMPT -/

/-- PLAN_STOP (R400); posted to a faulted partition it releases it (R536). -/
def State.planStop (s : State) (p m : Nat) : State :=
  let x := s.part p
  if x.state = .faulted then
    let s := if x.epochDue then s.modPart p fun y => { y with releaseDue := true } else s.release p
    s.ok m (s.stopResult p)
  else (s.modPart p fun y => { y with state := .stopping, stop := some (.planStop, m) }).accept m

def execPlanStop (m : Nat) (s : State) : Out := linsoPart m 0x23 anyForm (fun p _ s => s.planStop p m) s

/-- PREEMPT (R402): at the first guard that opens from now on; a pending PLAN_STOP is replaced. It is held while the epoch
has been incremented within 40 µs (R535), and behind a PREEMPT that has not yet taken effect. -/
def State.preempt (s : State) (p m : Nat) : State :=
  let x := s.part p
  if !x.active then s.ok m (s.preemptResult p)
  else if x.epochRecent.isSome then s
  else match x.stop with
    | some (.preempt, _) => s
    | some (.destroy, _) => s
    | some (.planStop, k) => (s.modPart p fun y => { y with stop := some (.preempt, m), replacedStop := some k }).accept m
    | none => (s.modPart p fun y => { y with stop := some (.preempt, m) }).accept m

def execPreempt (m : Nat) (s : State) : Out := linsoPart m 0x24 anyForm (fun p _ s => s.preempt p m) s

/-! ### TICK_CONFIG -/

/-- TICK_CONFIG (R30, R31): a new source is measured afresh. -/
def State.tickConfig (s : State) (m : Nat) (t : Taken) : State :=
  let period := t.arg 8 4
  let src := t.arg 12 1
  let port := t.arg 13 1
  if period < 2000 ∨ 2000000 < period then s.badArg m 8 2000
  else if 2 < src then s.badArg m 12 0
  else if 15 < port then s.badArg m 13 0
  else if (List.range 16).any fun p => (s.part p).active then s.notAllowed m 0xFF
  else
    { s with tick := { s.tick with
        period := BitVec.ofNat 21 period, source := BitVec.ofNat 2 src, beaconPort := BitVec.ofNat 4 port, locked := false
        holdover := false, skewValid := false, skewNs := 0, run := 0 } }.ok m []

def execTickConfig (m : Nat) (s : State) : Out := linsoRow m 0x50 anyForm (fun t s => s.tickConfig m t) s

/-! ### ROUTE_SET -/

/-- A route entry (route-entry field map). -/
def routeOf (e : Nat) : Route :=
  { chip := bitsOf e 0 16, port := bitsOf e 16 4, altPort := bitsOf e 20 4, altValid := bitAt e 24, self := bitAt e 25 }

/-- Whether a table may be loaded: exactly one self entry, no ID twice, none reserved, no reserved bit (R495). -/
def routesOk (es : List Nat) : Bool :=
  let rs := es.map routeOf
  (rs.filter (·.self)).length == 1 && es.all (fun e => decide (e < 2 ^ 26)) && rs.all (fun r => r.chip != 0xFFFF)
    && rs.all fun r => (rs.filter fun q => q.chip == r.chip).length == 1

/-- ROUTE_SET (R495). A table that breaks a rule answers BAD_ARG at the table's address field. -/
def State.routeSet (s : State) (m : Nat) (t : Taken) : State :=
  let at_ := t.arg 8 8
  let a := t.arg 16 8
  let n := t.arg 24 2
  if at_ < s.tickNow + 2 then s.badArg m 8 (s.tickNow + 2)
  else if (rangeFrom a (8 * min n 4096)).any fun x => (s.resolve none x).isNone then s.badArg m 16 0
  else if 4096 < n then s.badArg m 24 0
  else
    let r := s.fwRead a (8 * n)
    match r.bad with
    | some b => r.state.cmdFaulted none m b
    | none =>
      let es := (List.range n).map fun i => leNat ((r.bytes.drop (8 * i)).take 8)
      if routesOk es then { r.state with pendingRoutes := some (m, at_, es.map routeOf) }.accept m else r.state.badArg m 16 0

def execRouteSet (m : Nat) (s : State) : Out := linsoRow m 0x81 anyForm (fun t s => s.routeSet m t) s

/-! ### STEP_SET and LOSS_SCALE_SET -/

/-- β^step correctly rounded to binary32, from β's code (R290). -/
def powStep (beta step : Nat) : Nat :=
  match fromB32 beta with
  | .fin n m e => toB32 (Fmt.b32.rn (.fin (n && step % 2 == 1) (m ^ step) (e * step)))
  | v => toB32 v

/-- One shard record after STEP_SET: step, pow1 and pow2 set, torn clear. -/
def stepRecord (r step : Nat) : Nat :=
  let r := setBits r 0 64 step
  let r := setBits r 224 32 (powStep (bitsOf r 96 32) step)
  let r := setBits r 256 32 (powStep (bitsOf r 128 32) step)
  setBits r 389 1 0

/-- Write the records one after another; the first that cannot be read or written ends the command (R647). -/
def State.setSteps (s : State) (step : Nat) : List Nat → State × Option (Nat × Nat)
  | [] => (s, none)
  | a :: as =>
    let r := s.fwRead a 64
    match r.bad with
    | some b => (r.state, some b)
    | none =>
      let w := r.state.fwWrite a (leBytes 64 (stepRecord (leNat r.bytes) step))
      match w.refused with
      | some b => (w.state, some b)
      | none => State.setSteps w.state step as

/-- STEP_SET (R290). -/
def State.stepSet (s : State) (p m : Nat) (t : Taken) : State :=
  match (s.part p).plan with
  | none => s.notAllowed m (s.part p).state.code
  | some pl => match s.setSteps (t.arg 8 8) pl.shards with
    | (s, none) => s.ok m []
    | (s, some b) => s.cmdFaulted (some p) m b

def execStepSet (m : Nat) (s : State) : Out := linsoPart m 0x82 anyForm (fun p t s => s.stepSet p m t) s

/-- LOSS_SCALE_SET (R290): scale, and clean_run 0. -/
def State.lossScaleSet (s : State) (p m : Nat) (t : Taken) : State :=
  match (s.part p).plan with
  | none => s.notAllowed m (s.part p).state.code
  | some pl =>
    let w := s.fwWrite pl.lossScaleAddr (leBytes 4 (t.arg 8 4) ++ leBytes 4 0)
    match w.refused with
    | none => w.state.ok m []
    | some b => w.state.cmdFaulted (some p) m b

def execLossScaleSet (m : Nat) (s : State) : Out := linsoPart m 0x83 anyForm (fun p t s => s.lossScaleSet p m t) s

end Sys2Proof.Machine
end

