-- ==== Sys2Proof/Machine/Load.lean ====
section
/-! DEFINITION. PLAN_LOAD: the plan image, its checks, what it writes and what it binds (R222, R301, R307, R370 to R377,
R394, R497, R561, R647). -/

namespace Sys2Proof.Machine

/-! ### The image (R370, R371) -/

/-- A little-endian number in a byte list. -/
def imgNat (b : List Byte) (o n : Nat) : Nat := leNat ((b.drop o).take n)

/-- A directory entry (directory-entry table). -/
structure Sect where
  type : Nat
  offset : Nat
  length : Nat
  hash : BitVec 384
  deriving DecidableEq, Repr, Inhabited

/-- Entry i of the section directory. -/
def sectAt (h : List Byte) (i : Nat) : Sect :=
  let e := 128 + 80 * i
  { type := imgNat h e 2, offset := imgNat h (e + 8) 8, length := imgNat h (e + 16) 8
    hash := BitVec.ofNat 384 (imgNat h (e + 32) 48) }

def directory (h : List Byte) : List Sect := (List.range (imgNat h 6 2)).map (sectAt h)

/-- End of the directory, where sections may begin. -/
def dirEnd (h : List Byte) : Nat := 128 + 80 * imgNat h 6 2

/-- Section types that every image holds (section table). -/
def requiredTypes : List Nat := [0x01, 0x02, 0x03, 0x04, 0x05, 0x06, 0x0C]

/-- Failing header fields by offset: magic, version, section_count, image_bytes and reserved bytes. -/
def headFails (h : List Byte) (given : Nat) : List Nat :=
  let when := fun (b : Bool) (o : Nat) => if b then [o] else []
  when (imgNat h 0 4 != 0x96080F1E) 0 ++ when (imgNat h 4 2 != 1) 4
    ++ when (!(decide (7 ≤ imgNat h 6 2) && decide (imgNat h 6 2 ≤ 13))) 6
    ++ when (decide (given < imgNat h 8 8) || decide (imgNat h 8 8 < dirEnd h)) 8
    ++ when (imgNat h 46 2 != 0) 46 ++ when (imgNat h 52 4 != 0) 52 ++ when (imgNat h 88 40 != 0) 88

/-- Failing fields of directory entry i: an unknown or repeated type, reserved bytes, a start that is misaligned, within
the directory, beyond the image or inside another section, and a length that runs beyond the image (R371). -/
def entryFails (h : List Byte) (i : Nat) : List Nat :=
  let when := fun (b : Bool) (o : Nat) => if b then [o] else []
  let e := 128 + 80 * i
  let x := sectAt h i
  let before := (List.range i).map (sectAt h)
  when (x.type == 0 || decide (0x0D < x.type) || before.any fun y => y.type == x.type) e
    ++ when (imgNat h (e + 2) 6 != 0) (e + 2)
    ++ when (x.offset % 64 != 0 || decide (x.offset < dirEnd h) || decide (imgNat h 8 8 < x.offset)
        || before.any fun y => decide (x.length ≠ 0 ∧ y.length ≠ 0 ∧ x.offset < y.offset + y.length ∧ y.offset < x.offset + x.length)) (e + 8)
    ++ when (decide (x.offset ≤ imgNat h 8 8 ∧ imgNat h 8 8 < x.offset + x.length)) (e + 16)
    ++ when (imgNat h (e + 24) 8 != 0) (e + 24)

/-- First failing field of step 1; a required section that no entry holds fails at section_count. -/
def imageFail (h : List Byte) (given : Nat) : Option Nat :=
  match headFails h given with
  | o :: _ => some o
  | [] =>
    if requiredTypes.any fun t => !(directory h).any fun x => x.type == t then some 6
    else ((List.range (imgNat h 6 2)).flatMap (entryFails h)).head?

/-- A section of the image, empty when it holds none of that type. -/
def sectOf (img : List (Nat × List Byte)) (t : Nat) : List Byte := ((img.find? fun e => e.1 == t).map (·.2)).getD []

/-- Records of a fixed size; a remainder is not a record. -/
def recordsOf (n : Nat) (b : List Byte) : List (List Byte) := chunks n (b.length / n) b

/-- A record as a number. -/
def recordBits (w : Nat) (b : List Byte) : BitVec w := BitVec.ofNat w (leNat b)

/-- A buffer-map entry (R373). -/
def regionOf (b : List Byte) : Region :=
  { kind := imgNat b 0 1, frond := imgNat b 1 1, base := imgNat b 8 8, length := imgNat b 16 8 }

/-- Bytes of the program area that sections 0x01 and 0x02 need (R374). -/
def areaNeed (n1 n2 : Nat) : Nat := p64 n1 + n2

/-- First buffer-map entry that breaks R374, as an offset in section 0x06; offset 0 when there is no program area. -/
def areaFail (rs : List Region) (need : Nat) : Option Nat :=
  let areas := rs.zipIdx.filter fun r => r.1.kind == 5
  match areas with
  | [] => some 0
  | (r, i) :: more =>
    if 0x4000_0000 < r.base + r.length ∨ r.length < need then some (32 * i) else (more.head?).map fun e => 32 * e.2

/-- Initial-data records of section 0x0D (R371): offset, device address and bytes. A record that does not lie whole in the
section ends the list; PLAN_VERIFY rejects it. -/
def initialRecords : Nat → Nat → List Byte → List (Nat × Nat × List Byte)
  | 0, _, _ => []
  | k + 1, o, b =>
    let n := imgNat b 8 8
    if b.length < 16 + n ∨ b.length < 16 then []
    else (o, imgNat b 0 8, (b.drop 16).take n) :: initialRecords k (o + p64 (16 + n)) (b.drop (p64 (16 + n)))

def initialOf (b : List Byte) : List (Nat × Nat × List Byte) := initialRecords (b.length / 64 + 1) 0 b

/-- Update records of section 0x09: target and record, 32 bytes for the loss-scale record and 64 for a shard record. -/
def updateRecords (b : List Byte) : List (Nat × List Byte) :=
  (recordsOf 128 b).zipIdx.map fun e => (imgNat e.1 0 8, (e.1.drop 64).take (if e.2 = 0 then 32 else 64))

/-! ### The program index (R376) -/

/-- A program: where its index entry lies, its set, frame and frond, and the entry's fields. -/
structure IndexEntry where
  pos : Nat
  set : Nat
  frame : Nat
  frond : Nat
  offset : Nat
  count : Nat
  stream : Nat
  deriving DecidableEq, Repr, Inhabited

/-- Entries of the program index with a program, as far as section 0x01 holds them. -/
def indexOf (sets frames : Nat) (b : List Byte) : List IndexEntry :=
  (List.range (min (sets * frames * 128) (b.length / 8))).filterMap fun k =>
    let e := imgNat b (8 * k) 8
    if bitsOf e 32 20 = 0 then none
    else some { pos := 8 * k, set := k / 128 / frames, frame := k / 128 % frames, frond := k % 128, offset := bitsOf e 0 32
                count := bitsOf e 32 20, stream := bitsOf e 52 12 }

/-- Descriptors that some program holds, as 64-byte units of section 0x01. -/
def programUnits (es : List IndexEntry) (b : List Byte) : List Nat :=
  (List.range (b.length / 64)).filter fun u => es.any fun e => decide (e.offset ≤ u ∧ u < e.offset + e.count)

/-- Descriptor u of section 0x01. -/
def unitAt (b : List Byte) (u : Nat) : Nat := imgNat b (64 * u) 64

/-- First index entry or descriptor that names a plan stream no entry carries (R307). -/
def unknownStream (known : List Nat) (es : List IndexEntry) (units : List Nat) (b : List Byte) : Option Nat :=
  let bad := (es.filter fun e => !known.contains e.stream).map (·.pos)
    ++ (units.filter fun u => dscStream (unitAt b u) != 0xFFFF && !known.contains (dscStream (unitAt b u))).map (64 * ·)
  bad.min?

/-- Rewrite one 8-byte word of section 0x01 (R307): a program's index entry, or the header of a descriptor. -/
def rebindWord (ids : Nat → Nat) (indexLen : Nat) (units : List Nat) (k : Nat) (w : List Byte) : List Byte :=
  let v := leNat w
  if k < indexLen then if bitsOf v 32 20 = 0 then w else leBytes 8 (setBits v 52 12 (ids (bitsOf v 52 12)))
  else if k % 8 = 0 ∧ units.contains (k / 8) ∧ bitsOf v 16 16 ≠ 0xFFFF then leBytes 8 (setBits v 16 16 (ids (bitsOf v 16 16)))
  else w

/-- Section 0x01 with package stream IDs (R307). -/
def rebind (ids : Nat → Nat) (indexLen : Nat) (units : List Nat) (b : List Byte) : List Byte :=
  ((chunks 8 (cdiv b.length 8) b).zipIdx.flatMap fun w => rebindWord ids indexLen units w.2 w.1).take b.length

/-! ### Binding (R222, R301, R307) -/

/-- n numbers that are free in a range of `size`: the lowest run of n, else the lowest n; none when too few are free. -/
def pickFree (size n : Nat) (free : Nat → Bool) : Option (List Nat) :=
  let l := (List.range size).filter free
  match l.find? fun k => (List.range n).all fun i => decide (k + i < size) && free (k + i) with
  | some k => some (rangeFrom k n)
  | none => if n ≤ l.length then some (l.take n) else none

/-- Rank of entry i among stream entries, by plan stream number and then position. -/
def rankOf (es : List (BitVec 256)) (i : Nat) : Nat :=
  let key := fun (j : Nat) => strPlan (es.getD j 0)
  ((List.range es.length).filter fun j => decide (key j < key i ∨ (key j = key i ∧ j < i))).length

/-- A package stream bound to an entry, its ends at rest until PLAN_START. -/
def newStream (p : Nat) (e : BitVec 256) : Stream :=
  { partition := p, planStream := strPlan e, kind := strKind e, base := strBase e, itemUnits := strUnits e, depth := strDepth e
    drainPeriod := strDrain e, bridgeLines := strBridge e, ringInFrond := strRingInFrond e, ringFrond := strRingFrond e
    producerFrond := strProducerFrond e, producerSeq := if strProducerSeq e = 0 then .fetch else .execute
    consumerFrond := strConsumerFrond e, consumerSeq := if strConsumerSeq e = 0 then .fetch else .execute
    filled := 0, freed := 0, prodPos := 0, consPos := 0, claimed := 0 }

/-- A slot bound to a policy, settled in generation gen_start in region 0. -/
def newSlot (p i : Nat) (pol : BitVec 512) : MaskSlot :=
  { partition := p, policyIx := i, policy := pol, state := 1, region := 0, generation := BitVec.ofNat 32 (polGenStart pol)
    nnz := 0, prunes := [], regrows := [], committed := [], prunedTiles := [], newNnz := 0, swapDue := false }

/-- A slot-wheel entry with its stream bound; a plan stream that no entry carries leaves the slot unassigned. -/
def bindWheel (ids : Nat → Option Nat) (e : Nat) : BitVec 16 :=
  if e / 2 ^ 14 = 1 then match ids (e % 4096) with
    | some k => BitVec.ofNat 16 (2 ^ 14 + k)
    | none => 0
  else BitVec.ofNat 16 e

/-! ### Grants (step 3) -/

/-- One address in each piece of a range over which grants cannot change: 1 MiB, or 2 KiB chunks of the eight stacks in each
8 MiB of the interleaved view. -/
def samplePoints (a n : Nat) : List Nat :=
  if n = 0 then []
  else if 0x0800_0000_0000 ≤ a then
    (rangeFrom (a / 2 ^ 23) ((a + n - 1) / 2 ^ 23 - a / 2 ^ 23 + 1)).flatMap fun b =>
      let lo := max a (b * 2 ^ 23)
      ((List.range 8).map fun j => max lo ((lo / 2048 + j) * 2048)).filter fun x => decide (x < min (a + n) ((b + 1) * 2 ^ 23))
  else (rangeFrom (a / 2 ^ 20) ((a + n - 1) / 2 ^ 20 - a / 2 ^ 20 + 1)).map fun b => max a (b * 2 ^ 20)

/-- Whether a range of device addresses, none of them in a mask window, lies in the partition's grants. -/
def State.granted (s : State) (p a n : Nat) : Bool :=
  (samplePoints a n).all fun x => match s.resolveDirect x with
    | some y => s.holds p y
    | none => false

/-- Fronds that a plan's tables name: its own, those of its streams' ends and rings, and those of its buffer ranges. -/
def Plan.frondsNamed (pl : Plan) : List Nat :=
  frondsOf pl.fronds
    ++ pl.streams.flatMap (fun e => (if strKind e.1 = 0 then [strProducerFrond e.1, strConsumerFrond e.1] else [])
        ++ if strRingInFrond e.1 then [strRingFrond e.1] else [])
    ++ (pl.bufferMap.filter fun r => r.kind == 4).map (·.frond)

/-- Whether the plan names a frond, address, slot or share outside the partition's grants (R394), or a retired frond (R545).
Addresses of descriptors are PLAN_VERIFY's (R322, R366; DEDUCED, log entry 138). -/
def State.outsideGrants (s : State) (p : Nat) (pl : Plan) (updates : List (Nat × List Byte)) : Bool :=
  let x := s.part p
  (pl.frondsNamed.any fun f => !x.fronds.getLsbD f || (s.frond f).retired)
    || pl.ranges.any (fun r => r.2 != 0 && !s.granted p r.1 r.2)
    || updates.any (fun u => !s.granted p u.1 u.2.length) || pl.initial.any (fun u => !s.granted p u.1 (max 1 u.2))
    || !s.granted p pl.resumeAddr 1 || !s.granted p pl.lossScaleAddr 1
    || (pl.bufferMap.any fun r => r.kind == 4 && decide (frondBytes < r.base + r.length))
    || ((List.range (pl.wheels.length / 2)).any fun k => imgNat pl.wheels (2 * k) 2 != 0 && !x.slotShare.getLsbD (k % 256))
    || decide (x.bridgeLines < pl.bridgeUse)

/-! ### Writing (step 4) -/

/-- Write regions one after another until one is refused: the state, those begun, and the unit that refused (R647). -/
def State.writeAll (s : State) : List (Nat × List Byte) → State × List (Nat × Nat) × Option (Nat × Nat)
  | [] => (s, [], none)
  | (a, bs) :: r =>
    let w := s.fwWrite a bs
    match w.refused with
    | some b => (w.state, [(a, bs.length)], some b)
    | none =>
      let (s, done, bad) := State.writeAll w.state r
      (s, (a, bs.length) :: done, bad)

/-- A region that a failed load has written holds unspecified data (R394): free bytes. -/
def State.spoil (s : State) (r : Nat × Nat) : State :=
  let w := s.fwWrite r.1 ((List.range r.2).map fun i => Config.freeBits 8 (s.freeCtr + i))
  { w.state with freeCtr := s.freeCtr + r.2 }

/-- Whether a load skips an initial-data record (R561): a fill or a restore has written the partition, and the record meets a
protected entry. -/
def State.skipsRecord (s : State) (p a n : Nat) : Bool :=
  !(s.part p).protect.copies.isEmpty &&
    (let rs := (s.tableEntries p).flatMap fun e => s.entryRanges p e.1
     (rangeFrom a n).any fun x => match s.resolveDirect x with
       | some y => rs.any fun r => inRange r.1 r.2 y
       | none => false)

/-- Tables that hold no device address: regulators, shape tables, instruction memories (R159, R318, R336). -/
def State.writeTables (s : State) (pl : Plan) (img : List (Nat × List Byte)) : State :=
  let fs := frondsOf pl.fronds
  let regs := sectOf img 0x04
  let shapes := sectOf img 0x0A
  let kernels := sectOf img 0x0B
  let s := fs.foldl (fun s f => s.modFrond f fun x =>
    let e := imgNat regs (8 * f) 8
    { x with regulator := { rate := bitsOf e 0 18, burst := bitsOf e 32 24, tokens := 256 * bitsOf e 32 24 } }) s
  let tab := if shapes.isEmpty then s.shapeTab else fs.zipIdx.foldl (fun t fi =>
    sputs (fun _ => 0) t (256 * fi.1) ((List.range 256).map fun r => recordBits 512 ((shapes.drop (16384 * fi.2 + 64 * r)).take 64)))
    s.shapeTab
  let imem := if kernels.isEmpty then s.imem else fs.zipIdx.foldl (fun t fi =>
    let o := (Config.kernelLayout kernels fi.2).1
    sputs (fun _ => 0) t (8192 * fi.1) ((List.range 8192).map fun k => recordBits 64 ((kernels.drop (o + 8 * k)).take 8))) s.imem
  let s := fs.foldl (fun s f =>
    let s := if shapes.isEmpty then s else s.cleanWords f .shapes 0 (storeWords .shapes)
    if kernels.isEmpty then s else s.cleanWords f .instructions 0 (storeWords .instructions)) s
  { s with shapeTab := tab, imem := imem }

/-- Slot-wheel entries, written with their streams bound (R301). -/
def State.writeWheels (s : State) (ids : Nat → Option Nat) (pl : Plan) : State :=
  { s with wheels := (List.range (pl.wheels.length / 2)).foldl (fun w k =>
      let e := imgNat pl.wheels (2 * k) 2
      if e = 0 then w else sput (fun _ => (0 : BitVec 16)) w k (bindWheel ids e)) s.wheels }

/-- Peers that REDUCE_SEND and REDUCE_RECV name, each once, unannounced (R497). -/
def peersOf (ds : List Nat) : List Peer :=
  ds.foldl (fun l d =>
    let one := fun (c q : Nat) =>
      if l.any fun x => x.chip == c && x.partition == q then l else l ++ [{ chip := c, partition := q, announced := false, epoch := 0 }]
    if dscKind d = 0x50 then one (sendOf d).dstChip (sendOf d).dstPartition
    else if dscKind d = 0x51 then one (recvOf d).srcChip (recvOf d).srcPartition
    else l) []

/-- Whether a descriptor names a policy: a mask descriptor, or an UPDATE of a masked tensor. -/
def namesPolicy (k d : Nat) : Bool :=
  match dscKind d with
  | 0x40 | 0x41 | 0x42 => dscBody d 0 8 == k
  | 0x21 => dscBody d 0 8 == k && !(updateOf d).dense
  | _ => false

/-- Lowest tuft of the fronds whose programs name policy k (R251); of the plan's fronds when none does. -/
def tensorTuft (pl : Plan) (es : List IndexEntry) (b : List Byte) (k : Nat) : Nat :=
  let fs := (es.filter fun e => (rangeFrom e.offset e.count).any fun u => namesPolicy k (unitAt b u)).map (·.frond)
  ((if fs.isEmpty then frondsOf pl.fronds else fs).map tuftOf).min?.getD 0

/-! ### PLAN_LOAD -/

/-- The plan that an image spells, before stream IDs and mask slots are bound. -/
def planOf (h : List Byte) (img : List (Nat × List Byte)) (ds : List Nat) : Plan :=
  let area := (((recordsOf 32 (sectOf img 6)).map regionOf).find? fun r => r.kind == 5).getD default
  let fronds := BitVec.ofNat 128 (imgNat h 16 16)
  { fronds := fronds, seed := BitVec.ofNat 64 (imgNat h 32 8), frameTicks := imgNat h 40 2, framesPerStep := imgNat h 42 2
    programSets := imgNat h 44 1, resumable := imgNat h 45 1 % 2 == 1, tickPeriod := imgNat h 48 4, shapeAddr := imgNat h 56 8
    lossScaleAddr := imgNat h 64 8, resumeAddr := imgNat h 72 8, runSteps := imgNat h 80 8
    programHash := (((directory h).find? fun x => x.type == 1).map (·.hash)).getD 0
    progBase := area.base, progBytes := area.length, tagBase := area.base + p64 (sectOf img 1).length
    bufferMap := (recordsOf 32 (sectOf img 6)).map regionOf
    streams := (recordsOf 32 (sectOf img 3)).map fun b => (recordBits 256 b, 0)
    wheels := sectOf img 5, shapes := sectOf img 7, policies := (recordsOf 64 (sectOf img 8)).map (recordBits 512)
    slots := [], shards := ((updateRecords (sectOf img 9)).drop 1).map (·.1), power := sectOf img 0x0C
    kernels := (frondsOf fronds).zipIdx.map fun fi => (fi.1, (Config.kernelLayout (sectOf img 0x0B) fi.2).2)
    regulators := (frondsOf fronds).map fun f =>
      (f, bitsOf (imgNat (sectOf img 4) (8 * f) 8) 0 18, bitsOf (imgNat (sectOf img 4) (8 * f) 8) 32 24)
    initial := (initialOf (sectOf img 0x0D)).map fun r => (r.2.1, r.2.2.length)
    tensorTufts := []
    tickets := ((ds.filter fun d => dscKind d == 0x32).map fun d => ((ticketOf d).counterAddr, dscStream d)).eraseDups
    image := img }

/-- Read part of the image from its source; a failure is answered under R647 and leaves nothing. -/
def State.readImage (s : State) (p m : Nat) (host : Bool) (a n : Nat) : State × Option (List Byte) :=
  if host then match s.readHost a n with
    | some bs => (s, some bs)
    | none => (s.hostFaulted (some p) m, none)
  else
    let r := s.fwRead a n
    match r.bad with
    | some b => (r.state.cmdFaulted (some p) m b, none)
    | none => (r.state, some r.bytes)

/-- Read every section, in directory order. -/
def State.readSects (s : State) (p m : Nat) (host : Bool) (a : Nat) : List Sect → State × Option (List (Nat × List Byte))
  | [] => (s, some [])
  | x :: r =>
    match s.readImage p m host (a + x.offset) x.length with
    | (s, none) => (s, none)
    | (s, some bs) => match State.readSects s p m host a r with
      | (s, none) => (s, none)
      | (s, some l) => (s, some ((x.type, bs) :: l))

/-- A failed load: the partition returns to created and holds no plan (R394); a recovering one stays recovering. -/
def State.loadFailed (s : State) (p : Nat) : State :=
  (s.unloadPlan p).modPart p fun x => { x with state := if x.state == .recovering then .recovering else .created }

/-- Steps 4 and 5, with every stream and slot bound: the writes, the hashes, and the answer. -/
def State.loadWrites (s : State) (p m : Nat) (h : List Byte) (img : List (Nat × List Byte)) (pl : Plan)
    (ids : Nat → Option Nat) (units : List Nat) : State :=
  let prog := rebind (fun k => (ids k).getD k) (pl.programSets * pl.framesPerStep * 128) units (sectOf img 1)
  let s := s.modPart p fun x => { x with plan := some pl }
  let table := fun (r : Nat × Nat × List Byte) =>
    decide (r.2.1 < pl.resumeAddr + 12288 ∧ pl.resumeAddr + 4096 < r.2.1 + r.2.2.length)
  let inits := initialOf (sectOf img 0x0D)
  let first := [(pl.progBase, prog), (pl.tagBase, sectOf img 2)] ++ updateRecords (sectOf img 9)
    ++ (inits.filter table).map (·.2)
  let (s, done, bad) := s.writeAll first
  match bad with
  | some b => ((done.foldl State.spoil s).loadFailed p).cmdFaulted (some p) m b
  | none =>
    let (s, done', bad) := s.writeAll (((inits.filter fun r => !table r && !s.skipsRecord p r.2.1 r.2.2.length)).map (·.2))
    let done := done ++ done'
    match bad with
    | some b => ((done.foldl State.spoil s).loadFailed p).cmdFaulted (some p) m b
    | none =>
      let s := s.writeTables pl img
      match (directory h).find? fun x => sha384 (sectOf img x.type) != x.hash with
      | some x => ((done.foldl State.spoil s).loadFailed p).verifyFailed m x.type 1 0
      | none =>
        let s := (s.writeWheels ids pl).restartMaskLedgers p
        let s := s.modPart p fun x =>
          { x with state := if x.state == .recovering then .recovering else .loaded, planVerified := false, resumeValid := false
                   barred := some (pl.progBase, pl.progBytes), protect := { x.protect with lost := false } }
        let head := h.take (dirEnd h)
        (s.setMeas (4 + p) (sha384 head)).ok m (sha384Bytes head)

/-- Step 3 and the binding of step 4. -/
def State.loadBinds (s : State) (p m code : Nat) (h : List Byte) (img : List (Nat × List Byte)) : State :=
  let prog := sectOf img 1
  let index := indexOf (imgNat h 44 1) (imgNat h 42 2) prog
  let units := programUnits index prog
  let ds := units.map (unitAt prog)
  let pl := planOf h img ds
  let entries := pl.streams.map (·.1)
  let refuse := (s.loadFailed p).notAllowed m code
  if s.outsideGrants p pl (updateRecords (sectOf img 9)) then refuse
  else match unknownStream (entries.map strPlan) index units prog with
    | some o => (s.loadFailed p).verifyFailed m 1 2 o
    | none =>
      let peers := peersOf ds
      if 64 < peers.length then refuse
      else match pickFree 4096 entries.length (fun k => (s.stream k).isNone),
          pickFree 256 pl.policies.length (fun k => (s.slot k).isNone) with
        | some sids, some slots =>
          let idAt := fun (i : Nat) => sids.getD (rankOf entries i) 0
          let bound := entries.zipIdx.map fun e => (e.1, idAt e.2)
          let ids := fun (k : Nat) => (bound.find? fun e => strPlan e.1 == k).map (·.2)
          let s := bound.foldl (fun s e => s.setStream e.2 (some (newStream p e.1))) s
          let s := (pl.policies.zip slots).zipIdx.foldl (fun s e => s.setSlot e.1.2 (some (newSlot p e.2 e.1.1))) s
          let s := s.modPart p fun x => { x with peers := peers }
          s.loadWrites p m h img
            { pl with streams := bound, slots := slots, tickets := pl.tickets.map fun t => (t.1, (ids t.2).getD t.2),
                      tensorTufts := (List.range pl.policies.length).map (tensorTuft pl index prog) } ids units
        | _, _ => refuse

/-- Steps 1 and 2: the header and the directory, the program area, then every section (R374, R394). -/
def State.loadReads (s : State) (p m code : Nat) (host : Bool) (a given : Nat) : State :=
  match s.readImage p m host a (min 128 given) with
  | (s, none) => s.loadFailed p
  | (s, some h) =>
    match headFails h given with
    | o :: _ => (s.loadFailed p).verifyFailed m 0 1 o
    | [] => match s.readImage p m host (a + 128) (dirEnd h - 128) with
      | (s, none) => s.loadFailed p
      | (s, some d) =>
        let h := h ++ d
        match imageFail h given with
        | some o => (s.loadFailed p).verifyFailed m 0 1 o
        | none =>
          let six := (directory h).filter fun x => x.type == 6
          match s.readSects p m host a six with
          | (s, none) => s.loadFailed p
          | (s, some map) =>
            let len := fun (t : Nat) => (((directory h).find? fun x => x.type == t).map (·.length)).getD 0
            match areaFail ((recordsOf 32 (sectOf map 6)).map regionOf) (areaNeed (len 1) (len 2)) with
            | some o => (s.loadFailed p).verifyFailed m 6 3 o
            | none => match s.readSects p m host a ((directory h).filter fun x => x.type != 6) with
              | (s, none) => s.loadFailed p
              | (s, some l) => s.loadBinds p m code h ((0, h) :: map ++ l)

/-- PLAN_LOAD (R394): whatever plan the partition held is gone once the load begins, with the bar on writes to its programs
(R52), and its measurement is zero (R574). -/
def State.planLoad (s : State) (p m : Nat) (t : Taken) : State :=
  let src := t.arg 8 1
  let a := t.arg 16 8
  let n := t.arg 24 8
  if 1 < src then s.badArg m 8 0
  else if src = 1 ∧ ((unitsOf (rangeFrom a n)).any fun u => (s.resolve none (u * 64)).isNone) then s.badArg m 16 (s.leastSource n)
  else (((s.unloadPlan p).modPart p fun x => { x with barred := none }).setMeas (4 + p) 0).loadReads p m (s.part p).state.code (src == 0) a n

def execPlanLoad (m : Nat) (s : State) : Out := linsoPart m 0x20 anyForm (fun p t s => s.planLoad p m t) s

end Sys2Proof.Machine
end

