-- ==== Sys2Proof/Machine/Reset.lean ====
section
/-! DEFINITION. Package resets, the reset pins and the references (R33, R442, R473, R531, R604, R606, R608, R614 to R617,
R621, R622, R625, R626, R631). -/

namespace Sys2Proof.Machine

/-! ### Package resets -/

/-- A package cold reset (R531, R614): everything goes to reset but the fuses, the flash, the host's side and the straps'
sampled values; a system reference that is lost still holds the package (R608). -/
def State.coldReset (s : State) : State :=
  { State.reset with
    pending := s.pending, freeCtr := s.freeCtr, hostMem := s.hostMem, hostBad := s.hostBad, host := s.host
    indus := { Indusium.reset with fuses := s.indus.fuses, flash := s.indus.flash }
    pkg := { Package.reset with
      feedId := s.pkg.feedId, pairSense := s.pkg.pairSense, perst := s.pkg.perst, lostRefs := s.pkg.lostRefs
      clocksStopped := s.pkg.lostRefs.contains .system, inWarmReset := s.pkg.lostRefs.contains .system } }

/-- Fronds after a package warm reset: at reset, the retired ones still retired (R531, R544). -/
def State.warmFronds (s : State) : List (Nat × Frond) :=
  (List.range 128).foldl (fun m f =>
    if (s.frond f).retired then sput (fun _ => Frond.reset) m f { Frond.reset with retired := true } else m) []

/-- Instructions that take hold of the pins (R631). -/
def JtagIr.holds : JtagIr → Bool
  | .extest | .extestPulse | .extestTrain | .clamp | .highz => true
  | .bypass | .idcode | .samplePreload => false

/-- A package warm reset (R531): every unit, the rhizome and the Crozier go to reset, TICK_COUNT is cleared (R33) and the
mailboxes are at reset (R473). HBM4 and DDR5 contents stay, poison included, in self-refresh (R442); the list of retired
units, the straps, the voltage setting (R583) and the energy since cold reset stay, and temperatures are the sensors'. The
package leaves the reset once PERST# is released and no reference is lost. -/
def State.warmReset (s : State) : State :=
  let kept := fun a : Nat => decide (0x4000_0000 ≤ a)
  let held := s.pkg.perst || s.pkg.lostRefs.contains .system
  { State.reset with
    pending := s.pending, freeCtr := s.freeCtr, hostMem := s.hostMem, hostBad := s.hostBad, host := s.host
    mem := s.mem.filter fun c => kept c.1
    poison := s.poison.filter fun c => kept (c.1 * 64)
    flips := s.flips.filter fun c => kept (c.1 * 4)
    devErr := s.devErr
    blockTag := s.blockTag.filter fun b => kept (b.1 * 0x10_0000)
    fronds := s.warmFronds
    power := { Power.reset with
      vid0 := s.power.vid0, vid1 := s.power.vid1, temps := s.power.temps, energyMj := s.power.energyMj }
    indus := { Indusium.reset with fuses := s.indus.fuses, flash := s.indus.flash }
    test := { s.test with holdsPins := s.pkg.perst && s.test.ir.holds }
    pkg := { Package.reset with
      feedId := s.pkg.feedId, pairSense := s.pkg.pairSense, perst := s.pkg.perst, lostRefs := s.pkg.lostRefs
      coldBoot := false, inWarmReset := held, linkUp := s.pkg.linkUp && !s.pkg.perst, linkRate := s.pkg.linkRate, linkWidth := s.pkg.linkWidth, ddrRate := s.pkg.ddrRate, dimm := s.pkg.dimm
      memCapacity := s.pkg.memCapacity, retiredUnits := s.pkg.retiredUnits
      memState := s.pkg.memState.map fun e => if e.2 = 3 then (e.1, 5) else e } }

/-- A running or stopping partition stops at the request of a warm reset, without a fault record (R597, R615); a start that
has been accepted goes with it. -/
def State.stopForReset (s : State) (p : Nat) : State :=
  if (s.part p).active then ((s.abandon p).stopFeed p).modPart p fun x => { x with state := .stopped, start := none, stop := none }
  else s.modPart p fun x => { x with start := none }

/-- A request for a package warm reset (R615). -/
def State.requestWarm (s : State) : State :=
  if s.pkg.pwrOk && !s.pkg.inWarmReset then
    let s := (List.range 16).foldl State.stopForReset s
    { s with pkg := { s.pkg with warmRequested := true } }
  else s

/-- WARM_RESET_ENTRY: after the power descent of a request, or by the firmware after THERMAL_TRIP once every junction has
fallen below 105 °C (R527). -/
def execWarmResetEntry (s : State) : Out :=
  .next (if s.pkg.pwrOk && !s.pkg.inWarmReset && (s.pkg.warmRequested || s.pkg.thermalTrip) && (!s.pkg.thermalTrip || s.power.below 105)
    then s.warmReset else s)

def execCxlHotReset (s : State) : Out := .next s.requestWarm

def execWatchdogExpiry (s : State) : Out := .next s.requestWarm

/-! ### PERST# -/

/-- PERST# asserted: the link goes down with it. Before fw_state 3 of a cold reset that reset starts again (R617), and
otherwise a warm reset is requested (R615). -/
def State.perstLow (s : State) : State :=
  let s := { s with pkg := { s.pkg with perst := true, linkUp := false } }
  if !s.pkg.pwrOk then s
  else if s.pkg.coldBoot then s.coldReset
  else s.requestWarm

def execPerstAssert (s : State) : Out := .next (if s.pkg.perst then s else s.perstLow)

/-- PERST# released (R445, R616): the hub trains the link with what the host port offers; a warm reset that PERST# held ends,
unless a lost reference holds it. -/
def State.perstHigh (s : State) : State :=
  let s := { s with
    test := { s.test with holdsPins := false }
    pkg := { s.pkg with perst := false, inWarmReset := s.pkg.inWarmReset && s.pkg.lostRefs.contains .system } }
  if s.pkg.pwrOk then s.trainLink s.host.port else { s with pkg := { s.pkg with linkUp := false } }

def execPerstRelease (s : State) : Out := .next (if s.pkg.perst then s.perstHigh else s)

/-! ### PWR_OK -/

/-- PWR_OK rising (R614, R625, R626): a package cold reset, with the straps sampled; with PERST# high the link trains with what
the board's host port offers (log entry 150). -/
def execPwrOkRise (feedId : BitVec 4) (pairSense : Bool) (x : PerstPin) (s : State) : Out :=
  .next (if s.pkg.pwrOk then s
    else
      let t := s.coldReset
      let t := { t with
        pkg := { t.pkg with feedId := feedId, pairSense := pairSense, perst := !x.high, linkUp := false }
        host := { t.host with port := x.port } }
      if x.high then t.trainLink x.port else t)

/-- PWR_OK falling (R614, R621, R622): every clock stops and the package is held in reset; memory contents are not kept, and
only THERMAL_TRIP# is still driven. -/
def execPwrOkFall (s : State) : Out :=
  .next (if s.pkg.pwrOk then
    let t := s.coldReset
    { t with pkg := { t.pkg with pwrOk := false, clocksStopped := true, thermalTrip := s.pkg.thermalTrip, tickOutDriven := false, uartHigh := false } }
    else s)

/-! ### References -/

/-- REFERENCE_LOSS (R608). -/
def State.loseReference (s : State) : Reference → State
  | .system =>
    let t := { s with pkg := { s.pkg with lostRefs := Reference.system :: s.pkg.lostRefs.filter (· != Reference.system) } }.warmReset
    { t with pkg := { t.pkg with clocksStopped := true, faultPin := true } }
  | .cxl => { s with pkg := { s.pkg with linkUp := false } }
  | .pliund => (List.range 16).foldl (fun s i => if (s.port i).state = 2 then s.portDown i 2 else s) s

def execReferenceLoss (r : Reference) (s : State) : Out := .next (if s.pkg.pwrOk then s.loseReference r else s)

/-- REFERENCE_STABLE (R608): the package leaves the warm reset that the lost system reference held. -/
def execReferenceStable (s : State) : Out :=
  .next (if s.pkg.pwrOk && s.pkg.lostRefs.contains .system then
    { s with pkg := { s.pkg with
        lostRefs := s.pkg.lostRefs.filter (· != Reference.system), clocksStopped := false, inWarmReset := s.pkg.perst, faultPin := false } }
    else s)

end Sys2Proof.Machine
end

