-- ==== Sys2Proof/Machine/Indusium.lean ====
section
/-! DEFINITION. The Indusium: fuses, flash, firmware images, boot, FW_UPDATE, ATTEST and DEBUG_UNLOCK (R565 to R575, R578 to
R581, R583, R617). -/

namespace Sys2Proof.Machine

/-! ### Fuses (R565) -/

/-- Field of the fuse array. -/
def Indusium.fuse (x : Indusium) (lo n : Nat) : Nat := bitsOf x.fuses.toNat lo n
def Indusium.hostLoadDisable (x : Indusium) : Bool := x.fuse 2439 1 == 1
def Indusium.debugDisable (x : Indusium) : Bool := x.fuse 2438 1 == 1
def Indusium.lifecycle (x : Indusium) : Nat := x.fuse 2436 2
def Indusium.revoked (x : Indusium) (k : Nat) : Bool := x.fuse (2368 + k) 1 == 1
def Indusium.keyHash (x : Indusium) (k : Nat) : BitVec 384 := BitVec.ofNat 384 (x.fuse (832 + 384 * k) 384)
def Indusium.identityKey (x : Indusium) : Nat := x.fuse 0 384

/-- The rollback value: the count of consecutive ones from bit 2372, 0 to 64. -/
def Indusium.rollback (x : Indusium) : Nat := ((List.range 64).takeWhile fun i => x.fuses.getLsbD (2372 + i)).length

/-- Burn the rollback thermometer up to v; a fuse at 1 stays. -/
def Indusium.burnRollback (x : Indusium) (v : Nat) : Indusium :=
  { x with fuses := (List.range v).foldl (fun (f : BitVec 4096) i => f ||| (1#4096 <<< (2372 + i))) x.fuses }

/-! ### The flash -/

/-- A byte of the QSPI flash, as programmed before the first boot or written since. -/
def Indusium.flashAt (x : Indusium) (a : Nat) : Byte := sget Config.flashByte x.flash a
def Indusium.flashRead (x : Indusium) (a n : Nat) : List Byte := (rangeFrom a n).map x.flashAt

/-- Write an image to a slot: the sectors that it covers are erased, then written (R572). -/
def Indusium.flashWrite (x : Indusium) (slot : Nat) (bs : List Byte) : Indusium :=
  let full := bs ++ List.replicate (upTo 0x1_0000 bs.length - bs.length) (0xFF : Byte)
  { x with flash := sputs Config.flashByte x.flash (slot * 0x100_0000) full }

/-! ### Firmware images (R568, R569) -/

/-- Offset of segment entry i of a manifest. -/
def segAt (i : Nat) : Nat := 64 + 80 * i

/-- Whether two spans of bytes meet. -/
def byteSpansMeet (a n b m : Nat) : Bool := decide (0 < n ∧ 0 < m ∧ a < b + m ∧ b < a + n)

/-- Check 1: offsets of the fields that fail, ascending. -/
def manifestFails (b : List Byte) : List Nat :=
  let keep := fun (bad : Bool) (o : Nat) => if bad then [o] else []
  let n := imgNat b 6 2
  let total := imgNat b 24 8
  let seg := fun (i : Nat) => (imgNat b (segAt i) 8, imgNat b (segAt i + 8) 8, imgNat b (segAt i + 16) 8)
  keep (imgNat b 0 4 != 0xF1E09608) 0 ++ keep (imgNat b 4 2 != 1) 4 ++ keep (n == 0 || decide (8 < n)) 6 ++ keep (imgNat b 18 6 != 0) 18
    ++ keep (decide (total < 1024) || decide (0x40_0000 < total) || decide (b.length < total)) 24 ++ keep (imgNat b 36 28 != 0) 36
    ++ ((List.range 8).flatMap fun i =>
      let (o, l, a) := seg i
      if n ≤ i then keep (imgNat b (segAt i) 80 != 0) (segAt i)
      else
        keep (decide (o < 1024) || decide (total < o + l) || (List.range i).any fun j => byteSpansMeet o l (seg j).1 (seg j).2.1) (segAt i)
          ++ keep (decide (0x30_0000 < a + l) || (List.range i).any fun j => byteSpansMeet a l (seg j).2.2 (seg j).2.1) (segAt i + 16)
          ++ keep (imgNat b (segAt i + 24) 8 != 0) (segAt i + 24))
    ++ keep (imgNat b 896 128 != 0) 896

/-- The acceptance table: the check class and the image offset of the first failing field. -/
def Indusium.imageFails (x : Indusium) (b : List Byte) : Option (Nat × Nat) :=
  let cut := fun (o n : Nat) => (b.drop o).take n
  match manifestFails b with
  | o :: _ => some (2, o)
  | [] =>
    let k := imgNat b 17 1
    let svn := imgNat b 16 1
    if 1 < k ∨ x.revoked k then some (5, 17)
    else if sha384 (cut 704 96) ≠ x.keyHash k then some (5, 704)
    else if 64 < svn ∨ svn < x.rollback then some (5, 16)
    else if !ecdsaVerify (cut 704 96) (cut 800 96) (b.take 800) then some (1, 800)
    else ((List.range (imgNat b 6 2)).find? fun i =>
      sha384 (cut (imgNat b (segAt i) 8) (imgNat b (segAt i + 8) 8)) != BitVec.ofNat 384 (imgNat b (segAt i + 32) 48)).map
        fun i => (1, segAt i + 32)

/-- The image in a firmware slot: its manifest's length of bytes, at least a manifest and at most 4 MiB. -/
def Indusium.slotImage (x : Indusium) (slot : Nat) : List Byte :=
  let a := slot * 0x100_0000
  x.flashRead a (max 1024 (min 0x40_0000 (leNat (x.flashRead (a + 24) 8))))

def Indusium.slotAccepted (x : Indusium) (slot : Nat) : Bool := (x.imageFails (x.slotImage slot)).isNone
def Indusium.slotVersion (x : Indusium) (slot : Nat) : Nat := imgNat (x.slotImage slot) 8 4
def Indusium.slotSvn (x : Indusium) (slot : Nat) : Nat := imgNat (x.slotImage slot) 16 1

/-! ### Measurements (R574) -/

/-- SHA-384 of register 2's eight bytes. -/
def Indusium.policyHash (x : Indusium) (svn : Nat) : BitVec 384 :=
  sha384 ([BitVec.ofNat 8 svn, BitVec.ofNat 8 x.rollback, BitVec.ofNat 8 x.lifecycle, if x.debugDisable then 1 else 0
    , if x.hostLoadDisable then 1 else 0, BitVec.ofNat 8 x.bootSource, 0, 0])

/-- SHA-384 of key_hash and key_revoked (register 20): the fuse bytes of the one, then the bits of the other as a byte. -/
def Indusium.keysHash (x : Indusium) : BitVec 384 := sha384 (leBytes 192 (x.fuse 832 1536) ++ leBytes 1 (x.fuse 2368 4))

/-! ### Certificates (R566, R567) -/

/-- The three certificates of the identity area: leaf, device CA and root. -/
def Indusium.certificates (x : Indusium) : List (List Byte) :=
  let at_ := fun (a : Nat) => leNat (x.flashRead a 4)
  let a0 := 0x200_0000
  let a1 := a0 + 4 + min 0x1_0000 (at_ a0)
  let a2 := a1 + 4 + min 0x1_0000 (at_ a1)
  [a0, a1, a2].map fun a => x.flashRead (a + 4) (min 0x1_0000 (at_ a))

/-- Whether the leaf's hash equals ident_cert_hash. -/
def Indusium.leafMatches (x : Indusium) : Bool := (sha384 (x.certificates.headD [])).toNat == x.fuse 384 384

/-! ### Rollback (R573) -/

/-- Raise the rollback value to the smaller svn of the two slots, when both are accepted and it is above the present value. -/
def State.raiseRollback (s : State) : State :=
  let x := s.indus
  let v := min (x.slotSvn 0) (x.slotSvn 1)
  if x.slotAccepted 0 && x.slotAccepted 1 && decide (x.rollback < v) then
    let s := { s with indus := x.burnRollback v }
    s.setMeas 2 (s.indus.policyHash s.indus.runSvn)
  else s

/-! ### Boot (R570, R571, R573, R583) -/

/-- Steps 6 and 7 with an accepted image from a boot source: measurements, the firmware's compare of the leaf, and core 0
starts. During a package cold reset the firmware sets each rail between 0.60 V and 0.80 V in steps of 5 mV, as the
critical-path monitors, which are not modelled, let it (R583; a free value). -/
def State.runImage (s : State) (b : List Byte) (source : Nat) : State :=
  let x := { s.indus with
    bootSource := source, hostServing := false, fwVersion := BitVec.ofNat 32 (imgNat b 8 4), edition := BitVec.ofNat 32 (imgNat b 12 4)
    runSvn := imgNat b 16 1, staged := false, fuseLocked := true, certSet := s.indus.leafMatches }
  let (v0, s) := s.freeNat
  let (v1, s) := s.freeNat
  let w := if s.pkg.coldBoot then { s.power with vid0 := 600 + 5 * (v0 % 41), vid1 := 600 + 5 * (v1 % 41) } else s.power
  let s := { s with indus := x, power := w, pkg := { s.pkg with fwState := 2 } }
  (((s.setMeas 0 Config.bootRomHash).setMeas 1 (sha384 (b.take 896))).setMeas 2 (x.policyHash (imgNat b 16 1))).setMeas 20 x.keysHash

/-- fw_state 4, with FAULT# asserted (R570, R621). -/
def State.bootFails (s : State) : State := { s with pkg := { s.pkg with fwState := 4, faultPin := true } }

/-- The order in which step 3 puts the slots. -/
def Indusium.slotOrder (x : Indusium) : List Nat := if x.slotVersion 0 < x.slotVersion 1 then [1, 0] else [0, 1]

/-- BOOT_ROM (R570, R571). A self-test that fails goes no further. -/
def State.boot (s : State) (selfTestOk : Bool) : State :=
  if !selfTestOk then s
  else if s.indus.lifecycle = 0 then s.bootFails
  else match s.indus.slotOrder.find? s.indus.slotAccepted with
    | some k => s.runImage (s.indus.slotImage k) k
    | none =>
      if s.indus.hostLoadDisable then s.bootFails
      else { s with pkg := { s.pkg with fwState := 1 }, indus := { s.indus with hostServing := true } }

def execBootRom (selfTestOk : Bool) (s : State) : Out :=
  .next (if s.pkg.pwrOk && !s.pkg.inWarmReset && !s.pkg.clocksStopped && s.pkg.fwState == 0 then s.boot selfTestOk else s)

/-- FW_READY (R570, R573): bring-up is complete. -/
def execFwReady (s : State) : Out :=
  .next (if s.pkg.fwState == 2 && s.pkg.pwrOk && !s.pkg.inWarmReset then
    { s with pkg := { s.pkg with fwState := 3, coldBoot := false } }.raiseRollback else s)

/-! ### FW_UPDATE (R571, R572) -/

/-- The slot that an update writes. -/
def Indusium.targetSlot (x : Indusium) : Nat :=
  if x.bootSource = 0 then 1
  else if x.bootSource = 1 then 0
  else if !x.slotAccepted 0 && x.slotAccepted 1 then 0
  else if !x.slotAccepted 1 && x.slotAccepted 0 then 1
  else if x.slotVersion 0 < x.slotVersion 1 then 0 else 1

/-- Bytes of an image from host or device memory; a failed read is answered (R647). -/
def State.fetchImage (s : State) (m : Nat) (host : Bool) (a n : Nat) : State × Option (List Byte) :=
  if host then match s.readHost a n with
    | some bs => (s, some bs)
    | none => (s.hostFaulted none m, none)
  else
    let r := s.fwRead a n
    match r.bad with
    | some b => (r.state.cmdFaulted none m b, none)
    | none => (r.state, some r.bytes)

def State.fwUpdate (s : State) (m : Nat) (t : Taken) : State :=
  let src := t.arg 8 1
  let a := t.arg 16 8
  let n := t.arg 24 8
  if 1 < src then s.badArg m 8 0
  else if src = 1 ∧ ((unitsOf (rangeFrom a n)).any fun u => (s.resolve none (u * 64)).isNone) then s.badArg m 16 (s.leastSource n)
  else match s.fetchImage m (src == 0) a (min n 0x40_0000) with
    | (s, none) => s
    | (s, some b) => match s.indus.imageFails b with
      | some (c, o) => s.verifyFailed m 0xFF00 c o
      | none =>
        let version := leBytes 4 (imgNat b 8 4)
        if s.indus.hostServing then (s.runImage b 2).ok m version
        else
          let image := b.take (imgNat b 24 8)
          let s := { s with indus := { s.indus.flashWrite s.indus.targetSlot image with staged := true } }
          s.raiseRollback.ok m version

def execFwUpdate (m : Nat) (s : State) : Out := linsoRow m 0x70 anyForm (fun t s => s.fwUpdate m t) s

/-! ### ATTEST (R567, R575, R578) -/

/-- A signature by the identity key, with a nonce from the random-bit generator. -/
def State.signIdentity (s : State) (message : List Byte) : (Nat × Nat) × State :=
  let (k, s) := s.freeBits 384
  (ecdsaSign s.indus.identityKey (1 + k.toNat % (bpQ - 1)) message, s)

/-- The string that opens what an ATTEST signature covers: KEROUROTH-FILENE-ATTEST-1. -/
def attestTag : List Byte :=
  [0x4B, 0x45, 0x52, 0x4F, 0x55, 0x52, 0x4F, 0x54, 0x48, 0x2D, 0x46, 0x49, 0x4C, 0x45, 0x4E, 0x45, 0x2D,
   0x41, 0x54, 0x54, 0x45, 0x53, 0x54, 0x2D, 0x31]

/-- Report bytes 0 to 1,407. -/
def State.attestReport (s : State) (nonce : Nat) : List Byte :=
  leBytes 4 0xA7E59608 ++ leBytes 2 1 ++ leBytes 2 21 ++ leBytes 8 s.indus.serial ++ leBytes 8 s.tickNow
    ++ [BitVec.ofNat 8 s.indus.lifecycle, BitVec.ofNat 8 s.indus.debugScope, BitVec.ofNat 8 s.indus.rollback] ++ List.replicate 5 0
    ++ leBytes 32 nonce
    ++ s.indus.meas.zipIdx.flatMap fun e =>
      leBytes 1 e.2 ++ leBytes 3 0 ++ leBytes 4 e.1.2.toNat ++ leBytes 8 0 ++ leBytes 48 e.1.1.toNat

/-- State byte of a NOT_ALLOWED answer: that of the partition in scope, 0xFF for none. -/
def State.scopeCode (s : State) (m : Nat) (t : Taken) : Nat :=
  match t.target m with
  | some p => (s.part p).state.code
  | none => 0xFF

def State.attest (s : State) (m : Nat) (t : Taken) : State :=
  if s.indus.lifecycle = 3 then s.notAllowed m (s.scopeCode m t)
  else
    let r := s.attestReport (t.arg 8 32)
    let (g, s) := s.signIdentity (attestTag ++ r)
    s.ok m (r ++ leBytes 48 g.1 ++ leBytes 48 g.2)

def execAttest (m : Nat) (s : State) : Out := linsoRow m 0x71 anyForm (fun t s => s.attest m t) s

/-! ### DEBUG_UNLOCK (R579 to R581) -/

/-- Phase 0: a fresh challenge. -/
def State.debugChallenge (s : State) (m : Nat) : State :=
  if s.indus.debugDisable then s.notAllowed m 0xFF
  else
    let (c, s) := s.freeBits 384
    { s with indus := { s.indus with challenge := some c } }.ok m (leBytes 48 c.toNat)

/-- The first failing check of a token: class and offset. -/
def Indusium.tokenFails (x : Indusium) (challenge : Option (BitVec 384)) (b : List Byte) : Option (Nat × Nat) :=
  let k := imgNat b 6 1
  let scope := imgNat b 7 1
  let cut := fun (o n : Nat) => (b.drop o).take n
  if imgNat b 0 4 ≠ 0xDB609608 then some (2, 0)
  else if imgNat b 4 2 ≠ 1 then some (2, 4)
  else if scope = 0 ∨ 8 ≤ scope then some (2, 7)
  else if imgNat b 8 8 ≠ x.serial then some (2, 8)
  else if some (BitVec.ofNat 384 (imgNat b 16 48)) ≠ challenge then some (2, 16)
  else if (k ≠ 2 ∧ k ≠ 3) ∨ x.revoked k then some (5, 6)
  else if sha384 (cut 64 96) ≠ x.keyHash k then some (5, 64)
  else if !ecdsaVerify (cut 64 96) (cut 160 96) (b.take 160) then some (1, 160)
  else none

/-- Phase 1: the token is read, the challenge is consumed, and an accepted token unlocks its scope. -/
def State.debugToken (s : State) (m : Nat) (t : Taken) : State :=
  let a := t.arg 16 8
  let challenge := s.indus.challenge
  let s := { s with indus := { s.indus with challenge := none } }
  let outside := fun (a : Nat) => (rangeFrom a 256).any fun x => match s.resolveDirect x with
    | some y => (s.holderOf y).isSome
    | none => true
  if outside a then
    s.badArg m 16 (leastOf (regionStarts ++ (List.range 16).flatMap fun q => (s.part q).grants.map fun g => g.base + grantBytes g)
      fun x => !outside x)
  else if t.arg 24 4 ≠ 256 then s.badArg m 24 256
  else if s.indus.debugDisable || (List.range 16).any fun p => (s.part p).active then s.notAllowed m 0xFF
  else
    let r := s.fwRead a 256
    match r.bad with
    | some b => r.state.cmdFaulted none m b
    | none =>
      let s := r.state
      match s.indus.tokenFails challenge r.bytes with
      | some (c, o) => s.verifyFailed m 0xFF01 c o
      | none =>
        ({ s with indus := { s.indus with debugScope := imgNat r.bytes 7 1 } }.setMeas 3 (sha384 r.bytes)).ok m []

def execDebugUnlockChallenge (m : Nat) (s : State) : Out :=
  linsoRow m 0x72 (fun t => t.arg 8 1 == 0) (fun _ s => s.debugChallenge m) s

/-- A phase above 1 is judged with the tokens and answers BAD_ARG; it consumes no challenge. -/
def execDebugUnlockToken (m : Nat) (s : State) : Out :=
  linsoRow m 0x72 (fun t => t.arg 8 1 != 0) (fun t s => if 1 < t.arg 8 1 then s.badArg m 8 0 else s.debugToken m t) s

/-- CHALLENGE_EXPIRY: 60 s after issue (R579). -/
def execChallengeExpiry (s : State) : Out := .next { s with indus := { s.indus with challenge := none } }

end Sys2Proof.Machine
end

