-- ==== Sys2Proof/Machine/Pins.lean ====
section
/-! DEFINITION. The balls of the package (R619, R633 to R638) and what the output pins show (R32, R606, R621, R622, R624). -/

namespace Sys2Proof.Machine

/-! ### Signals and supplies -/

/-- Supply rails (rail table). -/
inductive Rail where
  | vddC0 | vddC1 | vddS0 | vddS1 | vddHub | vddCxl | vddPln | vddaPln | vddDdr | vddHbmC | vddHbmQ | vppHbm | vddIo
  deriving DecidableEq, Repr

/-- Slow signals, in the order of the management-ball table. -/
inductive SlowSignal where
  | tickIn | tickOut | sysRefclk | pwrOk | perst | thermalTrip | alert | fault | smbClk | smbDat | smbAlert | pairSense
  | feedId (bit : Nat) | mi3cScl | mi3cSda | uartTx | uartRx
  | vsenseC0P | vsenseC0N | vsenseC1P | vsenseC1N
  | tck | tms | tdi | tdo | trst | qspiClk | qspiCs | qspiIo (bit : Nat) | qspiRst
  deriving DecidableEq, Repr

/-- Signals of a DDR5 channel (DDR5 signal-order table); `b` tells subchannel B from A. -/
inductive DdrSignal where
  | dq (b : Bool) (n : Nat)
  | cb (b : Bool) (n : Nat)
  | dqsT (b : Bool) (n : Nat)
  | dqsC (b : Bool) (n : Nat)
  | ca (b : Bool) (n : Nat)
  | csN (b : Bool) (n : Nat)
  | ckT (b : Bool)
  | ckC (b : Bool)
  | par (b : Bool)
  | resetN | alertN
  deriving DecidableEq, Repr

/-- Signal balls; `p` tells the P ball of a pair from the N ball. -/
inductive BallSignal where
  | plnTx (port lane : Nat) (p : Bool)
  | plnRx (port lane : Nat) (p : Bool)
  | plnRefclk (p : Bool)
  | cxlTx (lane : Nat) (p : Bool)
  | cxlRx (lane : Nat) (p : Bool)
  | cxlRefclk (p : Bool)
  | ddr (channel : Nat) (x : DdrSignal)
  | dsbScl (bus : Nat)
  | dsbSda (bus : Nat)
  | slow (x : SlowSignal)
  deriving DecidableEq, Repr

/-- What a ball carries (R633). -/
inductive Ball where
  | signal (x : BallSignal)
  | supply (r : Rail)
  | reserved | vss
  deriving DecidableEq, Repr

/-- Groups of signal balls (signal-group table). -/
inductive SignalGroup where
  | ddr5 | cxl | pliund | tick | straps | resetAndPower | status | management | railSense | bootFlash | test | console
  deriving DecidableEq, Repr

/-- The group of a slow signal. -/
def SlowSignal.group : SlowSignal → SignalGroup
  | .tickIn | .tickOut => .tick
  | .feedId _ | .pairSense => .straps
  | .pwrOk | .perst | .sysRefclk => .resetAndPower
  | .thermalTrip | .alert | .fault | .smbAlert => .status
  | .smbClk | .smbDat | .mi3cScl | .mi3cSda => .management
  | .vsenseC0P | .vsenseC0N | .vsenseC1P | .vsenseC1N => .railSense
  | .qspiClk | .qspiCs | .qspiIo _ | .qspiRst => .bootFlash
  | .tck | .tms | .tdi | .tdo | .trst => .test
  | .uartTx | .uartRx => .console

/-- The group of a signal ball (R619). -/
def BallSignal.group : BallSignal → SignalGroup
  | .plnTx .. | .plnRx .. | .plnRefclk _ => .pliund
  | .cxlTx .. | .cxlRx .. | .cxlRefclk _ => .cxl
  | .ddr .. | .dsbScl _ | .dsbSda _ => .ddr5
  | .slow x => x.group

/-! ### The ball map (R634 to R638) -/

/-- Pliund balls (R634): columns 13 + 4p + l, one further from port 8 on. -/
def pliundBall (row col : Nat) : Option BallSignal :=
  let at_ := fun (k : Nat) => match row with
    | 2 => some (BallSignal.plnTx (k / 4) (k % 4) true)
    | 3 => some (.plnTx (k / 4) (k % 4) false)
    | 4 => some (.plnRx (k / 4) (k % 4) true)
    | 5 => some (.plnRx (k / 4) (k % 4) false)
    | _ => none
  if within 13 44 col then at_ (col - 13)
  else if within 46 77 col then at_ (col - 14)
  else none

/-- CXL balls (R635). -/
def cxlBall (row col : Nat) : Option BallSignal :=
  let at_ := fun (n : Nat) => match row with
    | 84 => some (BallSignal.cxlTx n true)
    | 85 => some (.cxlTx n false)
    | 87 => some (.cxlRx n true)
    | 88 => some (.cxlRx n false)
    | _ => none
  if within 37 44 col then at_ (col - 37)
  else if within 46 53 col then at_ (col - 38)
  else none

/-- The reference balls of both interfaces (R634, R635). -/
def refclkBall : Nat → Nat → Option BallSignal
  | 6, 44 => some (.plnRefclk true)
  | 6, 46 => some (.plnRefclk false)
  | 89, 44 => some (.cxlRefclk true)
  | 89, 46 => some (.cxlRefclk false)
  | _, _ => none

/-- Signal s of a subchannel (DDR5 signal-order table). -/
def subchannelSignal (b : Bool) (s : Nat) : DdrSignal :=
  if s < 32 then .dq b s
  else if s < 40 then .cb b (s - 32)
  else if s < 60 then if s % 2 = 0 then .dqsT b ((s - 40) / 2) else .dqsC b ((s - 41) / 2)
  else if s < 67 then .ca b (s - 60)
  else if s < 69 then .csN b (s - 67)
  else if s = 69 then .ckT b
  else if s = 70 then .ckC b
  else .par b

/-- Signal s, 0 to 145, of a channel. -/
def ddrSignal (s : Nat) : DdrSignal :=
  if s < 72 then subchannelSignal false s
  else if s < 144 then subchannelSignal true (s - 72)
  else if s = 144 then .resetN
  else .alertN

/-- DDR5 balls (R636): position i of a channel's region is VSS when i mod 10 is 9, and otherwise signal i − i div 10. -/
def ddrBall (row col : Nat) : Option BallSignal :=
  let at_ := fun (c i : Nat) => if i % 10 = 9 then none else some (BallSignal.ddr c (ddrSignal (i - i / 10)))
  if !within 8 79 row then none
  else if within 1 9 col then at_ ((row - 8) / 18) ((row - 8) % 18 * 9 + (col - 1))
  else if within 81 89 col then at_ (4 + (row - 8) / 18) ((row - 8) % 18 * 9 + (89 - col))
  else none

/-- The DIMM sideband buses (R636). -/
def sidebandBall : Nat → Nat → Option BallSignal
  | 81, 1 => some (.dsbScl 0)
  | 81, 2 => some (.dsbSda 0)
  | 81, 89 => some (.dsbScl 1)
  | 81, 88 => some (.dsbSda 1)
  | _, _ => none

/-- Columns 39 to 51 of rows 80 to 82 (management-ball table); none is VSS. -/
def slowRow : Nat → List (Option SlowSignal)
  | 80 => [some .tickIn, some .tickOut, none, some .sysRefclk, some .pwrOk, some .perst, some .thermalTrip, some .alert, some .fault,
      some .smbClk, some .smbDat, some .smbAlert, some .pairSense]
  | 81 => [some (.feedId 3), some (.feedId 2), some (.feedId 1), some (.feedId 0), some .mi3cScl, some .mi3cSda, none, some .uartTx,
      some .uartRx, some .vsenseC0P, some .vsenseC0N, some .vsenseC1P, some .vsenseC1N]
  | 82 => [some .tck, some .tms, some .tdi, some .tdo, some .trst, some .qspiClk, some .qspiCs, some (.qspiIo 0), some (.qspiIo 1),
      some (.qspiIo 2), some (.qspiIo 3), some .qspiRst, none]
  | _ => []

/-- The slow signals (R637). -/
def slowBall (row col : Nat) : Option BallSignal := if col < 39 then none else ((slowRow row).getD (col - 39) none).map .slow

/-- The supply of a position (R638). -/
def supplyBall (row col : Nat) : Option Rail :=
  if within 12 76 row && within 12 36 col && (row + col) % 3 != 0 then some .vddC0
  else if within 12 76 row && within 54 78 col && (row + col) % 3 != 0 then some .vddC1
  else if within 12 76 row && within 10 11 col then some .vddS0
  else if within 12 76 row && within 79 80 col then some .vddS1
  else if within 30 45 row && within 44 46 col then some .vddHub
  else if within 8 9 row && (within 12 36 col || within 54 78 col) then some .vddHbmC
  else if within 78 79 row && (within 12 36 col || within 54 78 col) then some .vddHbmQ
  else if row == 10 && (within 12 19 col || within 54 61 col) then some .vppHbm
  else if row == 7 && within 13 52 col then some .vddPln
  else if row == 7 && within 53 64 col then some .vddaPln
  else if row == 80 && (within 3 10 col || within 80 87 col) then some .vddDdr
  else if row == 83 && within 40 49 col then some .vddCxl
  else if row == 83 && (within 36 38 col || within 50 52 col) then some .vddIo
  else none

/-- The signal of a position, if it has one. -/
def signalBall (row col : Nat) : Option BallSignal :=
  ((((pliundBall row col).or (cxlBall row col)).or (refclkBall row col)).or (ddrBall row col)).or
    ((sidebandBall row col).or (slowBall row col))

/-- The ball at a row and a column, 1 to 89 each; a position that no rule names is VSS (R633). -/
def ballAt (row col : Nat) : Ball :=
  match signalBall row col, supplyBall row col with
  | some x, _ => .signal x
  | none, some r => .supply r
  | none, none => if row == 89 && (within 1 20 col || within 70 89 col) then .reserved else .vss

/-! ### Output pins -/

/-- What an output pin does; an open-drain output is low or released. -/
inductive Drive where
  | low | high | released
  deriving DecidableEq, Repr

/-- An open-drain output that is asserted, or not. -/
def openDrain (asserted : Bool) : Drive := if asserted then .low else .released

/-- THERMAL_TRIP# is driven by the comparators whatever PWR_OK holds (R606, R621). -/
def State.pinThermalTrip (s : State) : Drive := openDrain s.pkg.thermalTrip

/-- ALERT#, FAULT# and SMB_ALERT# are released while PWR_OK is low; SMB_ALERT# is asserted with either of the others (R621). -/
def State.pinAlert (s : State) : Drive := openDrain (s.pkg.pwrOk && s.alert)
def State.pinFault (s : State) : Drive := openDrain (s.pkg.pwrOk && s.pkg.faultPin)
def State.pinSmbAlert (s : State) : Drive := openDrain (s.pkg.pwrOk && (s.alert || s.pkg.faultPin))

/-- TICK_OUT between its pulses, and UART_TX when nothing is sent (R622, R632): high-impedance while PWR_OK is low. -/
def State.pinTickOut (s : State) : Drive := if s.pkg.tickOutDriven then .low else .released
def State.pinUartTx (s : State) : Drive := if s.pkg.uartHigh then .high else .released

end Sys2Proof.Machine
end

