-- ==== Sys2Proof/Machine/Port.lean ====
section
/-! DEFINITION. The test access port and the console (R622, R630 to R632). -/

namespace Sys2Proof.Machine

/-- Whether the port works: the package has power. -/
def portRow (run : State → State) (s : State) : Out := .next (if s.pkg.pwrOk then run s else s)

/-- Load an instruction that takes hold of no pins. -/
def State.loadIr (s : State) (i : JtagIr) : State := { s with test := { s.test with ir := i, holdsPins := false } }

/-- One bit through the bypass register. -/
def execBypass (tdi : Bool) (s : State) : Out :=
  portRow (fun s => let s := s.loadIr .bypass
    { s with test := { s.test with tdo := [s.test.bypassBit], bypassBit := tdi } }) s

/-- IDCODE (R630). -/
def idcodeValue : Nat := bitsOf Config.rev.toNat 8 4 * 2 ^ 28 + 0x9608 * 2 ^ 12 + 0x2B5 * 2 + 1

def execIdcode (s : State) : Out :=
  portRow (fun s => let s := s.loadIr .idcode
    { s with test := { s.test with tdo := (List.range 32).map fun i => idcodeValue.testBit i } }) s

/-- SAMPLE/PRELOAD: the boundary cells are loaded; what the pins show is free. -/
def execSamplePreload (cells : List Bool) (s : State) : Out :=
  portRow (fun s => let s := s.loadIr .samplePreload
    { s with
      freeCtr := s.freeCtr + cells.length
      test := { s.test with cells := cells, tdo := (List.range cells.length).map fun i => Config.freeBool (s.freeCtr + i) } }) s

/-- An instruction that takes hold of the pins, only while PERST# holds the package in warm reset; otherwise it is loaded and
acts as BYPASS (R631). -/
def State.loadHolding (s : State) (i : JtagIr) : State :=
  { s with test := { s.test with ir := i, holdsPins := s.pkg.perst && s.pkg.inWarmReset } }

def execExtest (s : State) : Out := portRow (fun s => s.loadHolding .extest) s
def execExtestPulse (s : State) : Out := portRow (fun s => s.loadHolding .extestPulse) s
def execExtestTrain (s : State) : Out := portRow (fun s => s.loadHolding .extestTrain) s
def execClamp (s : State) : Out := portRow (fun s => s.loadHolding .clamp) s
def execHighz (s : State) : Out := portRow (fun s => s.loadHolding .highz) s

/-- TRST# resets the port and leaves an unlock in force (R630). -/
def execTrstAssert (s : State) : Out :=
  portRow (fun s => { s with test := { s.test with ir := .idcode, holdsPins := false, bypassBit := false, tdo := [] } }) s

/-- UART_RX is ignored unless scope bit 2 of an accepted token is in force (R632). -/
def execUartRxInput (b : Byte) (s : State) : Out :=
  portRow (fun s => if s.indus.debugScope.testBit 2 then { s with test := { s.test with rx := s.test.rx ++ [b] } } else s) s

end Sys2Proof.Machine
end

