-- ==== Sys2Proof/Machine/Check.lean ====
section
/-! DEFINITION. What PLAN_VERIFY checks of one descriptor in its frame program (R51, R81, R94, R108, R135 to R152, R218, R251,
R267, R275, R317, R322, R328, R366, R378 to R390, R505), and of the records that descriptors name. -/

namespace Sys2Proof.Machine

/-- A failing check (R395): section type, byte offset within the section, check class. -/
structure Fail where
  sect : Nat
  off : Nat
  cls : Nat
  deriving DecidableEq, Repr

/-- A descriptor of a frame program: its offset in section 0x01, its 512 bits and its program tag. -/
structure Dsc where
  off : Nat
  raw : Nat
  tag : Nat
  deriving DecidableEq, Repr

/-- A frame program: its index entry and its descriptors. -/
structure Prog where
  e : IndexEntry
  ds : List Dsc
  deriving DecidableEq, Repr

def Dsc.kind (d : Dsc) : Nat := dscKind d.raw
def Dsc.seq (d : Dsc) : SeqSel := if tagRoute d.tag = 1 then .execute else .fetch

/-- Keep a class when its check fails. -/
def when (b : Bool) (c : Nat) : List Nat := if b then [c] else []

/-- The stream entry bound to a package stream ID. -/
def Plan.entryOf (pl : Plan) (id : Nat) : Option (BitVec 256) := (pl.streams.find? fun e => e.2 == id).map (·.1)

/-- The end of a ring that a frond's sequencer holds. -/
def holdsProducer (e : BitVec 256) (f : Nat) (q : SeqSel) : Bool :=
  strProducerFrond e == f && (strProducerSeq e == 1) == (q == .execute)
def holdsConsumer (e : BitVec 256) (f : Nat) (q : SeqSel) : Bool :=
  strConsumerFrond e == f && (strConsumerSeq e == 1) == (q == .execute)

/-! ### Fields -/

/-- Address fields of each kind's body: lowest bit, width and alignment. -/
def addressFields : Nat → List (Nat × Nat × Nat)
  | 0x02 => [(0, 48, 64), (64, 22, 64)]
  | 0x03 => [(0, 22, 64), (22, 20, 64), (64, 22, 64), (128, 22, 64), (160, 22, 64)]
  | 0x10 => [(0, 22, 256), (22, 22, 256), (128, 22, 128), (150, 22, 128)]
  | 0x11 => [(0, 22, 64)]
  | 0x12 => [(0, 22, 64), (64, 22, 256), (86, 20, 64), (128, 22, 64), (150, 22, 64)]
  | 0x13 => [(0, 22, 64), (64, 22, 64), (86, 22, 64), (108, 20, 64), (160, 20, 64), (192, 22, 64)]
  | 0x21 => [(64, 48, 64), (128, 48, 64), (192, 48, 32), (256, 48, 64), (320, 48, 64)]
  | 0x32 => [(64, 48, 64)]
  | 0x40 | 0x41 => [(128, 48, 64)]
  | 0x42 => [(64, 48, 64)]
  | 0x50 => [(0, 22, 64), (128, 22, 32)]
  | 0x51 => [(0, 22, 64), (128, 22, 32), (150, 22, 64), (192, 22, 64)]
  | _ => []

/-- Whether an address field of a descriptor is misaligned. -/
def misalignedField (d : Nat) : Bool := (addressFields (dscKind d)).any fun a => dscBody d a.1 a.2.1 % a.2.2 != 0

/-- The descriptor with its address fields rounded down, to judge its other fields. -/
def roundedFields (d : Nat) : Nat :=
  (addressFields (dscKind d)).foldl (fun v a => setBits v (64 + a.1) a.2.1 (dscBody d a.1 a.2.1 / a.2.2 * a.2.2)) d

/-- Whether a body's fields lie in their field map (WellFormed.lean). -/
def bodyOk (d : Nat) : Bool :=
  match dscKind d with
  | 0x01 => (moveOf d).wf && decide ((moveOf d).srcFmt ≤ 10) && decide ((moveOf d).dstFmt ≤ 10)
  | 0x02 => (multicastOf d).wf
  | 0x03 => (gatherOf d).wf
  | 0x10 => (denseOf d).wf
  | 0x11 => (sparseOf d).wf
  | 0x12 => (sampledOf d).wf
  | 0x13 => (drainOf d).wf
  | 0x20 => (vecOf d).wf
  | 0x21 => (updateOf d).wf
  | 0x30 => (semWaitOf d).wf
  | 0x31 => (semSignalOf d).wf
  | 0x32 => (ticketOf d).wf
  | 0x40 => (pruneOf d).wf
  | 0x41 => (regrowOf d).wf
  | 0x42 => (commitOf d).wf
  | 0x50 => (sendOf d).wf
  | 0x51 => (recvOf d).wf
  | _ => true

/-- Whether a numeric control byte holds a rejected sr_bits (R81). -/
def badSrBits (n : Nat) : Bool := (decide (1 ≤ n % 32) && decide (n % 32 ≤ 3)) || decide (17 ≤ n % 32)

/-- Kinds a shape may skip (R390). -/
def mayGuard (k : Nat) : Bool := [0x01, 0x02, 0x03, 0x10, 0x11, 0x12, 0x13, 0x20].contains k

/-- Checks of a program tag (R378, R390). -/
def tagOk (pl : Plan) (d : Dsc) : Bool :=
  let c := tagClass d.tag
  (match kindExecute d.kind with
   | some b => b == (d.seq == .execute)
   | none => true)
    && decide (tagDim d.tag < 4)
    && (c == 15 || (decide (c < 8) && mayGuard d.kind && pl.shapeKind c != 0 && decide (tagDim d.tag < pl.shapeDims c)))

/-- A positive normal binary32 value. -/
def positiveNormal (w : Nat) : Bool := decide (2 ^ 23 ≤ w ∧ w < 0x7F800000)

/-! ### Spans of the frond buffer -/

/-- Whether a span ends beyond the frond buffer. -/
def beyond (a n : Nat) : Bool := decide (frondBytes < a + n)

/-- Two spans that share a byte. -/
def spans (a n b m : Nat) : Bool := decide (n ≠ 0 ∧ m ≠ 0 ∧ a < b + m ∧ b < a + n)

/-! ### The array and the drain -/

/-- Operand pairs of the operand-pair table, with the accumulation mode and passes (R94, R108). -/
def densePairOk (b : DenseBody) : Bool :=
  let short := isShort b.fmtA
  let pair := (b.fmtA == b.fmtB && (b.fmtA == 0 || b.fmtA == 1 || decide (5 ≤ b.fmtA)))
    || (within 2 4 b.fmtA && within 2 4 b.fmtB)
  pair && (b.accMode != 2 || (!short && b.fmtA != 8)) && (b.passes == 0 || b.fmtA == 8)

/-- Accumulator rows a tile writes: bank, first row, rows, split and mode; a lane-mode tile writes them all. -/
def tileRows (d : Dsc) : Option (Nat × Nat × Nat × Nat × Nat) :=
  if d.kind = 0x10 then
    let b := denseOf d.raw
    some (b.bank, subRows b.split * b.sub, subRows b.split, b.split, b.accMode)
  else if d.kind = 0x11 then let b := sparseOf d.raw; some (b.bank, 0, 128, 0, b.accMode)
  else none

/-- The tile that last wrote a row of a bank, earlier in the program (latest first). -/
def lastTile (before : List Dsc) (bank row : Nat) : Option (Nat × Nat) :=
  before.findSome? fun d => match tileRows d with
    | some (b, r, n, sp, m) => if b = bank ∧ r ≤ row ∧ row < r + n then some (sp, m) else none
    | none => none

/-- Whether a tile that accumulates does so onto rows last written under its split and mode (R135, R143). The previous tile is
sought in the frame program; rows that no earlier tile of the program wrote keep what a frame before left, whose tile
PLAN_VERIFY does not seek (DEDUCED, log entry 126). -/
def accumulateOk (before : List Dsc) (d : Dsc) : Bool :=
  let acc := if d.kind = 0x10 then (denseOf d.raw).accumulate else (sparseOf d.raw).accumulate
  match tileRows d with
  | some (bank, r, n, sp, m) =>
    !acc || (rangeFrom r n).all fun row => match lastTile before bank row with
      | some (sp', m') => sp == sp' && m == m'
      | none => true
  | none => true

/-- DENSE_TILE (R94, R108, R135, R136, R143). -/
def denseFails (before : List Dsc) (d : Dsc) : List Nat :=
  let b := denseOf d.raw
  when (!densePairOk b) 2
    ++ when (beyond b.aAddr (panelBytes b) || beyond b.bAddr (panelBytes b)
        || (isShort b.fmtA && (beyond b.aScaleAddr (128 * b.kBlocks) || beyond b.bScaleAddr (128 * b.kBlocks)))) 3
    ++ when (!accumulateOk before d) 4

/-- The tiles whose sums a row of a bank holds, the latest first: back to the first that replaced it (R144). -/
def tilesOf (bank row : Nat) : List Dsc → List Dsc
  | [] => []
  | d :: r => match tileRows d with
    | some (b, r0, n, _, _) =>
      if b = bank ∧ r0 ≤ row ∧ row < r0 + n then
        d :: (if (if d.kind = 0x10 then (denseOf d.raw).accumulate else (sparseOf d.raw).accumulate) then tilesOf bank row r else [])
      else tilesOf bank row r
    | none => tilesOf bank row r

/-- Whether a tile is i4 × i4 or i8 × i8. -/
def intTile (d : Dsc) : Bool :=
  let a := if d.kind = 0x10 then (denseOf d.raw).fmtA else (sparseOf d.raw).fmtW
  let b := if d.kind = 0x10 then (denseOf d.raw).fmtB else (sparseOf d.raw).fmtAct
  a == b && (a == 1 || a == 5)

/-- DRAIN (R145, R149, R152). -/
def drainFails (before : List Dsc) (d : Dsc) : List Nat :=
  let b := drainOf d.raw
  let short := isShort b.outFmt
  when (!positiveNormal b.outScale.toNat || (b.maskGate && short) || (!b.maskGate && b.maskAddr != 0)
      || (b.epiOp == 0 && (b.epiAddr != 0 || b.epiStride != 0)) || (!short && b.outScaleAddr != 0)) 2
    ++ when (decide (b.outStride < rowBytes b.outFmt b.colsValid)
        || (b.epiOp != 0 && decide (b.epiStride < rowBytes b.epiFmt b.colsValid))
        || beyond (b.outAddr + (b.rowsValid - 1) * b.outStride) (rowBytes b.outFmt b.colsValid)
        || (b.epiOp != 0 && beyond (b.epiAddr + (b.rowsValid - 1) * b.epiStride) (rowBytes b.epiFmt b.colsValid))
        || (b.maskGate && beyond b.maskAddr (16 * b.rowsValid)) || (short && beyond b.outScaleAddr (4 * b.rowsValid))) 3
    ++ when (b.outFmt == 10 && (List.range b.rowsValid).any fun r =>
        (tilesOf b.bank (subRows b.split * b.sub + r) before).any fun t => !intTile t) 4

/-! ### The Rhizoid (R218) -/

/-- Whether a panel has been filled by an earlier GATHER of the program. -/
def gathered (before : List Dsc) (panel : Nat) : Bool :=
  before.any fun d => d.kind == 0x03 && (gatherOf d.raw).panel == panel

/-- GATHER: its rows as far as the descriptor fixes them (a list's rows stand in memory), its scales and its list (R216). -/
def gatherFails (d : Dsc) : List Nat :=
  let b := gatherOf d.raw
  let lists := b.map == 1 || b.map == 3
  when (lists && b.listLen == 0) 2
    ++ when (beyond (b.srcAddr + ((if b.map = 1 then 1 else if b.map = 3 then b.listLen else b.rows) - 1) * b.srcStride) (rowBytes b.fmt b.cols)
        || (isShort b.fmt && beyond b.scaleAddr (if b.scaleKind then 4 * b.rows else 2048))
        || (lists && beyond b.listAddr (2 * b.listLen))
        || ((b.swzUse || b.map == 2) && beyond b.swzTileAddr 64)) 3

/-- SPARSE_TILE. -/
def sparseFails (before : List Dsc) (d : Dsc) : List Nat :=
  let b := sparseOf d.raw
  when (!lanePair b.fmtW b.fmtAct) 2 ++ when (beyond b.tileAddr 64) 3
    ++ when (!gathered before b.panel || !accumulateOk before d) 4

/-- SAMPLED_TILE. -/
def sampledFails (before : List Dsc) (d : Dsc) : List Nat :=
  let b := sampledOf d.raw
  when (!lanePair b.fmtStat b.fmtSrv) 2 ++ when (beyond b.tileAddr 64 || beyond b.statAddr (rowBytes b.fmtStat b.colsValid)) 3
    ++ when (!gathered before b.panel) 4

/-! ### Semaphores, tickets and ticks -/

/-- SEM_WAIT and SEM_SIGNAL (R317, R377). -/
def semFails (x : Partition) (pl : Plan) (programs : List Nat) (f : Nat) (d : Dsc) : List Nat :=
  let wait := d.kind == 0x30
  let target := dscBody d.raw 0 2
  let count := dscBody d.raw 16 16
  let id := dscStream d.raw
  if target = 2 then
    when (id != 0xFFFF) 2 ++ when (!wait && !x.fronds.getLsbD (semSignalOf d.raw).destFrond) 3
  else match pl.entryOf id with
    | none => [2]
    | some e =>
      let consumer := wait == (target == 0)
      when (strKind e == 1 || programs.contains id
          || !(if consumer then holdsConsumer e f d.seq else holdsProducer e f d.seq)) 2
        ++ when (decide (strDepth e < count)) 4

/-- TICKET (R323, R328). -/
def State.ticketFails (s : State) (p : Nat) (pl : Plan) (d : Dsc) (after : List Dsc) : List Nat :=
  let b := ticketOf d.raw
  let body := after.take b.bodyCount
  let fetches := after.zipIdx.filter fun e => e.1.seq == .fetch && dscEnd e.1.raw
  let last := ((fetches.head?).map (·.2)).getD 0
  when (dscEnd d.raw || decide (last < b.bodyCount - 1) || decide (body.length < b.bodyCount)
      || body.any fun e => e.kind == 0x30 || e.kind == 0x32 || e.kind == 0x33) 4
    ++ when (decide (0x4000_0000 < b.counterAddr + 64) || !s.granted p b.counterAddr 64) 3
    ++ match pl.entryOf (dscStream d.raw) with
      | none => [3]
      | some e =>
        let limit := s.peekNat (some p) (b.counterAddr + 4) 4
        when (strKind e == 0) 3 ++ when (decide (limit = 0) || decide (1048576 < limit) || decide (strDepth e < limit)) 4

/-! ### Multicast -/

/-- MULTICAST (R322). -/
def State.multicastFails (s : State) (p : Nat) (pl : Plan) (f : Nat) (d : Dsc) : List Nat :=
  let b := multicastOf d.raw
  let id := dscStream d.raw
  let ds := destsOf b.destMask
  let es := ds.zipIdx.map fun e => (e.1, pl.entryOf (id + e.2))
  when (if b.streamed then es.any fun e => match e.2 with
      | none => true
      | some x => strKind x == 1 || !strRingInFrond x || strRingFrond x != e.1 || !holdsProducer x f .fetch
      else id != 0xFFFF) 2
    ++ when ((ds.any fun y => !(s.part p).fronds.getLsbD y) || decide (0x4000_0000 < b.srcAddr + b.length)
        || !s.granted p b.srcAddr b.length
        || (if b.streamed then es.any fun e => match e.2 with
            | none => false
            | some x => decide (64 * strUnits x < b.dstAddr + b.length)
            else beyond b.dstAddr b.length)) 3

/-! ### Masks and updates -/

/-- Tiles of a range beyond the tensor, and per_row or FACT ranges that do not cover whole tile rows (R251, R267). -/
def rangeBeyond (pol : BitVec 512) (first n : Nat) : Bool := decide (polTiles pol < first + n) || n == 0
def wholeRows (pol : BitVec 512) (first n : Nat) : Bool := first % polCols pol == 0 && n % polCols pol == 0

/-- Policy, first tile and tile count of a mask descriptor or a masked UPDATE. -/
def maskRange (d : Dsc) : Option (Nat × Nat × Nat) :=
  if d.kind = 0x40 ∨ d.kind = 0x41 ∨ d.kind = 0x42 ∨ (d.kind = 0x21 ∧ (updateOf d.raw).dense = false) then
    some (dscBody d.raw 0 8, dscBody d.raw 8 20, dscBody d.raw 28 20)
  else none

/-- Mask descriptors (R251); fields and alignment are judged with the body. -/
def maskFails (pl : Plan) (d : Dsc) : List Nat :=
  match maskRange d with
  | none => []
  | some (i, first, n) => match pl.policies[i]? with
    | none => [3]
    | some pol =>
      let perRow := (d.kind == 0x40 && (pruneOf d.raw).perRow) || (d.kind == 0x41 && (regrowOf d.raw).perRow)
      when (rangeBeyond pol first n) 3 ++ when (perRow && !wholeRows pol first n) 4

/-- The initial shard record that a target address names. -/
def Plan.shardOf (pl : Plan) (a : Nat) : Option Nat :=
  (((updateRecords (sectOf pl.image 9)).drop 1).find? fun u => u.1 == a).map fun u => leNat u.2

/-- State arrays of a rule (rule table). -/
def ruleStates : Nat → List Nat
  | 0 => [0, 1]
  | 1 => [2]
  | 2 => [1]
  | 3 => [1]
  | _ => []

/-- UPDATE (R260 for the policy's n_state, R267, R274, R275). -/
def updateFails (pl : Plan) (d : Dsc) : List Nat :=
  let b := updateOf d.raw
  let denseFields := b.freezePresent || b.copyFmt != 0 || b.denseCols != 0 || b.count != 0 || b.regionAddr != 0
  let maskedFields := b.policy != 0 || b.firstTile != 0 || b.tileCount != 0
  let shape := when ((if b.dense then maskedFields || b.rescale else denseFields) || (b.phase == 0 && b.sumAddr != 0)) 2
  if b.dense && b.count == 0 then shape ++ when (b.shardAddr != 0) 3
  else match pl.shardOf b.shardAddr with
    | none => shape ++ [3]
    | some r =>
      let rule := bitsOf r 384 4
      shape ++ when ((b.phase == 0) == (rule == 0)) 2
        ++ (if b.dense then when (if rule = 0 then b.denseCols == 0 || b.count % b.denseCols != 0 else b.denseCols != 0) 2
            else match pl.policies[b.policy]? with
              | none => [3]
              | some pol =>
                when ((b.rescale && decide (6 ≤ polFmt pol)) || !(ruleStates rule).contains (polStates pol)) 2
                  ++ when (rangeBeyond pol b.firstTile b.tileCount) 3
                  ++ when (rule == 0 && !wholeRows pol b.firstTile b.tileCount) 4)

/-! ### Collectives (R505) -/

def sendFails (d : Dsc) : List Nat :=
  let b := sendOf d.raw
  when (dscStream d.raw != 0xFFFF) 2 ++ when (beyond b.srcAddr b.length || (b.withHealth && beyond b.healthAddr 32)) 3

/-- Bytes of the result of a REDUCE_RECV. -/
def recvOutBytes (b : RecvBody) : Nat := b.length / (if b.fmt = 8 then 4 else 8) * codeBits b.outFmt / 8

def recvFails (d : Dsc) : List Nat :=
  let b := recvOf d.raw
  when (dscStream d.raw != 0xFFFF) 2
    ++ when (beyond b.dstAddr b.length || (b.withHealth && beyond b.healthAddr 32)
        || (b.op == 1 && (beyond b.localAddr b.length || beyond b.outAddr (recvOutBytes b)
            || spans b.localAddr b.length b.dstAddr b.length || spans b.dstAddr b.length b.outAddr (recvOutBytes b)
            || (b.outAddr != b.localAddr && spans b.localAddr b.length b.outAddr (recvOutBytes b))))) 3

/-! ### Copies (R366) -/

/-- Shape record of a MOVE and its reserved bits, permutation and extents. -/
def shapeRecordOk (r : BitVec 512) : Bool :=
  field r 432 80 == 0 && field r 351 1 == 0 && ((List.range 5).all fun i => (copyShape r).perm.contains i)
    && (copyShape r).n.all (· != 0)

/-- Whether two runs, or panels, of a destination share a byte. -/
def runsOverlap (h : CopyShape) (dst : CopySide) (b : MoveBody) : Bool :=
  let rs := if dst.layout = 1 then
      (List.range (panelCount h)).map fun k => (dst.panelAddr h k, (skewSteps dst.fmt b.passes b.slot4 (h.m 0) + 127) * skewLine b.slot4)
    else (List.range (runCount h.m)).map fun k => (dst.runAddr h.t (runIndex h.m k), dst.runBytes (h.m 0))
  rs.zipIdx.any fun x => (rs.take x.2).any fun y => spans x.1.1 x.1.2 y.1 y.2

/-- A side as PLAN_VERIFY knows it: a stream-relative side lies at its offset in an item. -/
def Plan.sideOf (pl : Plan) (id addr frond : Nat) (space rel : Bool) (layout swz fmt : Nat) : Option CopySide :=
  if rel then (pl.entryOf id).map fun e =>
    { buf := if strRingInFrond e then some (strRingFrond e) else none, base := addr, swz := swz, layout := layout, fmt := fmt
      item := some (0, 64 * strUnits e) }
  else some { buf := if space then some frond else none, base := addr, swz := swz, layout := layout, fmt := fmt, item := none }

/-- Whether an address is one of a mask window. -/
def inWindow (a : Nat) : Bool := decide (0x1000_0000_0000 ≤ a)

/-- Codes, layouts, formats and shapes of a MOVE that are rejected as fields. -/
def moveFieldFail (h : CopyShape) (b : MoveBody) (src dst : CopySide) : Bool :=
  let encodes := isShort b.dstFmt && b.srcFmt != b.dstFmt
  let planes := fun (layout fmt : Nat) => layout == 2 && !decide (fmt ≤ 2)
  let swzOut := fun (x : CopySide) (rel : Bool) => x.swz != 0 && x.buf.isNone && !rel && decide (0x4000_0000 ≤ x.base)
  planes b.srcLayout b.srcFmt || planes b.dstLayout b.dstFmt
    || (h.transposing && (codeBits b.srcFmt == 64 || codeBits b.dstFmt == 64 || b.dstLayout == 2))
    || (b.dstLayout == 1 && (decide (9 ≤ b.dstFmt) || encodes || decide (128 < h.m 1) || h.t.getD 1 0 != 0))
    || (b.slot4 && b.dstFmt != 6 && b.dstFmt != 7)
    || ((b.passes != 0 || b.pieceRole) && !(b.dstLayout == 1 && b.dstFmt == 8))
    || (h.padded && (b.dstLayout != 0 || dst.buf.isNone || encodes))
    || swzOut src b.srcRel || swzOut dst b.dstRel || (b.srcRel && b.dstRel)

/-- Whether a relative side's stream has an end in the issuing fetch sequencer; inside a ticket body, the ticketed array's. -/
def relEnd (pl : Plan) (f id : Nat) (ticketed : Bool) : Bool :=
  match pl.entryOf id with
  | some e => if strKind e = 1 then ticketed else holdsProducer e f .fetch || holdsConsumer e f .fetch
  | none => false

/-- MOVE (R333, R334, R355, R358, R361, R366); what depends on addresses is judged where they are known. -/
def State.moveFails (s : State) (p : Nat) (pl : Plan) (f : Nat) (ticketed : Bool) (d : Dsc) : List Nat :=
  let b := moveOf d.raw
  let id := dscStream d.raw
  let h := copyShape (sget (fun _ => (0 : BitVec 512)) s.shapeTab (256 * f + b.shape))
  match pl.sideOf id b.srcAddr b.srcFrond b.srcSpace b.srcRel b.srcLayout b.srcSwz b.srcFmt,
        pl.sideOf id b.dstAddr b.dstFrond b.dstSpace b.dstRel b.dstLayout b.dstSwz b.dstFmt with
  | some src, some dst =>
    let relBad := (b.srcRel || b.dstRel) && (!relEnd pl f id ticketed
      || (b.srcRel && (b.srcSpace || b.srcFrond != 0)) || (b.dstRel && (b.dstSpace || b.dstFrond != 0)))
    let known := !b.srcRel && !b.dstRel && !(src.buf.isNone && inWindow b.srcAddr) && !(dst.buf.isNone && inWindow b.dstAddr)
    let flat := fun (x : CopySide) => if x.item.isSome then { x with layout := if x.layout = 1 then 0 else x.layout } else x
    when (moveFieldFail h b src dst || relBad) 2
      ++ when ((match src.buf with | some y => y != f | none => false)
          || (match dst.buf with | some y => !(s.part p).fronds.getLsbD y | none => false)
          || runsOverlap h dst b
          || (sideMisaligned b.unaligned (flat src) h.s h.ext b.srcScaleAddr).isSome
          || (sideMisaligned b.unaligned (flat dst) h.t h.m b.dstScaleAddr).isSome
          || (sideBound src (src.srcBytes h)).isSome || (sideBound dst (dst.dstBytes h b)).isSome
          || (scaleBound src (src.scaleSrc b h)).isSome || (scaleBound dst (dst.scaleDst b h)).isSome
          || (known && (s.moveOverlap p b h src dst).isSome)) 3
  | _, _ => [2]

/-! ### One descriptor -/

/-- Whether a descriptor lies in the body of an earlier TICKET of its program on the stream it names. -/
def inTicketBody (before : List Dsc) (id : Nat) : Bool :=
  before.zipIdx.any fun e => e.1.kind == 0x32 && decide (e.2 < (ticketOf e.1.raw).bodyCount) && dscStream e.1.raw == id

/-- What else its kind asks of a descriptor; `before` holds the earlier descriptors of its program, latest first. -/
def State.kindFails (s : State) (p : Nat) (pl : Plan) (programs : List Nat) (f : Nat) (before after : List Dsc) (d : Dsc) : List Nat :=
  match d.kind with
  | 0x01 => s.moveFails p pl f (inTicketBody before (dscStream d.raw)) d
  | 0x02 => s.multicastFails p pl f d
  | 0x03 => gatherFails d
  | 0x10 => denseFails before d
  | 0x11 => sparseFails before d
  | 0x12 => sampledFails before d
  | 0x13 => drainFails before d
  | 0x20 => when (!pl.kernels.any fun k => k.1 == f && k.2.contains (vecOf d.raw).entry) 3
  | 0x21 => updateFails pl d
  | 0x30 | 0x31 => semFails (s.part p) pl programs f d
  | 0x32 => s.ticketFails p pl d after
  | 0x33 => when (tickWaitOf d.raw == 0 || decide (pl.frameTicks ≤ tickWaitOf d.raw)) 2
  | 0x40 | 0x41 | 0x42 => maskFails pl d
  | 0x50 => sendFails d
  | 0x51 => recvFails d
  | _ => []

/-- Every check of one descriptor (R51, R81, R378, R390 and its kind's). -/
def State.dscFails (s : State) (p : Nat) (pl : Plan) (programs : List Nat) (f : Nat) (before after : List Dsc) (d : Dsc) : List Fail :=
  if kindLength d.kind != some (dscLength d.raw) then [⟨1, d.off, 2⟩]
  else
    (if tagOk pl d then [] else [⟨2, d.off / 16, 2⟩])
      ++ (when (!reservedClear d.raw || !bodyOk (roundedFields d.raw)
            || (match numctlOf d.raw with | some n => badSrBits n | none => false)) 2
          ++ when (misalignedField d.raw || (dscStream d.raw != 0xFFFF && (pl.entryOf (dscStream d.raw)).isNone)) 3
          ++ (match before with
              | q :: _ => when (dscSequence d.raw != (dscSequence q.raw + 1) % 65536) 4
              | [] => [])
          ++ s.kindFails p pl programs f before after d).map fun c => ⟨1, d.off, c⟩

/-- The descriptors of a program, each with those before it (latest first) and after it. -/
def walk (before : List Dsc) : List Dsc → List (List Dsc × Dsc × List Dsc)
  | [] => []
  | d :: r => (before, d, r) :: walk (d :: before) r

/-- R380: each sequencer that a program feeds has one frame_end descriptor, its last. -/
def endFails (ds : List Dsc) : List Fail :=
  [SeqSel.fetch, .execute].flatMap fun q =>
    let l := ds.filter fun d => d.seq == q
    match l.getLast? with
    | none => []
    | some z => if dscEnd z.raw && (l.dropLast.all fun d => !dscEnd d.raw) then [] else [⟨1, z.off, 4⟩]

/-- Every check of one frame program, and of the shape records its MOVEs name. -/
def State.progFails (s : State) (p : Nat) (pl : Plan) (programs : List Nat) (g : Prog) : List Fail :=
  let f := g.e.frond
  ((walk [] g.ds).flatMap fun w => s.dscFails p pl programs f w.1 w.2.2 w.2.1) ++ endFails g.ds

/-- The copy-shape records of a plan that has them (R336, R366): every record of every frond's table. -/
def State.shapeTableFails (s : State) (pl : Plan) : List Fail :=
  if (sectOf pl.image 0x0A).isEmpty then []
  else (frondsOf pl.fronds).zipIdx.flatMap fun fi => (List.range 256).filterMap fun r =>
    if shapeRecordOk (sget (fun _ => (0 : BitVec 512)) s.shapeTab (256 * fi.1 + r)) then none else some ⟨0x0A, 16384 * fi.2 + 64 * r, 2⟩

end Sys2Proof.Machine
end

