-- ==== Sys2Proof/Machine/Orders.lean ====
section
/-! DEFINITION. What PLAN_VERIFY checks of a frame, and of the plan, across its programs (R230, R235, R251, R258, R267, R275,
R315, R505), and the orderings that R648 accepts. -/

namespace Sys2Proof.Machine

/-- A descriptor among the programs of a frame: its frond, its place in the program, and itself. -/
structure Node where
  frond : Nat
  ix : Nat
  d : Dsc
  deriving DecidableEq, Repr

/-- Descriptors of a frame of a program set. -/
def nodesOf (ps : List Prog) (set frame : Nat) : List Node :=
  (ps.filter fun g => g.e.set == set && g.e.frame == frame).flatMap fun g =>
    g.ds.zipIdx.map fun x => { frond := g.e.frond, ix := x.2, d := x.1 }

/-- Whether two descriptors are issued by one sequencer, the first earlier. -/
def Node.before (a b : Node) : Bool := a.frond == b.frond && a.d.seq == b.d.seq && decide (a.ix < b.ix)

/-! ### Plain semaphores (R315) -/

/-- The plain semaphore that a descriptor signals, or takes. -/
def Node.signals (a : Node) : Option (Nat × Nat) :=
  let b := semSignalOf a.d.raw
  if a.d.kind = 0x31 ∧ b.target = 2 then some (b.destFrond, b.plainSem) else none
def Node.takes (a : Node) : Option (Nat × Nat) :=
  let b := semWaitOf a.d.raw
  if a.d.kind = 0x30 ∧ b.target = 2 then some (a.frond, b.plainSem) else none

/-- The counter of the ticket body that holds a descriptor. -/
def Node.counter (ns : List Node) (a : Node) : Option Nat :=
  (ns.find? fun t => t.d.kind == 0x32 && t.frond == a.frond && decide (t.ix < a.ix ∧ a.ix ≤ t.ix + (ticketOf t.d.raw).bodyCount)).map
    fun t => (ticketOf t.d.raw).counterAddr

/-- Limit of a ticket counter. -/
def State.ticketLimit (s : State) (p a : Nat) : Nat := s.peekNat (some p) (a + 4) 4

/-- Programs whose bodies serve a counter: fronds. -/
def servers (ns : List Node) (c : Nat) : List Nat :=
  (ns.filter fun t => t.d.kind == 0x32 && (ticketOf t.d.raw).counterAddr == c).foldl (fun l t => insertNat t.frond l) []

/-- What the bodies of frond f on counter c signal to a semaphore in one pass. -/
def perPass (ns : List Node) (c f : Nat) (sem : Nat × Nat) : Nat :=
  ((ns.filter fun a => a.frond == f && a.signals == some sem && a.counter ns == some c).map fun a => (semSignalOf a.d.raw).count).sum

/-- Counters of a frame. -/
def countersOf (ns : List Node) : List Nat :=
  (ns.filter fun t => t.d.kind == 0x32).foldl (fun l t => insertNat (ticketOf t.d.raw).counterAddr l) []

/-- Counts that a frame adds to a semaphore: a signal in a ticket body counts once for each ticket of its counter. -/
def State.semTotal (s : State) (p : Nat) (ns : List Node) (sem : Nat × Nat) : Nat :=
  ((ns.filter fun a => a.signals == some sem && (a.counter ns).isNone).map fun a => (semSignalOf a.d.raw).count).sum
    + ((countersOf ns).map fun c => s.ticketLimit p c * perPass ns c ((servers ns c).headD 0) sem).sum

/-- Counts that a frame takes from a semaphore. -/
def semTaken (ns : List Node) (sem : Nat × Nat) : Nat :=
  ((ns.filter fun a => a.takes == some sem).map fun a => (semWaitOf a.d.raw).count).sum

/-- A frame that does not take every count it signals, and ticket bodies on one counter that differ. -/
def State.semFrameFails (s : State) (p : Nat) (ns : List Node) : List Node :=
  (ns.filter fun a => match a.signals with
    | some sem => decide (semTaken ns sem < s.semTotal p ns sem)
    | none => false)
  ++ ns.filter fun a => match a.signals, a.counter ns with
    | some sem, some c => (servers ns c).any fun f => perPass ns c f sem != perPass ns c a.frond sem
    | _, _ => false

/-! ### Order (R648) -/

/-- Whether a descriptor of a sequencer after `a`, up to and with `b`, has fence set. -/
def fenced (ns : List Node) (a b : Node) : Bool :=
  a.before b && ns.any fun c => a.before c && (c == b || c.before b) && dscFence c.d.raw

/-- Mask descriptors of one tensor issued by one execute sequencer. -/
def sameTensor (a b : Node) : Bool :=
  let mask := fun (x : Node) => x.d.kind == 0x40 || x.d.kind == 0x41 || x.d.kind == 0x42
  a.before b && mask a && mask b && dscBody a.d.raw 0 8 == dscBody b.d.raw 0 8

/-- Order through a plain semaphore, given the orders known so far. -/
def State.throughSem (s : State) (p : Nat) (ns : List Node) (known : List (Node × Node)) (a b : Node) : Bool :=
  ns.any fun w => match w.takes with
    | none => false
    | some sem => w.before b && ns.any fun g => a.before g && g.signals == some sem &&
        (let earlier := ns.filter fun v => v.takes == some sem && (v.before w || known.contains (v, w))
         let taken := (earlier.map fun v => (semWaitOf v.d.raw).count).sum
         decide (s.semTotal p ns sem - (semSignalOf g.d.raw).count < (semWaitOf w.d.raw).count + taken))

/-- The orders that follow in one step from those known. -/
def State.moreOrders (s : State) (p : Nat) (ns : List Node) (known : List (Node × Node)) : List (Node × Node) :=
  ns.flatMap fun a => (ns.filter fun b => a != b && (fenced ns a b || sameTensor a b || s.throughSem p ns known a b
    || ns.any fun c => known.contains (a, c) && known.contains (c, b))).map fun b => (a, b)

/-- Every order of a frame: each round adds one pair at least, until none is new. -/
def State.orders (s : State) (p : Nat) (ns : List Node) : Nat → List (Node × Node) → List (Node × Node)
  | 0, k => k
  | n + 1, k =>
    let k' := s.moreOrders p ns k
    if k'.length = k.length then k' else s.orders p ns n k'

def State.orderOf (s : State) (p : Nat) (ns : List Node) : List (Node × Node) := s.orders p ns (ns.length * ns.length + 1) []

/-! ### Updates of a frame -/

def Node.isUpdate (a : Node) : Bool := a.d.kind == 0x21
def Node.upd (a : Node) : UpdateBody := updateOf a.d.raw
/-- An UPDATE in an apply phase. -/
def Node.applies (a : Node) : Bool := a.isUpdate && a.upd.phase != 1
/-- A masked UPDATE. -/
def Node.masked (a : Node) : Bool := a.isUpdate && !a.upd.dense

/-- Whether two ranges of tiles meet. -/
def tilesMeet (a b : Nat × Nat) : Bool := spans a.1 a.2 b.1 b.2

/-- The memory units of a dense range's master weights, as their addresses resolve: one unit may have several addresses (R423). -/
def State.denseUnits (s : State) (p : Nat) (b : UpdateBody) : List Nat :=
  (List.range (cdiv b.count 16)).map fun k => (s.resolve (some p) (b.regionAddr + 64 * k)).getD (b.regionAddr + 64 * k)

/-- Whether two UPDATEs in an apply phase cover a position twice, or name one shard record (R258). -/
def State.clashes (s : State) (p : Nat) (a b : Node) : Bool :=
  let x := a.upd
  let y := b.upd
  (x.shardAddr != 0 && y.shardAddr != 0 && (s.resolve (some p) x.shardAddr).getD x.shardAddr == (s.resolve (some p) y.shardAddr).getD y.shardAddr)
    || (!x.dense && !y.dense && x.policy == y.policy && tilesMeet (x.firstTile, x.tileCount) (y.firstTile, y.tileCount))
    || (x.dense && y.dense && (s.denseUnits p x).any fun u => (s.denseUnits p y).contains u)

/-- Nodes with an earlier node of the list that bears on them. -/
def withEarlier (r : Node → Node → Bool) (l : List Node) : List Node :=
  (l.zipIdx.filter fun x => (l.take x.2).any fun y => r y x.1).map (·.1)

/-- R258 and R275: doubled shards and positions, health words that differ, and closing UPDATEs other than one. -/
def State.updateFrameFails (s : State) (p : Nat) (ns : List Node) : List Node :=
  let us := ns.filter Node.isUpdate
  let closes := us.filter fun a => a.upd.closeStep
  withEarlier (s.clashes p) (ns.filter Node.applies)
    ++ (us.filter fun a => some a.upd.healthAddr != us.head?.map fun z => z.upd.healthAddr)
    ++ (if closes.isEmpty then us.take 1 else closes.drop 1)

/-- R267: a phase 2 that no phase 1 of its shard is ordered before. -/
def phaseFails (ns : List Node) (o : List (Node × Node)) : List Node :=
  ns.filter fun b => b.isUpdate && b.upd.phase == 2
    && !ns.any fun a => a.isUpdate && a.upd.phase == 1 && a.upd.shardAddr == b.upd.shardAddr && o.contains (a, b)

/-! ### Builds (R230, R251) -/

/-- The policy that a descriptor of one of the kinds names. -/
def Node.policyIf (kinds : List Nat) (a : Node) : Option Nat := if kinds.contains a.d.kind then some (dscBody a.d.raw 0 8) else none

/-- PRUNEs, REGROWs and masked UPDATEs that are not ordered before every COMMIT of their tensor in the frame. -/
def commitOrderFails (ns : List Node) (o : List (Node × Node)) : List Node :=
  ns.filter fun a =>
    match (if a.masked then some a.upd.policy else a.policyIf [0x40, 0x41]) with
    | none => false
    | some i => ns.any fun c => c.policyIf [0x42] == some i && !o.contains (a, c)

/-- Whether the COMMITs of a tensor in a frame cover each of its tiles exactly once. -/
def coversOnce (total : Nat) (cs : List Node) : Bool :=
  (List.range total).all fun t => (cs.filter fun c => decide ((commitOf c.d.raw).firstTile ≤ t
    ∧ t < (commitOf c.d.raw).firstTile + (commitOf c.d.raw).tileCount)).length == 1

/-- R230 over a program set, given its frames in order: frames whose COMMITs do not cover their tensor once, and edits that
no frame's COMMITs follow. -/
def buildFails (pl : Plan) (frames : List (List Node)) : List Node :=
  (frames.flatMap fun ns => (ns.filter fun a => match a.policyIf [0x42] with
    | some i => !coversOnce (polTiles (pl.policies.getD i 0)) (ns.filter fun c => c.policyIf [0x42] == some i)
    | none => false))
  ++ frames.zipIdx.flatMap fun x => x.1.filter fun a => match a.policyIf [0x40, 0x41] with
    | some i => !(frames.drop x.2).any fun ns => ns.any fun c => c.policyIf [0x42] == some i
    | none => false

/-- R251: a tile that descriptors issued from fronds of two tufts name, anywhere in the plan. -/
def shardFails (all : List Node) : List Node :=
  withEarlier (fun a b => match maskRange a.d, maskRange b.d with
    | some x, some y => x.1 == y.1 && tuftOf a.frond != tuftOf b.frond && tilesMeet x.2 y.2
    | _, _ => false) all

/-! ### Collectives (R505) -/

/-- Two REDUCE_SENDs, or two REDUCE_RECVs, of a frame with one peer and channel. -/
def collectiveFails (ns : List Node) : List Node :=
  withEarlier (fun a b =>
    let x := sendOf a.d.raw
    let y := sendOf b.d.raw
    let u := recvOf a.d.raw
    let v := recvOf b.d.raw
    (a.d.kind == 0x50 && b.d.kind == 0x50 && x.dstChip == y.dstChip && x.dstPartition == y.dstPartition && x.channel == y.channel)
      || (a.d.kind == 0x51 && b.d.kind == 0x51 && u.srcChip == v.srcChip && u.srcPartition == v.srcPartition && u.channel == v.channel)) ns

/-! ### Copies of an old generation (R235) -/

/-- Bytes of a frond's buffer. -/
structure BufSpan where
  frond : Nat
  addr : Nat
  len : Nat
  deriving DecidableEq, Repr

def BufSpan.meets (a b : BufSpan) : Bool := a.frond == b.frond && spans a.addr a.len b.addr b.len

/-- The span from an address to the last of the bytes given. -/
def spanOf (f a : Nat) (bytes : List Nat) : BufSpan := ⟨f, a, (bytes.foldl (fun m x => max m (x + 1)) a) - a⟩

/-- The ring of a stream in a frond's buffer: a relative side lies in an item that only service knows. -/
def ringSpan (e : BitVec 256) : BufSpan := ⟨strRingFrond e, strBase e, 64 * strUnits e * strDepth e⟩

/-- The policy whose window or regions hold a device address. -/
def Plan.tensorAt (pl : Plan) (a : Nat) : Option Nat :=
  if inWindow a then pl.slots.findIdx? fun m => m == (a - 0x1000_0000_0000) / 0x0010_0000_0000
  else pl.policies.findIdx? fun pol =>
    let n := polTiles pol * slotBytes pol
    spans a 1 (polRegion0 pol) n || spans a 1 (polRegion1 pol) n

/-- Frond-buffer spans that a copy writes: a MOVE's destination, or a MULTICAST's destinations. -/
def State.copyTargets (s : State) (pl : Plan) (a : Node) : List BufSpan :=
  let id := dscStream a.d.raw
  if a.d.kind = 0x01 then
    let b := moveOf a.d.raw
    if b.dstRel then match pl.entryOf id with
      | some e => if strRingInFrond e then [ringSpan e] else []
      | none => []
    else match b.dstSpace, pl.sideOf 0xFFFF b.dstAddr b.dstFrond true false b.dstLayout b.dstSwz b.dstFmt with
      | true, some dst =>
        [spanOf b.dstFrond b.dstAddr (dst.dstBytes (copyShape (sget (fun _ => (0 : BitVec 512)) s.shapeTab (256 * a.frond + b.shape))) b)]
      | _, _ => []
  else if a.d.kind = 0x02 then
    let b := multicastOf a.d.raw
    (destsOf b.destMask).zipIdx.filterMap fun e =>
      if b.streamed then (pl.entryOf (id + e.2)).map ringSpan else some ⟨e.1, b.dstAddr, b.length⟩
  else []

/-- Frond-buffer spans that a descriptor reads, as far as it fixes them. A kernel's addresses are known only in service. -/
def State.bufSources (s : State) (pl : Plan) (a : Node) : List BufSpan :=
  let at_ := fun (x n : Nat) => (⟨a.frond, x, n⟩ : BufSpan)
  let d := a.d.raw
  match a.d.kind with
  | 0x01 =>
    let b := moveOf d
    if b.srcRel then match pl.entryOf (dscStream d) with
      | some e => if strRingInFrond e then [ringSpan e] else []
      | none => []
    else match b.srcSpace, pl.sideOf 0xFFFF b.srcAddr b.srcFrond true false b.srcLayout b.srcSwz b.srcFmt with
      | true, some src =>
        [spanOf b.srcFrond b.srcAddr (src.srcBytes (copyShape (sget (fun _ => (0 : BitVec 512)) s.shapeTab (256 * a.frond + b.shape))))]
      | _, _ => []
  | 0x03 =>
    let b := gatherOf d
    [at_ b.srcAddr ((b.rows - 1) * b.srcStride + rowBytes b.fmt b.cols)] ++ (if b.swzUse || b.map == 2 then [at_ b.swzTileAddr 64] else [])
      ++ (if isShort b.fmt then [at_ b.scaleAddr (if b.scaleKind then 4 * b.rows else 2048)] else [])
  | 0x10 =>
    let b := denseOf d
    [at_ b.aAddr (panelBytes b), at_ b.bAddr (panelBytes b)]
      ++ (if isShort b.fmtA then [at_ b.aScaleAddr (128 * b.kBlocks), at_ b.bScaleAddr (128 * b.kBlocks)] else [])
  | 0x11 => [at_ (sparseOf d).tileAddr 64]
  | 0x12 =>
    let b := sampledOf d
    [at_ b.tileAddr 64, at_ b.statAddr (127 * b.statStride + rowBytes b.fmtStat b.colsValid)]
  | 0x13 =>
    let b := drainOf d
    (if b.epiOp = 0 then [] else [at_ b.epiAddr ((b.rowsValid - 1) * b.epiStride + rowBytes b.epiFmt b.colsValid)])
      ++ (if b.maskGate then [at_ b.maskAddr (16 * b.rowsValid)] else [])
  | 0x50 => let b := sendOf d; [at_ b.srcAddr b.length]
  | 0x51 => let b := recvOf d; if b.op = 1 then [at_ b.localAddr b.length] else []
  | _ => []

/-- Copies of masked tensors into frond buffers that a frame makes, straight from the tensor or from such a copy: policy index and
span, in the order of its descriptors. -/
def State.tensorCopies (s : State) (pl : Plan) (ns : List Node) : List (Nat × BufSpan) :=
  ns.foldl (fun l a =>
    let b := moveOf a.d.raw
    let from_ := if a.d.kind = 0x01 ∧ !b.srcSpace ∧ !b.srcRel then (pl.tensorAt b.srcAddr).toList
      else if a.d.kind = 0x02 then (pl.tensorAt (multicastOf a.d.raw).srcAddr).toList
      else if a.d.kind = 0x01 then (l.filter fun c => (s.bufSources pl a).any c.2.meets).map (·.1)
      else []
    l ++ from_.flatMap fun i => (s.copyTargets pl a).map fun t => (i, t)) []

/-- Reads, in frame g of a set, of a tensor's bytes that an earlier frame copied, when the tensor can switch between. `here`
are the set's frames, `others` the sets that a step before may have run. -/
def State.staleFails (s : State) (pl : Plan) (here : List (List Node)) (others : List (List (List Node))) : List Node :=
  let commits := fun (l : List (List Node)) (i : Nat) => l.any fun ns => ns.any fun c => c.policyIf [0x42] == some i
  let copied := fun (ns : List Node) (x : BufSpan) => ((s.tensorCopies pl ns).find? fun c => c.2.meets x).map (·.1)
  let last := fun (frames : List (List Node)) (x : BufSpan) =>
    frames.zipIdx.reverse.findSome? fun e => (copied e.1 x).map fun i => (i, e.2)
  here.zipIdx.flatMap fun g => g.1.filter fun a => (s.bufSources pl a).any fun x =>
    if (copied g.1 x).isSome then false
    else match last (here.take g.2) x with
      | some (i, f) => commits ((here.take g.2).drop f) i
      | none => others.any fun o => match last o x with
        | some (i, f) => commits (o.drop f) i || commits (here.take g.2) i
        | none => false

/-! ### The frames of a plan -/

/-- Failures of one frame. -/
def State.frameFails (s : State) (p : Nat) (ns : List Node) : List Fail :=
  let o := s.orderOf p ns
  let at_ := fun (c : Nat) (l : List Node) => l.map fun a => (⟨1, a.d.off, c⟩ : Fail)
  at_ 4 (s.semFrameFails p ns ++ s.updateFrameFails p ns ++ commitOrderFails ns o ++ collectiveFails ns) ++ at_ 2 (phaseFails ns o)

/-- Failures across the programs of a plan. -/
def State.planFrameFails (s : State) (p : Nat) (pl : Plan) (ps : List Prog) : List Fail :=
  let sets := (List.range pl.programSets).map fun k => (List.range pl.framesPerStep).map (nodesOf ps k)
  let at_ := fun (l : List Node) => l.map fun a => (⟨1, a.d.off, 4⟩ : Fail)
  (sets.flatMap fun fs => fs.flatMap (s.frameFails p)) ++ at_ (sets.flatMap (buildFails pl))
    ++ at_ (shardFails (sets.flatMap fun fs => fs.flatMap id)) ++ at_ (sets.flatMap fun fs => s.staleFails pl fs sets)

end Sys2Proof.Machine
end

