-- ==== Sys2Proof/Machine/Flags.lean ====
section
/-! DEFINITION. The sticky flags of the vector engine (R78, R169) and each floating operation with the flags it raises,
under IEEE 754-2019; what the standard leaves open is an opaque constant of Config (log entry 7). -/

namespace Sys2Proof.Machine

/-- Flag bits: invalid 4, division by zero 3, overflow 2, underflow 1, inexact 0 (R169). -/
def flInvalid : BitVec 5 := 0x10
def flDivZero : BitVec 5 := 0x08
def flOverflow : BitVec 5 := 0x04
def flUnderflow : BitVec 5 := 0x02
def flInexact : BitVec 5 := 0x01

/-- Types of the instruction field map: 0 binary32, 1 binary16, 2 bfloat16, 3 W48, 4 i32, 5 i16, 6 i8. -/
def typeFmt (t : Nat) : Option Fmt :=
  match t with
  | 0 => some .b32
  | 1 => some .b16
  | 2 => some .bf16
  | 3 => some .w48
  | _ => none

/-- Width of an integer type. -/
def typeInt (t : Nat) : Option Nat :=
  match t with
  | 4 => some 32
  | 5 => some 16
  | 6 => some 8
  | _ => none

/-- Bytes of an element of a type. -/
def typeBytes (t : Nat) : Nat :=
  match t with
  | 0 => 4
  | 1 => 2
  | 2 => 2
  | 3 => 8
  | 4 => 4
  | 5 => 2
  | 6 => 1
  | _ => 0

/-- Value of a code of a floating type; a W48 container outside R100 reads as NaN. -/
def typeVal (t code : Nat) : Val :=
  if t = 3 then decodeW48 code
  else match typeFmt t with
    | some f => f.decode (code % 2 ^ f.width)
    | none => .nan

/-- Whether a code is a signaling NaN: quiet bit clear (IEEE 754-2019; W48 keeps none, R101). -/
def isSNaN (t code : Nat) : Bool :=
  match typeFmt t with
  | some f => t != 3 && typeVal t code == .nan && !bitAt code (f.fbits - 1)
  | none => false

/-- A NaN made quiet, payload kept (R78). -/
def quiet (t code : Nat) : Nat :=
  match typeFmt t with
  | some f => let c := code % 2 ^ f.width; if bitAt c (f.fbits - 1) then c else c + 2 ^ (f.fbits - 1)
  | none => code

/-- The canonical NaN of a type (canonical-NaN table). -/
def canonNaN (t : Nat) : Nat := match typeFmt t with | some f => f.canonicalNaN | none => 0

/-- The NaN that an operation on NaN operands gives: a quiet NaN with the payload of one of them; which one of several
the standard leaves open. W48 propagates no payload (R101). -/
def propagate (t : Nat) (codes : List Nat) : Nat :=
  if t = 3 then canonNaN 3
  else match codes.filter fun c => typeVal t c == .nan with
    | [] => canonNaN t
    | [a] => quiet t a
    | a :: b :: _ => if Config.nanFromFirst a b then quiet t a else quiet t b

/-- A result code with the flags raised. -/
structure FlagResult where
  code : Nat
  flags : BitVec 5
  deriving DecidableEq, Repr, Inhabited

/-- Flags of one rounding (IEEE 754-2019, clause 7). -/
def roundFlags (i : RoundInfo) : BitVec 5 :=
  (if i.overflow then flOverflow ||| flInexact else 0)
    ||| (if i.inexact then flInexact else 0)
    ||| (if i.inexact && (if Config.tininessAfterRounding then i.tinyAfter else i.tinyBefore) then flUnderflow else 0)

/-- Encode a rounded value with its flags. -/
def finish (f : Fmt) (r : Val × RoundInfo) : FlagResult := ⟨f.encode r.1, roundFlags r.2⟩

/-- Invalid flag of signaling operands. -/
def snanFlag (t : Nat) (codes : List Nat) : BitVec 5 := if codes.any (isSNaN t) then flInvalid else 0

/-- A floating operation: NaN operands propagate; a NaN from other operands is invalid; else round the exact result. -/
def floatOp (t : Nat) (f : Fmt) (codes : List Nat) (res : Val × RoundInfo) (extra : BitVec 5) : FlagResult :=
  if codes.any fun c => typeVal t c == .nan then ⟨propagate t codes, snanFlag t codes⟩
  else if res.1 = .nan then ⟨f.canonicalNaN, flInvalid⟩
  else let r := finish f res; ⟨r.code, r.flags ||| extra⟩

/-- Sign of an exact zero sum of unlike signs: −0 when rounding toward −∞. -/
def zeroSign (r : Rounding) : Bool := match r with | .towardNeg => true | _ => false

def fAdd (t : Nat) (f : Fmt) (r : Rounding) (a b : Nat) : FlagResult :=
  floatOp t f [a, b] (f.round r (Val.add (zeroSign r) (typeVal t a) (typeVal t b))) 0

/-- Flip the sign bit of a code. -/
def flipSign (t code : Nat) : Nat :=
  match typeFmt t with
  | some f => let s := 2 ^ (f.ebits + f.fbits)
              let c := code % (2 * s)
              if s ≤ c then c - s else c + s
  | none => code

/-- a − b. A NaN operand propagates with its own payload and sign. -/
def fSub (t : Nat) (f : Fmt) (r : Rounding) (a b : Nat) : FlagResult :=
  floatOp t f [a, b] (f.round r (Val.add (zeroSign r) (typeVal t a) (typeVal t b).negate)) 0

def fMul (t : Nat) (f : Fmt) (r : Rounding) (a b : Nat) : FlagResult :=
  floatOp t f [a, b] (f.round r (Val.mul (typeVal t a) (typeVal t b))) 0

/-- FMA with one rounding; FMA(0, ∞, quiet NaN) raises invalid as the part chooses. -/
def fFma (t : Nat) (f : Fmt) (r : Rounding) (a b c : Nat) : FlagResult :=
  let p := Val.mul (typeVal t a) (typeVal t b)
  let badProduct := typeVal t a != .nan && typeVal t b != .nan && p == .nan
  if [a, b, c].any fun x => typeVal t x == .nan then
    ⟨propagate t [a, b, c], snanFlag t [a, b, c] ||| (if badProduct && Config.fmaZeroInfNanInvalid then flInvalid else 0)⟩
  else floatOp t f [a, b, c] (f.round r (Val.add (zeroSign r) p (typeVal t c))) 0

/-- Correctly rounded quotient; a finite non-zero dividend over zero raises division by zero. -/
def fDiv (t : Nat) (f : Fmt) (r : Rounding) (a b : Nat) : FlagResult :=
  let va := typeVal t a
  let vb := typeVal t b
  floatOp t f [a, b] (f.divide r va vb) (if vb.isZero && !va.nonfinite && !va.isZero then flDivZero else 0)

def fSqrt (t : Nat) (f : Fmt) (r : Rounding) (a : Nat) : FlagResult :=
  floatOp t f [a] (f.squareRoot r (typeVal t a)) 0

def fExp2 (f : Fmt) (r : Rounding) (a : Nat) : FlagResult := floatOp 0 f [a] (f.exp2 r (typeVal 0 a)) 0

/-- log2; the logarithm of zero is −∞ with division by zero (IEEE 754-2019, 9.2). -/
def fLog2 (f : Fmt) (r : Rounding) (a : Nat) : FlagResult :=
  floatOp 0 f [a] (f.log2 r (typeVal 0 a)) (if (typeVal 0 a).isZero then flDivZero else 0)

/-- minimumNumber and maximumNumber (IEEE 754-2019, 9.6): a number beats a NaN, −0 is below +0. -/
def fMinMax (t : Nat) (isMax : Bool) (a b : Nat) : FlagResult :=
  let va := typeVal t a
  let vb := typeVal t b
  let fl := snanFlag t [a, b]
  if va = .nan ∧ vb = .nan then ⟨propagate t [a, b], fl⟩
  else if va = .nan then ⟨b, fl⟩
  else if vb = .nan then ⟨a, fl⟩
  else
    let aLess := va.lt vb || (va.isZero && vb.isZero && va.neg? && !vb.neg?)
    ⟨if aLess != isMax then a else b, fl⟩

/-- The conditions of CMP: eq, ne, lt, le, gt, ge, unordered. Ordered comparisons of a NaN are false and raise invalid;
the others raise it for a signaling NaN (IEEE 754-2019, 5.11). -/
def fCmp (t cond a b : Nat) : Bool × BitVec 5 :=
  let va := typeVal t a
  let vb := typeVal t b
  let un := va == .nan || vb == .nan
  let sig := snanFlag t [a, b]
  let ord := if un then flInvalid else 0
  match cond with
  | 0 => (!un && va.eqv vb, sig)
  | 1 => (un || !va.eqv vb, sig)
  | 2 => (!un && va.lt vb, ord)
  | 3 => (!un && (va.lt vb || va.eqv vb), ord)
  | 4 => (!un && vb.lt va, ord)
  | 5 => (!un && (vb.lt va || va.eqv vb), ord)
  | _ => (un, sig)

/-- The class set of CLASS: NaN, infinity, normal, subnormal, zero, negative (bits 0 to 5). -/
def fClass (t code : Nat) : Nat :=
  match typeFmt t with
  | none => 0
  | some f =>
    let v := typeVal t code
    let neg := bitAt code (f.ebits + f.fbits)
    let e := bitsOf code f.fbits f.ebits
    (match v with
     | .nan => 1
     | .inf _ => 2
     | .fin _ m _ => if m = 0 then 16 else if e = 0 then 8 else 4) + (if neg && v != .nan then 32 else 0)

/-- Integer value of a register's low bits. -/
def intVal (w code : Nat) : Int := signed w code

/-- Integer result under R91; saturating raises nothing (R78 gives flags to floating operations). -/
def intResult (w : Nat) (wrap : Bool) (z : Int) : Nat := narrowInt w wrap z

/-- Conversion between types (CVT, R74, R79, R80, R91, R92). -/
def convert (src dst code : Nat) (r : Rounding) (wrap : Bool) : FlagResult :=
  match typeFmt dst, typeInt dst with
  | some f, _ =>
    match typeInt src with
    | some w => finish f (f.round r (finOfInt (intVal w code) 0 false))
    | none =>
      let v := typeVal src code
      if v = .nan then
        -- a NaN keeps the payload that fits, made quiet; W48 on either side writes the canonical NaN (R101, R104)
        let fl := if isSNaN src code then flInvalid else 0
        if src = 3 ∨ dst = 3 then ⟨f.canonicalNaN, fl⟩
        else match typeFmt src with
          | some g =>
            let sign := if bitAt code (g.ebits + g.fbits) then 2 ^ (f.ebits + f.fbits) else 0
            let pay := bitsOf (quiet src code) 0 g.fbits
            let pay := if g.fbits ≤ f.fbits then pay * 2 ^ (f.fbits - g.fbits) else pay / 2 ^ (g.fbits - f.fbits)
            ⟨sign + (2 ^ f.ebits - 1) * 2 ^ f.fbits + pay, fl⟩
          | none => ⟨f.canonicalNaN, fl⟩
      else finish f (f.round r v)
  | none, some w =>
    match typeInt src with
    | some ws => ⟨intResult w wrap (intVal ws code), 0⟩
    | none =>
      match typeVal src code with
      | .nan => ⟨0, flInvalid⟩
      | .inf n =>
        -- the manual gives a wrapped infinity no value (log entry 123)
        if wrap && dst != 6 then ⟨(Config.wrapInfinity w n).toNat, flInvalid⟩
        else ⟨narrowInt w false (if n then -(2 ^ w) else 2 ^ w), flInvalid⟩
      | v => match roundInt r v with
        | none => ⟨0, flInvalid⟩
        | some z =>
          -- the wrap setting does not apply to i8 (R74)
          let wr := wrap && dst != 6
          ⟨narrowInt w wr z,
           (if saturatesInt w z then flInvalid
            else if Val.eqv v (finOfInt z 0 false) then 0 else flInexact)⟩
  | none, none => ⟨0, 0⟩

end Sys2Proof.Machine
end

