-- ==== Sys2Proof/Machine/Vector.lean ====
section
/-! DEFINITION. The vector engine: VEC, the kernel's end, and every vector instruction (R159 to R170). -/

namespace Sys2Proof.Machine

/-! ### Registers -/

/-- Scalar register n; s0 reads zero (R160). -/
def Vector.sreg (x : Vector) (n : Nat) : Dword := if n % 16 = 0 then 0 else sget (fun _ => (0 : Dword)) x.sregs (n % 16)
def Vector.setSreg (x : Vector) (n : Nat) (v : Dword) : Vector :=
  if n % 16 = 0 then x else { x with sregs := sput (fun _ => (0 : Dword)) x.sregs (n % 16) v }

/-- Vector register n of a lane. -/
def Vector.vreg (x : Vector) (lane n : Nat) : Nat := (sget (fun _ => (0 : Dword)) x.vregs (32 * lane + n % 32)).toNat
def Vector.setVreg (x : Vector) (lane n v : Nat) : Vector :=
  { x with vregs := sput (fun _ => (0 : Dword)) x.vregs (32 * lane + n % 32) (BitVec.ofNat 64 v) }

/-- Predicate register n of a lane; p0 is always true (R160). -/
def Vector.pred (x : Vector) (lane n : Nat) : Bool := n % 8 == 0 || sget (fun _ => false) x.preds (128 * (n % 8) + lane)
def Vector.setPred (x : Vector) (lane n : Nat) (v : Bool) : Vector :=
  if n % 8 = 0 then x else { x with preds := sput (fun _ => false) x.preds (128 * (n % 8) + lane) v }

/-- Sticky flags of a lane. -/
def Vector.flag (x : Vector) (lane : Nat) : BitVec 5 := sget (fun _ => (0 : BitVec 5)) x.flags lane
def Vector.raise (x : Vector) (lane : Nat) (fl : BitVec 5) : Vector :=
  { x with flags := sput (fun _ => (0 : BitVec 5)) x.flags lane (x.flag lane ||| fl) }

/-- Whether a lane is active under the governing predicate (R165). -/
def Vector.active (x : Vector) (v : VFields) (lane : Nat) : Bool := x.pred lane v.p != v.pn

/-- A value of a type as its register holds it: unused high bits zero; i16 and i8 sign-extended in bits [31:0] (R161,
log entry 16). -/
def regForm (t v : Nat) : Nat :=
  match t with
  | 1 => v % 2 ^ 16
  | 2 => v % 2 ^ 16
  | 3 => v % 2 ^ 64
  | 5 => unsignedOf 32 (signed 16 v)
  | 6 => unsignedOf 32 (signed 8 v)
  | _ => v % 2 ^ 32

/-! ### The kernel -/

def runVec (i : Issue) (b : VecBody) : Run := fun _ _ id s =>
  let args := [b.arg1, b.arg2, b.arg3, b.arg4, b.arg5, b.arg6]
  (s.modFrond i.frond fun x =>
    { x with vec := { x.vec with running := true, jobId := id, pc := b.entry, numctl := b.numctl
                                 sregs := sputs (fun _ => (0 : Dword)) [] 1 args } }, some .vec)

/-- VEC starts a kernel; one kernel runs at a time (R163, R164). -/
def execVec (i : Issue) (b : VecBody) (s : State) : Out :=
  issueRow s i (isVec b) (b.wf && i.seq == .execute) (fun _ s => if (s.frond i.frond).jobs.any (fun j => j.body == .vec) then some .engine else none) (runVec i b)

/-- The kernel's HALT has retired and its stores are written: its VEC completes (R163). -/
def execKernelComplete (f : Nat) (s : State) : Out :=
  onUnit (decide (f < 128))
    (let x := s.frond f
     if x.vec.running then s
     else match x.jobs.find? fun j => j.body == .vec with
       | some j => s.endJob f j.id
       | none => s)

/-- The word of an instruction (instruction field map). -/
def vecWord (op : Nat) (v : VFields) : Nat :=
  op * 2 ^ 56 + v.d * 2 ^ 51 + v.a * 2 ^ 46 + v.b * 2 ^ 41 + v.c * 2 ^ 36 + v.p * 2 ^ 33 + (if v.pn then 2 ^ 32 else 0)
    + v.rm * 2 ^ 29 + v.t * 2 ^ 26 + unsignedOf 26 v.imm

/-- Whether a kernel runs on frond f and its next instruction, in the instruction memory at the program counter, is the
row's: the engine issues instructions in program order (R159, R164). -/
def State.vecNext (s : State) (f op : Nat) (v : VFields) : Bool :=
  let x := (s.frond f).vec
  x.running && sget (fun _ => (0 : Dword)) s.imem (8192 * f + x.pc) == BitVec.ofNat 64 (vecWord op v)

/-- Address of the VEC descriptor that runs. -/
def State.vecDesc (s : State) (f : Nat) : Nat :=
  (((s.frond f).jobs.find? fun j => j.body == .vec).map (·.addr)).getD 0

/-- A running kernel whose next instruction cannot be read from the instruction memory (R427, R435). -/
def State.vecUnread (s : State) (p f : Nat) : Option State :=
  let x := (s.frond f).vec
  if x.running then s.storeFault p f (s.vecDesc f) .instructions [2 * x.pc, 2 * x.pc + 1] else none

/-- A vector instruction of the kernel on frond f: its codes are none of the reserved ones, and it is the next one of a kernel
that runs there; the engine counts its issue cycles and the bank cycles it loses, and steps to the next instruction before the
effect (R164, R120). -/
def vrow (f op : Nat) (v : VFields) (issue : Nat) (valid : Bool) (s : State) (body : Nat → State → State) : Out :=
  if ¬ f < 128 then .fault .noSuchUnit
  else if !(v.wf && valid) then .fault .reservedCode
  else
    let s := s.strike v.strikes
    match s.workOf f with
    | none => .next s
    | some p =>
      match s.vecUnread p f with
      | some t => .next t
      | none =>
      if !s.vecNext f op v then .next s
      else
        .next (body p (((s.countStalls (ownBank f .vector) v.contests).count64 clsFrond f 0x1118 issue).modFrond f fun x =>
          { x with vec := { x.vec with pc := (x.vec.pc + 1) % 8192 } }))

/-- Change the vector engine of a frond. -/
def State.modVec (s : State) (f : Nat) (g : Vector → Vector) : State := s.modFrond f fun x => { x with vec := g x.vec }

/-! ### Codes -/

def isFloat (t : Nat) : Bool := decide (t ≤ 3)
def isInt (t : Nat) : Bool := t == 4 || t == 5 || t == 6
def anyType (t : Nat) : Bool := decide (t ≤ 6)
/-- A rounding code of a floating operation, or a wrap code of an integer one. -/
def rmOk (t rm : Nat) : Bool := if isInt t then decide (rm ≤ 2) else decide (rm ≤ 5)

/-- The rounding an rm code selects, drawing from the lane's generator when it is stochastic (R80, R170). -/
def vecRound (numctl rm : Nat) (gens : List (Nat × Dword)) (k : Nat) : Rounding × List (Nat × Dword) :=
  let sto := fun (_ : Unit) =>
    let v := genStep (sget (fun _ => genReset) gens k)
    (Rounding.stochastic (ncBits numctl) (genTop (ncBits numctl) v), sput (fun _ => genReset) gens k v)
  match rm with
  | 0 => if ncStochastic numctl then sto () else (.nearest, gens)
  | 1 => (.nearest, gens)
  | 2 => (.towardZero, gens)
  | 3 => (.towardPos, gens)
  | 4 => (.towardNeg, gens)
  | _ => sto ()

/-- The wrap setting an rm code selects (R91). -/
def vecWrap (numctl rm : Nat) : Bool := if rm = 0 then ncWrap numctl else rm == 2

/-- Apply an operation to every active lane: the result goes to v[d] and the flags stick. `rounds` says whether the
operation rounds, and so draws where rounding is stochastic. -/
def State.vecMap (s : State) (f : Nat) (v : VFields) (t : Nat) (rounds : Bool) (op : Vector → Nat → Rounding → FlagResult) : State :=
  let x := (s.frond f).vec
  let r := ((List.range 128).filter (x.active v)).foldl
    (fun (a : Vector × List (Nat × Dword)) l =>
      let (rnd, g) := if rounds then vecRound x.numctl v.rm a.2 (f * 128 + l) else (.nearest, a.2)
      let o := op x l rnd
      ((a.1.setVreg l v.d (regForm t o.code)).raise l o.flags, g)) (x, s.gens)
  { s.modVec f (fun _ => r.1) with gens := r.2 }

/-- Floating or integer arithmetic of two or three sources in type t. -/
def State.vecArith (s : State) (f : Nat) (v : VFields) (fl : Fmt → Rounding → Nat → Nat → Nat → FlagResult)
    (int : Int → Int → Int) : State :=
  match typeFmt v.t, typeInt v.t with
  | some fm, _ => s.vecMap f v v.t true fun x l r => fl fm r (x.vreg l v.a) (x.vreg l v.b) (x.vreg l v.c)
  | none, some w => s.vecMap f v v.t false fun x l _ =>
      ⟨intResult w (vecWrap x.numctl v.rm) (int (intVal w (x.vreg l v.a)) (intVal w (x.vreg l v.b))), 0⟩
  | none, none => s

def execFma (f : Nat) (v : VFields) (s : State) : Out :=
  vrow f 0x01 v 1 (decide (v.t ≤ 2) && rmOk v.t v.rm) s fun _ s => s.vecArith f v (fun fm r a b c => fFma v.t fm r a b c) (fun a _ => a)

def execAdd (f : Nat) (v : VFields) (s : State) : Out :=
  vrow f 0x02 v 1 (anyType v.t && rmOk v.t v.rm) s fun _ s => s.vecArith f v (fun fm r a b _ => fAdd v.t fm r a b) (· + ·)

def execSub (f : Nat) (v : VFields) (s : State) : Out :=
  vrow f 0x03 v 1 (anyType v.t && rmOk v.t v.rm) s fun _ s => s.vecArith f v (fun fm r a b _ => fSub v.t fm r a b) (· - ·)

def execMul (f : Nat) (v : VFields) (s : State) : Out :=
  vrow f 0x04 v 1 (anyType v.t && v.t != 3 && rmOk v.t v.rm) s fun _ s =>
    s.vecArith f v (fun fm r a b _ => fMul v.t fm r a b) (· * ·)

def execDiv (f : Nat) (v : VFields) (s : State) : Out :=
  vrow f 0x05 v 8 (decide (v.t ≤ 1) && rmOk v.t v.rm) s fun _ s => s.vecArith f v (fun fm r a b _ => fDiv v.t fm r a b) (fun a _ => a)

def execSqrt (f : Nat) (v : VFields) (s : State) : Out :=
  vrow f 0x06 v 8 (decide (v.t ≤ 1) && rmOk v.t v.rm) s fun _ s => s.vecArith f v (fun fm r a _ _ => fSqrt v.t fm r a) (fun a _ => a)

/-- Minimum or maximum of two values of a type: exact. -/
def minMaxOf (t : Nat) (isMax : Bool) (a b : Nat) : FlagResult :=
  match typeInt t with
  | some w => ⟨if decide (intVal w a < intVal w b) != isMax then a else b, 0⟩
  | none => fMinMax t isMax a b

def execMin (f : Nat) (v : VFields) (s : State) : Out :=
  vrow f 0x07 v 1 (anyType v.t) s fun _ s => s.vecMap f v v.t false fun x l _ => minMaxOf v.t false (x.vreg l v.a) (x.vreg l v.b)

def execMax (f : Nat) (v : VFields) (s : State) : Out :=
  vrow f 0x08 v 1 (anyType v.t) s fun _ s => s.vecMap f v v.t false fun x l _ => minMaxOf v.t true (x.vreg l v.a) (x.vreg l v.b)

/-- Clear or flip the sign bit of a floating code. A W48 container outside R100 is written as the canonical NaN. -/
def signOf (t code : Nat) (flip : Bool) : Nat :=
  let c := if t = 3 && bitsOf code 48 16 != 0 then canonNaN 3 else code
  match typeFmt t with
  | some f =>
    let b := 2 ^ (f.ebits + f.fbits)
    if flip then flipSign t c else c % b
  | none => c

def execAbs (f : Nat) (v : VFields) (s : State) : Out :=
  vrow f 0x09 v 1 (anyType v.t && rmOk v.t v.rm) s fun _ s => s.vecMap f v v.t false fun x l _ =>
    match typeInt v.t with
    | some w => ⟨intResult w (vecWrap x.numctl v.rm) ((intVal w (x.vreg l v.a)).natAbs : Int), 0⟩
    | none => ⟨signOf v.t (x.vreg l v.a) false, 0⟩

def execNeg (f : Nat) (v : VFields) (s : State) : Out :=
  vrow f 0x0A v 1 (anyType v.t && rmOk v.t v.rm) s fun _ s => s.vecMap f v v.t false fun x l _ =>
    match typeInt v.t with
    | some w => ⟨intResult w (vecWrap x.numctl v.rm) (-intVal w (x.vreg l v.a)), 0⟩
    | none => ⟨signOf v.t (x.vreg l v.a) true, 0⟩

def execExp2 (f : Nat) (v : VFields) (s : State) : Out :=
  vrow f 0x0B v 16 (v.t == 0 && rmOk v.t v.rm) s fun _ s => s.vecArith f v (fun fm r a _ _ => fExp2 fm r a) (fun a _ => a)

def execLog2 (f : Nat) (v : VFields) (s : State) : Out :=
  vrow f 0x0C v 16 (v.t == 0 && rmOk v.t v.rm) s fun _ s => s.vecArith f v (fun fm r a _ _ => fLog2 fm r a) (fun a _ => a)

/-- The low bits of the immediate. -/
def immLow (v : VFields) (n : Nat) : Nat := unsignedOf n v.imm

/-- Whether a conversion never rounds: the target holds every value of the source (log entry 16). -/
def widens (src dst : Nat) : Bool :=
  src == dst || dst == 3 || (dst == 0 && (src == 1 || src == 2 || src == 5 || src == 6)) || (dst == 2 && src == 6)
    || (dst == 1 && src == 6) || (isInt src && isInt dst)

/-- CVT: the source is the type whose code stands in imm[2:0], a code of the t field (DEDUCED, log entry 125); rounding under rm; the wrap setting is rm's between integers and numctl's from a floating value. -/
def execCvt (f : Nat) (v : VFields) (s : State) : Out :=
  let src := immLow v 3
  vrow f 0x0D v 1 (anyType v.t && anyType src && (if isInt v.t && isInt src then decide (v.rm ≤ 2) else decide (v.rm ≤ 5))) s
    fun _ s => s.vecMap f v v.t (!widens src v.t) fun x l r =>
      convert src v.t (x.vreg l v.a) r (if isInt src then vecWrap x.numctl v.rm else ncWrap x.numctl)

/-- Write a predicate in every active lane, with flags. -/
def State.vecPred (s : State) (f : Nat) (v : VFields) (op : Vector → Nat → Bool × BitVec 5) : State :=
  let x := (s.frond f).vec
  s.modVec f fun _ => ((List.range 128).filter (x.active v)).foldl
    (fun a l => let o := op x l; (a.setPred l v.d o.1).raise l o.2) x

/-- An integer comparison. -/
def intCmp (cond : Nat) (a b : Int) : Bool :=
  match cond with
  | 0 => decide (a = b)
  | 1 => decide (a ≠ b)
  | 2 => decide (a < b)
  | 3 => decide (a ≤ b)
  | 4 => decide (b < a)
  | 5 => decide (b ≤ a)
  | _ => false

def execCmp (f : Nat) (v : VFields) (s : State) : Out :=
  let cond := immLow v 3
  vrow f 0x0E v 1 (anyType v.t && decide (cond ≤ 6)) s fun _ s => s.vecPred f v fun x l =>
    match typeInt v.t with
    | some w => (intCmp cond (intVal w (x.vreg l v.a)) (intVal w (x.vreg l v.b)), 0)
    | none => fCmp v.t cond (x.vreg l v.a) (x.vreg l v.b)

def execClassify (f : Nat) (v : VFields) (s : State) : Out :=
  vrow f 0x0F v 1 (isFloat v.t) s fun _ s => s.vecPred f v fun x l =>
    (fClass v.t (x.vreg l v.a) &&& immLow v 6 != 0, 0)

/-- A bitwise or shift operation on the integer width of t. -/
def State.vecBits (s : State) (f : Nat) (v : VFields) (op : Nat → Nat → Nat → Nat) : State :=
  match typeInt v.t with
  | some w => s.vecMap f v v.t false fun x l _ => ⟨op w (x.vreg l v.a % 2 ^ w) (x.vreg l v.b % 2 ^ w), 0⟩
  | none => s

def execAnd (f : Nat) (v : VFields) (s : State) : Out :=
  vrow f 0x10 v 1 (isInt v.t) s fun _ s => s.vecBits f v fun _ a b => a &&& b

def execOr (f : Nat) (v : VFields) (s : State) : Out :=
  vrow f 0x11 v 1 (isInt v.t) s fun _ s => s.vecBits f v fun _ a b => a ||| b

def execXor (f : Nat) (v : VFields) (s : State) : Out :=
  vrow f 0x12 v 1 (isInt v.t) s fun _ s => s.vecBits f v fun _ a b => a ^^^ b

def execShl (f : Nat) (v : VFields) (s : State) : Out :=
  vrow f 0x13 v 1 (isInt v.t) s fun _ s => s.vecBits f v fun w a b => a * 2 ^ (b % w) % 2 ^ w

def execShr (f : Nat) (v : VFields) (s : State) : Out :=
  vrow f 0x14 v 1 (isInt v.t) s fun _ s => s.vecBits f v fun w a b => a / 2 ^ (b % w)

def execShra (f : Nat) (v : VFields) (s : State) : Out :=
  vrow f 0x15 v 1 (isInt v.t) s fun _ s => s.vecBits f v fun w a b => unsignedOf w (signed w a / 2 ^ (b % w))

/-- SEL: the selecting predicate is c; it runs in every lane (instruction notes after the opcode table). -/
def execSel (f : Nat) (v : VFields) (s : State) : Out :=
  vrow f 0x18 v 1 (anyType v.t) s fun _ s => s.vecMap f { v with p := 0, pn := false } v.t false fun x l _ =>
    ⟨if x.pred l v.c then x.vreg l v.a else x.vreg l v.b, 0⟩

def execMovi (f : Nat) (v : VFields) (s : State) : Out :=
  vrow f 0x19 v 1 (anyType v.t) s fun _ s => s.vecMap f v v.t false fun _ _ _ => ⟨unsignedOf 64 v.imm, 0⟩

def execMovs (f : Nat) (v : VFields) (s : State) : Out :=
  vrow f 0x1A v 1 (anyType v.t) s fun _ s => s.vecMap f v v.t false fun x _ _ => ⟨(x.sreg v.a).toNat, 0⟩

def execLane (f : Nat) (v : VFields) (s : State) : Out :=
  vrow f 0x1B v 1 (v.t == 4) s fun _ s => s.vecMap f v 4 false fun _ l _ => ⟨l, 0⟩

/-- RNG: the next output of the lane's generator, 64 bits (R86, R170). -/
def execRng (f : Nat) (v : VFields) (s : State) : Out :=
  vrow f 0x1C v 1 true s fun _ s =>
    let x := (s.frond f).vec
    let r := ((List.range 128).filter (x.active v)).foldl
      (fun (a : Vector × List (Nat × Dword)) l =>
        let o := genStep (sget (fun _ => genReset) a.2 (f * 128 + l))
        (a.1.setVreg l v.d o.toNat, sput (fun _ => genReset) a.2 (f * 128 + l) o)) (x, s.gens)
    { s.modVec f (fun _ => r.1) with gens := r.2 }

def execXlane (f : Nat) (v : VFields) (s : State) : Out :=
  vrow f 0x1D v 1 (anyType v.t) s fun _ s => s.vecMap f v v.t false fun x l _ => ⟨x.vreg (l ^^^ immLow v 7) v.a, 0⟩

/-! ### Reductions -/

/-- The working list of a reduction tree, (lane, code), with the lowest active lane under each node; generators, and the
engine for its flags. -/
structure RedAcc where
  out : List (Option Nat × Nat)
  gens : List (Nat × Dword)
  vec : Vector

/-- One level: neighbours are combined; the draw and the flags are those of the lowest active lane under the pair, and a pair
of inactive lanes draws nothing and raises nothing (R165; log entry 16). -/
def redLevel (f : Nat) (v : VFields) (op : Rounding → Nat → Nat → FlagResult) (rounds : Bool) :
    List (Option Nat × Nat) → RedAcc → RedAcc
  | a :: b :: r, acc =>
    match a.1.or b.1 with
    | none => redLevel f v op rounds r { acc with out := acc.out ++ [(none, (op .nearest a.2 b.2).code)] }
    | some l =>
      let (rnd, g) := if rounds then vecRound acc.vec.numctl v.rm acc.gens (f * 128 + l) else (.nearest, acc.gens)
      let o := op rnd a.2 b.2
      redLevel f v op rounds r { out := acc.out ++ [(some l, o.code)], gens := g, vec := acc.vec.raise l o.flags }
  | l, acc => { acc with out := acc.out ++ l }

/-- Seven levels over lane numbers (R168). -/
def redTree (f : Nat) (v : VFields) (op : Rounding → Nat → Nat → FlagResult) (rounds : Bool) : Nat → RedAcc → RedAcc
  | 0, a => a
  | n + 1, a => redTree f v op rounds n (redLevel f v op rounds a.out { a with out := [] })

/-- What an inactive lane contributes (R168). -/
def redIdentity (t kind : Nat) : Nat :=
  match kind with
  | 1 => match typeInt t with
    | some w => 2 ^ (w - 1) - 1
    | none => match typeFmt t with | some f => f.encode (.inf false) | none => 0
  | 2 => match typeInt t with
    | some w => 2 ^ (w - 1)
    | none => match typeFmt t with | some f => f.encode (.inf true) | none => 0
  | _ => 0

/-- The combining operation of RED. -/
def redOp (t kind : Nat) (wrap : Bool) (r : Rounding) (a b : Nat) : FlagResult :=
  match kind with
  | 0 => match typeInt t with
    | some w => ⟨intResult w wrap (intVal w a + intVal w b), 0⟩
    | none => match typeFmt t with | some f => fAdd t f r a b | none => ⟨0, 0⟩
  | 1 => minMaxOf t false a b
  | 2 => minMaxOf t true a b
  | _ => ⟨a ||| b, 0⟩

def execRed (f : Nat) (v : VFields) (s : State) : Out :=
  let kind := immLow v 2
  vrow f 0x1E v 8 (anyType v.t && rmOk v.t v.rm) s fun _ s =>
    let x := (s.frond f).vec
    let ins := (List.range 128).map fun l =>
      if x.active v l then (some l, x.vreg l v.a) else (none, redIdentity v.t kind)
    let r := redTree f v (redOp v.t kind (vecWrap x.numctl v.rm)) (kind == 0 && isFloat v.t) 7
      { out := ins, gens := s.gens, vec := x }
    let res := (r.out.getD 0 (none, 0)).2
    { s.modVec f (fun _ => r.vec.setSreg v.d (BitVec.ofNat 64 (regForm v.t res))) with gens := r.gens }

/-! ### Memory -/

/-- A 64-bit address sum. -/
def vecAddr (base : Dword) (off : Int) : Nat := unsignedOf 64 ((base.toNat : Int) + off)

/-- The first lane whose access leaves the buffer (BUFFER_OVERFLOW) or is misaligned (R162): lane, address, whether
out of bounds. -/
def vecBad (size : Nat) (as : List (Nat × Nat)) : Option (Nat × Nat × Bool) :=
  as.findSome? fun a =>
    if frondBytes < a.2 + size then some (a.1, a.2, true)
    else if a.2 % size ≠ 0 then some (a.1, a.2, false) else none

/-- Detail of a kernel's fault (R162): of MISALIGNED the program counter in [63:32] and the lowest faulting lane in [31:0]; of
BUFFER_OVERFLOW the address in [47:0] under the detail table, and in what that leaves the lane in [63:57] and the low nine bits
of the program counter in [56:48]. The manual gives the two fields no places (DESIGN CHOICE, log entry 98). -/
def vecDetail (pc lane addr : Nat) (outside : Bool) : Nat :=
  if outside then lane % 128 * 2 ^ 57 + pc % 512 * 2 ^ 48 + addr % 2 ^ 48 else pc % 2 ^ 32 * 2 ^ 32 + lane % 2 ^ 32

/-- Raise the fault of R162 for the kernel's VEC; the engine has stepped past the instruction. -/
def State.vecFault (s : State) (p f : Nat) (bad : Nat × Nat × Bool) : State :=
  let x := s.frond f
  s.descFault p (if bad.2.2 then cOverflow else cMisaligned) (if bad.2.2 then 2 else 0)
    (vecDetail ((x.vec.pc + 8191) % 8192) bad.1 bad.2.1 bad.2.2) clsFrond f (s.vecDesc f)

/-- Load elements of a type, one lane each. -/
def State.vecLoad (s : State) (p f : Nat) (v : VFields) (as : List (Nat × Nat)) : State :=
  let n := typeBytes v.t
  match vecBad n as with
  | some b => s.vecFault p f b
  | none => match s.bufFault p f (s.vecDesc f) (as.flatMap fun a => rangeFrom a.2 n) with
    | some s => s
    | none => s.modVec f fun x => as.foldl (fun x a => x.setVreg a.1 v.d (regForm v.t (s.bufNat f a.2 n))) x

/-- Store elements of a type, in lane order. -/
def State.vecStore (s : State) (p f : Nat) (t : Nat) (vs : List (Nat × Nat × Nat)) : State :=
  let n := typeBytes t
  let as := vs.map fun e => (e.1, e.2.1)
  match vecBad n as with
  | some b => s.vecFault p f b
  | none => (s.bufPutFor p f (s.vecDesc f) (wholeBytes (vs.flatMap fun e => cellsAt e.2.1 (leBytes n e.2.2)))).1

/-- Lane addresses of LD and ST (R167). -/
def Vector.strided (x : Vector) (v : VFields) : List (Nat × Nat) :=
  ((List.range 128).filter (x.active v)).map fun l =>
    let stride : Int := if v.b = 0 then typeBytes v.t else ((x.sreg v.b).toNat : Int)
    (l, vecAddr (x.sreg v.a) (v.imm + l * stride))

/-- Lane addresses of LDX and STX: v[b] is read as i32 (log entry 16). -/
def Vector.indexed (x : Vector) (v : VFields) : List (Nat × Nat) :=
  ((List.range 128).filter (x.active v)).map fun l =>
    (l, vecAddr (x.sreg v.a) (signed 32 (x.vreg l v.b) * typeBytes v.t))

/-- Issue cycles of LD and ST (R167). An 8-bit element moves as fast as a 16-bit one. -/
def ldCycles (v : VFields) : Nat := if v.b ≠ 0 then 8 else if v.t = 3 then 2 else 1

/-- The code of a value that a register of a type stores; a W48 store writes zero to bits [63:48] (R100). -/
def storeForm (t v : Nat) : Nat :=
  if t = 3 then (if bitsOf v 48 16 = 0 then v else canonNaN 3) else v % 2 ^ (8 * typeBytes t)

def execLd (f : Nat) (v : VFields) (s : State) : Out :=
  vrow f 0x20 v (ldCycles v) (anyType v.t) s fun p s => s.vecLoad p f v ((s.frond f).vec.strided v)

def execSt (f : Nat) (v : VFields) (s : State) : Out :=
  vrow f 0x21 v (ldCycles v) (anyType v.t) s fun p s =>
    let x := (s.frond f).vec
    s.vecStore p f v.t ((x.strided v).map fun a => (a.1, a.2, storeForm v.t (x.vreg a.1 v.c)))

def execLdx (f : Nat) (v : VFields) (s : State) : Out :=
  vrow f 0x22 v 8 (anyType v.t) s fun p s => s.vecLoad p f v ((s.frond f).vec.indexed v)

def execStx (f : Nat) (v : VFields) (s : State) : Out :=
  vrow f 0x23 v 8 (anyType v.t) s fun p s =>
    let x := (s.frond f).vec
    s.vecStore p f v.t ((x.indexed v).map fun a => (a.1, a.2, storeForm v.t (x.vreg a.1 v.c)))

def execLds (f : Nat) (v : VFields) (s : State) : Out :=
  vrow f 0x24 v 1 true s fun p s =>
    let a := vecAddr ((s.frond f).vec.sreg v.a) v.imm
    match vecBad 8 [(0, a)] with
    | some b => s.vecFault p f b
    | none => match s.bufFault p f (s.vecDesc f) (rangeFrom a 8) with
      | some s => s
      | none => s.modVec f fun x => x.setSreg v.d (BitVec.ofNat 64 (s.bufNat f a 8))

def execSts (f : Nat) (v : VFields) (s : State) : Out :=
  vrow f 0x25 v 1 true s fun p s =>
    let x := (s.frond f).vec
    let a := vecAddr (x.sreg v.a) v.imm
    match vecBad 8 [(0, a)] with
    | some b => s.vecFault p f b
    | none => (s.bufPutFor p f (s.vecDesc f) (wholeBytes (cellsAt a (leBytes 8 (x.sreg v.c).toNat)))).1

/-! ### Scalars, branches and flags -/

/-- Second operand of a scalar operation: s[b], or the immediate when b is 0. -/
def Vector.operand (x : Vector) (v : VFields) : Int := if v.b = 0 then v.imm else signed 64 (x.sreg v.b).toNat

/-- Signed 64-bit arithmetic under R91. -/
def State.scalar (s : State) (f : Nat) (v : VFields) (op : Int → Int → Int) : State :=
  s.modVec f fun x => x.setSreg v.d
    (BitVec.ofNat 64 (intResult 64 (vecWrap x.numctl v.rm) (op (signed 64 (x.sreg v.a).toNat) (x.operand v))))

def execSadd (f : Nat) (v : VFields) (s : State) : Out :=
  vrow f 0x28 v 1 (decide (v.rm ≤ 2)) s fun _ s => s.scalar f v (· + ·)

def execSsub (f : Nat) (v : VFields) (s : State) : Out :=
  vrow f 0x29 v 1 (decide (v.rm ≤ 2)) s fun _ s => s.scalar f v (· - ·)

def execSmul (f : Nat) (v : VFields) (s : State) : Out :=
  vrow f 0x2A v 1 (decide (v.rm ≤ 2)) s fun _ s => s.scalar f v (· * ·)

/-- Shift counts are taken modulo 64, as the vector shifts take theirs modulo the width (log entry 16). -/
def execSshl (f : Nat) (v : VFields) (s : State) : Out :=
  vrow f 0x2B v 1 true s fun _ s => s.modVec f fun x => x.setSreg v.d (x.sreg v.a <<< unsignedOf 6 (x.operand v))

def execSshr (f : Nat) (v : VFields) (s : State) : Out :=
  vrow f 0x2C v 1 true s fun _ s => s.modVec f fun x => x.setSreg v.d (x.sreg v.a >>> unsignedOf 6 (x.operand v))

def execSli (f : Nat) (v : VFields) (s : State) : Out :=
  vrow f 0x2D v 1 true s fun _ s => s.modVec f fun x => x.setSreg v.d (BitVec.ofNat 64 (unsignedOf 64 v.imm))

/-- Branch from the branch instruction's own index by imm (log entry 16). -/
def Vector.branch (x : Vector) (imm : Int) : Vector := { x with pc := unsignedOf 13 ((x.pc : Int) - 1 + imm) }

def execBr (f : Nat) (v : VFields) (s : State) : Out :=
  vrow f 0x30 v 1 true s fun _ s => s.modVec f fun x => x.branch v.imm

def execBnz (f : Nat) (v : VFields) (s : State) : Out :=
  vrow f 0x31 v 1 true s fun _ s => s.modVec f fun x => if x.sreg v.a = 0 then x else x.branch v.imm

def execBz (f : Nat) (v : VFields) (s : State) : Out :=
  vrow f 0x32 v 1 true s fun _ s => s.modVec f fun x => if x.sreg v.a = 0 then x.branch v.imm else x

def execAnyp (f : Nat) (v : VFields) (s : State) : Out :=
  vrow f 0x33 v 1 true s fun _ s => s.modVec f fun x =>
    x.setSreg v.d (if (List.range 128).any fun l => x.pred l v.a then 1 else 0)

def execRdflg (f : Nat) (v : VFields) (s : State) : Out :=
  vrow f 0x34 v 1 true s fun _ s => s.vecMap f v 4 false fun x l _ => ⟨(x.flag l).toNat, 0⟩

def execClrflg (f : Nat) (v : VFields) (s : State) : Out :=
  vrow f 0x35 v 1 true s fun _ s => s.modVec f fun x =>
    { x with flags := sclear (fun l => x.active v l) x.flags }

/-- HALT ends the kernel: the OR of every lane's flags goes to VEC_FLAGS (R169). -/
def execHalt (f : Nat) (v : VFields) (s : State) : Out :=
  vrow f 0x3F v 1 true s fun _ s =>
    let fl := (List.range 128).foldl (fun a l => a ||| (s.frond f).vec.flag l) 0
    (s.setReg clsFrond f 0x1120 (s.reg clsFrond f 0x1120 ||| fl.setWidth 64)).modVec f fun x => { x with running := false }

end Sys2Proof.Machine
end

