-- ==== Sys2Proof/Machine/Verify.lean ====
section
/-! DEFINITION. PLAN_VERIFY: the checks of the header, of every section and of the tables they spell (R30, R166, R223, R228,
R260, R288, R289, R301, R305, R307, R308, R370 to R377, R384, R394 to R396, R419, R547, R590, R591). -/

namespace Sys2Proof.Machine

/-- Failures of one item. -/
def fails (sect off : Nat) (cs : List Nat) : List Fail := cs.map fun c => ⟨sect, off, c⟩

/-! ### The header and the sections' lengths -/

/-- Whether a device address lies in the HBM4 or DDR5 regions, in any view. -/
def inHbmDdr (a : Nat) : Bool := decide (0x0100_0000_0000 ≤ a ∧ a < 0x1000_0000_0000)

/-- The header table's fields. -/
def headerVerify (h : List Byte) : List Fail :=
  let f := fun (o n : Nat) => imgNat h o n
  fails 0 40 (when (f 40 2 == 0 || decide (256 < f 40 2)) 1)
    ++ fails 0 42 (when (f 42 2 == 0 || decide (256 < f 42 2)) 1)
    ++ fails 0 44 (when (f 44 1 == 0 || decide (16 < f 44 1)) 1)
    ++ fails 0 45 (when (decide (1 < f 45 1)) 1)
    ++ fails 0 48 (when (decide (f 48 4 < 2000) || decide (2000000 < f 48 4)) 7)
    ++ fails 0 56 (when (f 56 8 % 128 != 0 || decide (0x4000_0000 ≤ f 56 8)) 3)
    ++ fails 0 72 (when (f 72 8 % 64 != 0 || !inHbmDdr (f 72 8)) 3)

/-- The length a section must have, judged for the sections the image holds. -/
def lengthOk (pl : Plan) (t n : Nat) : Bool :=
  let fronds := (frondsOf pl.fronds).length
  match t with
  | 0x01 => decide (8 * 128 * pl.programSets * pl.framesPerStep ≤ n)
  | 0x02 => n == 4 * cdiv (sectOf pl.image 1).length 64
  | 0x03 | 0x06 => n % 32 == 0
  | 0x04 => n == 1024
  | 0x05 => n == 32768
  | 0x07 => decide (256 ≤ n) && (n - 256) % 192 == 0 && decide ((n - 256) / 192 ≤ 16)
  | 0x08 => n % 64 == 0
  | 0x09 => n % 128 == 0
  | 0x0A => n == 16384 * fronds
  | 0x0C => n == 16 * pl.programSets * pl.framesPerStep * pl.frameTicks
  | _ => true

def lengthFails (pl : Plan) : List Fail :=
  (pl.image.filter fun e => e.1 != 0 && !lengthOk pl e.1 e.2.length).map fun e => ⟨e.1, 0, 1⟩

/-- R419: a plan whose proof assumed a higher DDR5 speed than the channels run at. -/
def State.rateFails (s : State) (h : List Byte) : List Fail :=
  fails 0 0 (when (decide (s.pkg.ddrRate < Config.assumedRate h)) 5)

/-! ### The program index (R376, R377) -/

/-- The program index of a loaded plan, with package stream IDs. -/
def State.loadedIndex (s : State) (p : Nat) (pl : Plan) : List IndexEntry :=
  let n := pl.programSets * pl.framesPerStep * 128
  (indexOf pl.programSets pl.framesPerStep (s.peek (some p) pl.progBase (8 * n)))

/-- Descriptors that section 0x01 holds, and those its index takes. -/
def Plan.units (pl : Plan) : Nat := (sectOf pl.image 1).length / 64
def Plan.indexUnits (pl : Plan) : Nat := cdiv (8 * 128 * pl.programSets * pl.framesPerStep) 64

/-- Whether an index entry's program lies in section 0x01, after the index. -/
def Plan.placed (pl : Plan) (e : IndexEntry) : Bool := decide (pl.indexUnits ≤ e.offset ∧ e.offset + e.count ≤ pl.units)

/-- An index entry: a frond of the plan, a count, a program in the section, a program stream of the frond. -/
def indexFails (pl : Plan) (e : IndexEntry) : List Fail :=
  fails 1 e.pos (when (!pl.fronds.getLsbD e.frond) 2
    ++ when (!pl.placed e || !(match pl.entryOf e.stream with
        | some x => strKind x == 0 && !strRingInFrond x && strConsumerFrond x == e.frond
        | none => false)) 3
    ++ when (decide (65536 < e.count)) 4)

/-- The programs as they stand in the program area, with their tags. -/
def State.programs (s : State) (p : Nat) (pl : Plan) (es : List IndexEntry) : List Prog :=
  (es.filter pl.placed).map fun e => { e := e, ds := (rangeFrom e.offset e.count).map fun u =>
    { off := 64 * u, raw := s.peekNat (some p) (pl.progBase + 64 * u) 64, tag := s.peekNat (some p) (pl.tagBase + 4 * u) 4 } }

/-! ### Streams (R305, R307, R308) -/

/-- The ring of an entry: in whose buffer, its base and its bytes. -/
def ringOf (e : BitVec 256) : Option Nat × Nat × Nat :=
  (if strRingInFrond e then some (strRingFrond e) else none, strBase e, 64 * strUnits e * strDepth e)

/-- Whether two rings share a byte. -/
def ringsMeet (a b : BitVec 256) : Bool :=
  (ringOf a).1 == (ringOf b).1 && spans (ringOf a).2.1 (ringOf a).2.2 (ringOf b).2.1 (ringOf b).2.2

/-- Ends that frond f holds among a list of entries; the ends of a ticketed array are not used. -/
def endsOf (f : Nat) (es : List (BitVec 256)) : Nat :=
  ((es.filter fun e => strKind e == 0).map fun e =>
    (if strProducerFrond e = f then 1 else 0) + (if strConsumerFrond e = f then 1 else 0)).sum

/-- Fields and codes of a stream entry. -/
def streamFieldsOk (e : BitVec 256) : Bool :=
  field e 224 32 == 0 && field e 89 7 == 0 && field e 72 8 == 0 && field e 57 7 == 0 && field e 49 7 == 0 && field e 0 42 == 0
    && strDepth e != 0 && strUnits e != 0 && (strRingInFrond e || strRingFrond e == 0)
    && (strKind e == 0 || strProducerFrond e == 0)

/-- One entry of the stream table, with those before it. -/
def State.streamFails (s : State) (p : Nat) (pl : Plan) (programs : List Nat) (i : Nat) (e : BitVec 256) (id : Nat) : List Fail :=
  let before := (pl.streams.take i)
  let x := s.part p
  let (buf, base, n) := ringOf e
  let prog := programs.contains id
  let outside := match buf with
    | some f => !x.fronds.getLsbD f || decide (frondBytes < base + n)
        || (strKind e == 0 && f != strProducerFrond e && f != strConsumerFrond e)
    | none => decide (0x4000_0000 < base + n) || !s.granted p base n
  let area := buf.isNone && spans base n pl.progBase pl.progBytes
  let inside := buf.isNone && decide (pl.progBase ≤ base ∧ base + n ≤ pl.progBase + pl.progBytes)
  fails 3 (32 * i) (when (!streamFieldsOk e || before.any fun y => strPlan y.1 == strPlan e) 2
    ++ when (base % 64 != 0 || outside || (if prog then !inside else area)
        || (strKind e == 0 && (!x.fronds.getLsbD (strProducerFrond e) || !x.fronds.getLsbD (strConsumerFrond e)))
        || before.any fun y => ringsMeet y.1 e && !(prog && programs.contains y.2)) 3
    ++ when ((List.range 128).any fun f => decide (256 < endsOf f ((pl.streams.take (i + 1)).map (·.1)))
        && decide (endsOf f (before.map (·.1)) ≤ 256)) 5
    ++ when (decide (12800 < bridgeNeed ((pl.streams.take (i + 1)).map (·.1))) && decide (bridgeNeed (before.map (·.1)) ≤ 12800)) 5)

/-! ### Regulators, wheels, buffer map and shapes -/

/-- A regulator entry (R318): zero outside the plan. -/
def regulatorFails (pl : Plan) (f : Nat) : List Fail :=
  let e := imgNat (sectOf pl.image 4) (8 * f) 8
  let ok := if pl.fronds.getLsbD f then
      bitsOf e 56 8 == 0 && bitsOf e 18 14 == 0 && decide (512 ≤ bitsOf e 32 24) && decide (1 ≤ bitsOf e 0 18) && decide (bitsOf e 0 18 ≤ 131072)
    else e == 0
  fails 4 (8 * f) (when (!ok) 2)

/-- A slot-wheel entry (R301). -/
def wheelFails (pl : Plan) (k : Nat) : List Fail :=
  let e := imgNat pl.wheels (2 * k) 2
  let owner := e % 4096
  let ok := bitsOf e 12 2 == 0 && match e / 2 ^ 14 with
    | 0 => owner == 0
    | 1 => pl.streams.any fun x => strPlan x.1 == owner
    | 2 => decide (owner ≤ 0x30)
    | _ => false
  fails 5 (2 * k) (when (!ok) 2)

/-- A buffer-map entry (R373). -/
def State.regionFails (s : State) (p : Nat) (pl : Plan) (i : Nat) : List Fail :=
  let b := (sectOf pl.image 6).drop (32 * i)
  let r := regionOf (b.take 32)
  let within_ := fun (lo hi : Nat) => decide (lo ≤ r.base ∧ r.base + r.length ≤ hi) && s.granted p r.base r.length
  let placed := match r.kind with
    | 1 | 5 => within_ 0 0x4000_0000
    | 2 => within_ 0x0100_0000_0000 0x01C0_0000_0000 || within_ 0x0800_0000_0000 0x08C0_0000_0000
    | 3 => within_ 0x0200_0000_0000 0x0400_0000_0000
    | 4 => (s.part p).fronds.getLsbD r.frond && !beyond r.base r.length
    | _ => true
  fails 6 (32 * i) (when (r.kind == 0 || decide (5 < r.kind) || imgNat b 2 6 != 0 || imgNat b 24 8 != 0 || (r.kind != 4 && r.frond != 0)) 2
    ++ when (!placed) 3)

/-- The shape table (R384): class records, then bucket records. -/
def shapeFails (pl : Plan) : List Fail :=
  let n := fun (o k : Nat) => imgNat pl.shapes o k
  if pl.shapes.isEmpty then fails 0 56 (when (pl.shapeAddr != 0) 3)
  else
    ((List.range 8).flatMap fun c =>
      let o := 32 * c
      let k := n o 1
      let dims := n (o + 1) 1
      fails 7 o (when (decide (2 < k) || n (o + 2) 14 != 0 || (k != 1 && n (o + 16) 16 != 0)
          || (if k = 0 then dims != 0 else dims == 0 || decide (4 < dims))
          || ((List.range 4).any fun i => decide (dims ≤ i) && n (o + 16 + 4 * i) 4 != 0)) 2))
    ++ (List.range pl.buckets).flatMap fun b =>
      let o := 256 + 192 * b
      fails 7 o (when (n (o + 1) 63 != 0 || ((List.range 32).any fun i =>
            (pl.shapeKind (i / 4) != 2 || decide (pl.shapeDims (i / 4) ≤ i % 4)) && n (o + 64 + 4 * i) 4 != 0)) 2
        ++ when (decide (pl.programSets ≤ n o 1)) 4)

/-! ### Mask policies (R223, R228) -/

/-- Tensor rows of a range that R237 counts: those below rows_valid in each tile row, read from its first tile's header. -/
def rowsCounted (pol : BitVec 512) (heads : List Nat) (first n : Nat) : Nat :=
  (((List.range n).filter fun j => (first + j) % max 1 (polCols pol) == 0).map fun j => thRows (heads.getD (first + j) 0)).sum

/-- Edit counts that descriptors can make in one build of policy i (R228). -/
def editsOf (pol : BitVec 512) (heads : List Nat) (i : Nat) (ns : List Node) : Nat :=
  (ns.map fun a =>
    let n := dscBody a.d.raw 28 20
    let most := n * polCap pol
    let rows := rowsCounted pol heads (dscBody a.d.raw 8 20) n
    if a.policyIf [0x40] = some i then
      let b := pruneOf a.d.raw
      if b.method = 1 then min most (if b.perRow then b.param * rows else b.param) else most
    else if a.policyIf [0x41] = some i then
      let b := regrowOf a.d.raw
      min most (if b.perRow then b.k * rows else b.k)
    else 0).sum

/-- E of R228: the largest sum over the program sets. -/
def editsMost (pl : Plan) (ps : List Prog) (heads : List Nat) (i : Nat) (pol : BitVec 512) : Nat :=
  ((List.range pl.programSets).map fun k => editsOf pol heads i ((List.range pl.framesPerStep).flatMap (nodesOf ps k))).foldl max 0

/-- Device ranges of a policy. -/
def policyRanges (pol : BitVec 512) : List (Nat × Nat) :=
  let n := polTiles pol * slotBytes pol
  [(polRegion0 pol, n), (polRegion1 pol, n), (polEdit pol, polEditBytes pol)]

/-- Whether any two ranges of a list share a byte, by the canonical pieces of each. -/
def State.rangesMeet (s : State) (a b : Nat × Nat) : Bool :=
  (rangeFrom b.1 b.2).any fun x => match s.resolveDirect x with
    | some y => inRange a.1 a.2 y
    | none => false

/-- One policy record: its fields, its sizes, its regions, and the initial tiles of region 0. -/
def State.policyFails (s : State) (p : Nat) (pl : Plan) (ps : List Prog) (i : Nat) (pol : BitVec 512) : List Fail :=
  let total := polTiles pol
  let size := total * slotBytes pol
  let rs := policyRanges pol
  let fieldsOk := [(496, 16), (432, 16), (368, 16), (304, 16), (144, 16), (49, 15)].all (fun r => field pol r.1 r.2 == 0)
    && decide (polFmt pol ≤ 7) && polRows pol != 0 && polCols pol != 0 && polCap pol != 0 && (polInitUse pol || polInit pol == 0)
    && polTileBytes pol % 64 == 0 && polEditBytes pol % 64 == 0
  let aligned := polRegion0 pol % 4096 == 0 && polRegion1 pol % 4096 == 0 && polEdit pol % 64 == 0 && polInit pol % 64 == 0
  let tileAt := fun (t : Nat) => ((fun o => s.devByte p (polRegion0 pol + t * slotBytes pol + o)) : TileBytes)
  let tiles := (List.range total).map tileAt
  let heads := tiles.map tileHeader
  fails 8 (64 * i) (when (!fieldsOk) 2
    ++ when (heads.any fun h => thGen h != polGenStart pol) 2
    ++ when (!aligned || rs.any (fun r => !s.granted p r.1 r.2)
        || (rs.zipIdx.any fun x => (rs.take x.2).any fun y => s.rangesMeet y x.1)) 3
    ++ when (tiles.any fun g => (checkTile g true true true fun f => f == polFmt pol).isSome) 3
    ++ when (heads.any (fun h => decide (polCap pol < thNnz h)) || (polConstant pol && (heads.map thNnz).sum != polBudget pol)) 4
    ++ when (total == 0 || decide (1048575 < total) || decide (2 ^ 36 < size)
        || decide (polTileBytes pol < min (compressedSize (polFmt pol) (polCap pol)) (denseSize (polFmt pol)))
        || decide (polEditBytes pol < 16 * total + 4 * editsMost pl ps heads i pol)) 5)

/-! ### Update records (R260, R288, R289) -/

/-- A binary32 word in [0, 1): either zero, or a positive value below 1. -/
def unitInterval (w : Nat) : Bool := decide (w < 0x3F80_0000) || w == 0x8000_0000
/-- +0 or a positive finite binary32 word. -/
def nonNegative (w : Nat) : Bool := decide (w < 0x7F80_0000)

/-- The loss-scale record's conditions (R289); growth_interval is at least 1. -/
def lossOk (r : Nat) : Bool :=
  positiveNormal (lsScale r) && positiveNormal (lsMin r) && positiveNormal (lsMax r)
    && decide (lsMin r ≤ lsMax r) && decide (lsMin r ≤ lsScale r) && decide (lsScale r ≤ lsMax r)
    && lsInterval r != 0 && bitsOf r 200 56 == 0 && decide (bitsOf r 192 8 ≤ 3)

/-- A shard record's conditions (R260); n_state is the policy's where only masked UPDATEs name the shard. -/
def shardOk (r : Nat) (masked : Bool) : Bool :=
  let rule := bitsOf r 384 4
  decide (rule ≤ 3) && unitInterval (shBeta1 r) && unitInterval (shBeta2 r) && nonNegative (shLr r) && nonNegative (shDecay r)
    && positiveNormal (shGradMul r) && (decide (1 < rule) || positiveNormal (shEps r)) && !shTorn r
    && (masked || (ruleStates rule).contains (shStates r))
    && bitsOf r 393 119 == 0 && bitsOf r 368 16 == 0 && (rule == 0 || shStats r == 0) && shStats r % 64 == 0

/-- Entry i of section 0x09. -/
def State.recordFails (s : State) (p : Nat) (pl : Plan) (ns : List Node) (i : Nat) : List Fail :=
  let e := (sectOf pl.image 9).drop (128 * i)
  let a := imgNat e 0 8
  let r := imgNat e 64 (if i = 0 then 32 else 64)
  let named := ns.filter fun n => n.isUpdate && n.upd.shardAddr == a
  let masked := !named.isEmpty && named.all fun n => !n.upd.dense
  let n := if i = 0 then 32 else 64
  fails 9 (128 * i) (when (i == 0 && a != pl.lossScaleAddr) 1
    ++ when (imgNat e 8 56 != 0 || (i == 0 && imgNat e 96 32 != 0) || (if i = 0 then !lossOk r else !shardOk r masked)) 2
    ++ when (a % n != 0 || inWindow a || !s.granted p a n) 3)

/-! ### Kernels (R166) -/

/-- Whether a vector instruction holds none of the reserved codes for its opcode. -/
def vecCodesOk (w : Nat) : Bool :=
  let t := bitsOf w 26 3
  let rm := bitsOf w 29 3
  let any := anyType t && rmOk t rm
  decide (t ≤ 6) && decide (rm ≤ 5) && match bitsOf w 56 8 with
  | 0x01 => decide (t ≤ 2) && rmOk t rm
  | 0x02 | 0x03 | 0x09 | 0x0A => any
  | 0x04 => any && t != 3
  | 0x05 | 0x06 => decide (t ≤ 1) && rmOk t rm
  | 0x07 | 0x08 => anyType t
  | 0x0B | 0x0C => t == 0 && rmOk t rm
  | 0x0D => anyType t && anyType (bitsOf w 0 3) && (if isInt t && isInt (bitsOf w 0 3) then decide (rm ≤ 2) else decide (rm ≤ 5))
  | 0x0E => anyType t && decide (bitsOf w 0 3 ≤ 6)
  | 0x0F => isFloat t
  | 0x10 | 0x11 | 0x12 | 0x13 | 0x14 | 0x15 => isInt t
  | 0x18 | 0x19 | 0x1A | 0x1D | 0x20 | 0x21 | 0x22 | 0x23 => anyType t
  | 0x1B => t == 4
  | 0x1E => any
  | 0x28 | 0x29 | 0x2A => decide (rm ≤ 2)
  | 0x1C | 0x24 | 0x25 | 0x2B | 0x2C | 0x2D | 0x30 | 0x31 | 0x32 | 0x33 | 0x34 | 0x35 | 0x3F => true
  | _ => false

/-- A branch whose target lies outside the instruction memory. -/
def branchOut (w k : Nat) : Bool :=
  let op := bitsOf w 56 8
  let target := (k : Int) + signed 26 (bitsOf w 0 26)
  (op == 0x30 || op == 0x31 || op == 0x32) && !decide (0 ≤ target ∧ target < 8192)

/-- The kernels of section 0x0B. -/
def kernelFails (pl : Plan) : List Fail :=
  let b := sectOf pl.image 0x0B
  if b.isEmpty then []
  else (List.range (frondsOf pl.fronds).length).flatMap fun i =>
    let o := (Config.kernelLayout b i).1
    (List.range 8192).flatMap fun k =>
      let w := imgNat b (o + 8 * k) 8
      fails 0x0B (o + 8 * k) (when (!vecCodesOk w) 2 ++ when (branchOut w k) 3)

/-! ### Initial data (R371) and the protection table (R547) -/

/-- Records of section 0x0D that are not whole, or whose head, padding or target breaks R371. -/
def State.initialFails (s : State) (p : Nat) (pl : Plan) : List Fail :=
  let b := sectOf pl.image 0x0D
  let rs := initialOf b
  let next := ((rs.getLast?).map fun r => r.1 + p64 (16 + r.2.2.length)).getD 0
  (rs.flatMap fun r => fails 0x0D r.1
      (when (((b.drop (r.1 + 16 + r.2.2.length)).take (p64 (16 + r.2.2.length) - 16 - r.2.2.length)).any (· != 0)) 1
        ++ when (inWindow r.2.1 || !s.granted p r.2.1 r.2.2.length) 3))
    ++ fails 0x0D next (when (decide (next < b.length)) 1)

/-- Where in section 0x0D the byte of a device address stands. -/
def Plan.initialOff (pl : Plan) (a : Nat) : Nat :=
  ((initialOf (sectOf pl.image 0x0D)).findSome? fun r =>
    if r.2.1 ≤ a ∧ a < r.2.1 + r.2.2.length then some (r.1 + 16 + (a - r.2.1)) else none).getD 0

/-- Whether a frame program builds policy i. -/
def builds (ns : List Node) (i : Nat) : Bool := ns.any fun a => (a.policyIf [0x40, 0x41, 0x42]) == some i

/-- One entry of the protection table, and those before it. -/
def State.protectionFails (s : State) (p : Nat) (pl : Plan) (ns : List Node) : List Fail :=
  match s.protTable p with
  | none => []
  | some t =>
    let base := pl.resumeAddr + 4096
    let snaps := t.entries.filter (·.snapshot)
    let image := 8192 + (snaps.map fun e => (((s.entryRanges p e).head?).map (·.2)).getD 0).sum
    (t.entries.zipIdx.flatMap fun x =>
      let (e, i) := x
      let a := base + 64 + 32 * i
      let flags := s.peekNat (some p) (a + 1) 1
      let rs := s.entryRanges p e
      let before := (t.entries.take i).flatMap (s.entryRanges p)
      fails 0x0D (pl.initialOff a) (when ((e.kind != 1 && e.kind != 2) || flags == 0 || decide (3 < flags)
            || (e.kind == 2 && e.snapshot && builds ns e.policy)) 2
        ++ when (rs.isEmpty || rs.any (fun r => !inHbmDdr r.1 || !s.granted p r.1 r.2)
            || rs.any fun r => before.any fun q => s.rangesMeet q r) 3))
    ++ fails 0x0D (pl.initialOff (base + 24)) (when ((t.interval != 0 || !snaps.isEmpty) && decide (t.size < 2 * image)) 5)

/-! ### The power profile (R590, R591) -/

/-- P_max and P_min of a record in mW, priced at 0.80 V. -/
def profMax (r : Nat) : Nat := 800 * (profPeak r 0 + profPeak r 1)
def profMin (r : Nat) : Nat := 800 * (profLeast r 0 + profLeast r 1)

/-- Records of a set in the order of its ticks. -/
def Plan.setProfile (pl : Plan) (set : Nat) : List (Nat × Nat) :=
  (List.range (pl.framesPerStep * pl.frameTicks)).map fun k =>
    let i := set * pl.framesPerStep * pl.frameTicks + k
    (16 * i, imgNat pl.power (16 * i) 16)

/-- Pairs of consecutive ticks: within a set's step, and from the last tick of any set to the first of any (R590). -/
def Plan.tickPairs (pl : Plan) : List ((Nat × Nat) × (Nat × Nat)) :=
  let sets := (List.range pl.programSets).map pl.setProfile
  (sets.flatMap fun l => l.zip l.tail)
    ++ (sets.filterMap List.getLast?).flatMap fun a => (sets.filterMap List.head?).map fun b => (a, b)

/-- Ramp demand, in mW from one tick to the next: R590's D times T. -/
def Plan.rampDemand (pl : Plan) : Nat :=
  ((pl.tickPairs.flatMap fun x => [profMax x.2.2 - profMin x.1.2, profMax x.1.2 - profMin x.2.2])
    ++ (List.range pl.programSets).filterMap fun k => ((pl.setProfile k).head?).map fun r => profMax r.2 - profMin r.2).foldl max 0

/-- Largest P_max of a plan, in mW. -/
def Plan.largestPeak (pl : Plan) : Nat :=
  ((List.range pl.programSets).flatMap fun k => (pl.setProfile k).map fun r => profMax r.2).foldl max 0

/-- One record on its own. -/
def recordPowerOk (period r : Nat) : Bool :=
  ([0, 1].all fun x => decide (profLeast r x ≤ profPeak r x) && decide (profPeak r x ≤ 1500) && decide (profPeak r x - profLeast r x ≤ 600))
    && decide (bitsOf r 96 16 ≤ 500) && decide (bitsOf r 112 16 ≤ 300)
    && decide (profMin r * period ≤ 100000 * bitsOf r 64 32) && decide (100000 * bitsOf r 64 32 ≤ profMax r * period)

/-- R591: each record, each pair of consecutive ticks, and the whole profile against the limits in force. -/
def State.profileFails (s : State) (pl : Plan) : List Fail :=
  ((List.range pl.programSets).flatMap fun k => (pl.setProfile k).flatMap fun r =>
      fails 0x0C r.1 (when (!recordPowerOk pl.tickPeriod r.2) 6))
    ++ (pl.tickPairs.flatMap fun x => fails 0x0C (max x.1.1 x.2.1) (when ([0, 1].any fun y =>
        decide (600 < profPeak x.1.2 y - profLeast x.2.2 y) || decide (600 < profPeak x.2.2 y - profLeast x.1.2 y)) 6))
    ++ fails 0x0C 0 (when (decide (750 * s.power.ramp * pl.tickPeriod < 100000 * pl.rampDemand)
        || decide (1000 * s.power.limit < pl.largestPeak + 530000)) 6)

/-! ### PLAN_VERIFY (R395) -/

/-- Order in which failures are reported: section, offset, check class. -/
def Fail.before (a b : Fail) : Bool :=
  decide (a.sect < b.sect ∨ (a.sect = b.sect ∧ (a.off < b.off ∨ (a.off = b.off ∧ a.cls < b.cls))))

def firstOf : List Fail → Option Fail
  | [] => none
  | f :: r => match firstOf r with
    | none => some f
    | some g => some (if g.before f then g else f)

/-- Device ranges that PLAN_VERIFY reads: the programs with their tags, the ticket counters, the initial tiles of each
region 0, and the protection table. -/
def Plan.verifyReads (pl : Plan) : List (Nat × Nat) :=
  [(pl.progBase, p64 (sectOf pl.image 1).length + (sectOf pl.image 2).length)] ++ pl.tickets.map (fun a => (a.1, 64))
    ++ pl.policies.flatMap (fun pol => (List.range (polTiles pol)).map fun t => (polRegion0 pol + t * slotBytes pol, polTileBytes pol))
    ++ (if (sectOf pl.image 0x0D).isEmpty then [] else [(pl.resumeAddr + 4096, 64)])

/-- Read ranges one after another; the first unit that cannot be read ends the reading (R647). -/
def State.readAll (s : State) : List (Nat × Nat) → State × Option (Nat × Nat)
  | [] => (s, none)
  | r :: rest =>
    let x := s.fwRead r.1 r.2
    match x.bad with
    | some b => (x.state, some b)
    | none => State.readAll x.state rest

/-- Every check but the power profile. -/
def State.planFails (s : State) (p : Nat) (pl : Plan) : List Fail :=
  let h := sectOf pl.image 0
  let index := s.loadedIndex p pl
  let ps := s.programs p pl index
  let ids := index.map (·.stream)
  let ns := (List.range pl.programSets).flatMap fun k => (List.range pl.framesPerStep).flatMap (nodesOf ps k)
  headerVerify h ++ lengthFails pl ++ s.rateFails h ++ index.flatMap (indexFails pl)
    ++ ps.flatMap (s.progFails p pl ids) ++ s.shapeTableFails pl ++ s.planFrameFails p pl ps
    ++ (pl.streams.zipIdx.flatMap fun e => s.streamFails p pl ids e.2 e.1.1 e.1.2)
    ++ (List.range 128).flatMap (regulatorFails pl) ++ (List.range (pl.wheels.length / 2)).flatMap (wheelFails pl)
    ++ (List.range pl.bufferMap.length).flatMap (s.regionFails p pl) ++ shapeFails pl
    ++ (pl.policies.zipIdx.flatMap fun e => s.policyFails p pl ps e.2 e.1)
    ++ (List.range ((sectOf pl.image 9).length / 128)).flatMap (s.recordFails p pl ns) ++ kernelFails pl
    ++ s.initialFails p pl ++ s.protectionFails p pl ns

/-- PLAN_VERIFY (R395, R396, R590): every check of the plan, then the power profile; a plan that passes is verified, and its
ramp demand and largest peak stand with it. A recovering partition stays recovering (R538). -/
def State.planVerify (s : State) (p m : Nat) : State :=
  match (s.part p).plan with
  | none => s.notAllowed m (s.part p).state.code
  | some pl =>
    let s := s.modPart p fun x => { x with planVerified := false, state := if x.state == .verified then .loaded else x.state }
    match s.readAll pl.verifyReads with
    | (s, some b) => s.cmdFaulted (some p) m b
    | (s, none) =>
      match (firstOf (s.planFails p pl)).orElse fun _ => firstOf (s.profileFails pl) with
      | some f => s.verifyFailed m f.sect f.cls f.off
      | none =>
        (s.modPart p fun x =>
          { x with planVerified := true, demand := pl.rampDemand, peakMw := pl.largestPeak
                   state := if x.state == .loaded then .verified else x.state }).ok m []

def execPlanVerify (m : Nat) (s : State) : Out := linsoPart m 0x21 anyForm (fun p _ s => s.planVerify p m) s

end Sys2Proof.Machine
end

