-- ==== Sys2Proof/Machine/Resize.lean ====
section
/-! DEFINITION. PARTITION_RESIZE that removes (R408): every device range that a loaded plan names, in its header, its sections,
its programs, its shard records and its protection table. -/

namespace Sys2Proof.Machine

/-! ### Device ranges that descriptors name -/

/-- Device runs of a side of a MOVE that lies at an address of its own; a relative side lies in its stream's ring, which its
entry names, and a mask window in the regions that its policy names. -/
def sideNames (x : Option CopySide) (rel : Bool) (runs : CopySide → List (Nat × Nat)) : List (Nat × Nat) :=
  match x with
  | some x => if rel || x.buf.isSome || inWindow x.base then [] else runs x
  | none => []

/-- A MOVE of a program of frond f: its device runs, and its scale arrays beside device data. -/
def State.moveNames (s : State) (pl : Plan) (f : Nat) (d : Nat) : List (Nat × Nat) :=
  let b := moveOf d
  let id := dscStream d
  let h := copyShape (sget (fun _ => (0 : BitVec 512)) s.shapeTab (256 * f + b.shape))
  let src := pl.sideOf id b.srcAddr b.srcFrond b.srcSpace b.srcRel b.srcLayout b.srcSwz b.srcFmt
  let dst := pl.sideOf id b.dstAddr b.dstFrond b.dstSpace b.dstRel b.dstLayout b.dstSwz b.dstFmt
  let scales := fun (x : Option CopySide) (as : CopySide → List Nat) => match x with
    | some x => if x.buf.isSome then [] else oneRun (as x)
    | none => []
  sideNames src b.srcRel (fun x => x.srcRuns h) ++ sideNames dst b.dstRel (fun x => x.dstRuns h b)
    ++ scales src (fun x => x.scaleSrc b h) ++ scales dst (fun x => x.scaleDst b h)

/-- An UPDATE: its health record, its shard record with the statistics it points to, its gradients, its sums and, of a dense
range, the region with its copy (R258 to R269). -/
def State.updateNames (s : State) (p : Nat) (pl : Plan) (d : Nat) : List (Nat × Nat) :=
  let b := updateOf d
  let shard := s.peekNat (some p) b.shardAddr 64
  let gs := gradBytes b.gradW48
  let pol := pl.policies.getD b.policy 0
  let (nr, nc) := factDims b (if b.dense then b.denseCols else max 1 (polCols pol))
  let health := [(b.healthAddr, 32)]
  if b.dense && b.count == 0 then health
  else
    health ++ [(b.shardAddr, 64)]
      ++ (if b.dense then [(b.regionAddr, denseCopy shard b + (if b.copyFmt = 0 then 0 else 2 * b.count)), (b.gradAddr, gs * b.count)]
          else [(b.gradAddr, b.tileCount * p64 (gs * polCap pol))])
      ++ (if b.phase = 0 then [] else [(b.sumAddr, sumSize nr nc), (shStats shard, statCol nr + 4 * nc)])

/-- Device ranges that one descriptor of a program of frond f names. -/
def State.dscNames (s : State) (p : Nat) (pl : Plan) (f : Nat) (d : Dsc) : List (Nat × Nat) :=
  match d.kind with
  | 0x01 => s.moveNames pl f d.raw
  | 0x02 => let b := multicastOf d.raw; [(b.srcAddr, b.length)]
  | 0x21 => s.updateNames p pl d.raw
  | 0x32 => let a := (ticketOf d.raw).counterAddr; [(a, 1088 + p64 (cdiv (s.ticketLimit p a) 8))]
  | 0x40 => let b := pruneOf d.raw; if b.method = 2 then [(b.cutAddr, 8192 * b.tileCount)] else []
  | 0x41 => let b := regrowOf d.raw; [(b.scoreAddr, 65536 * b.tileCount * (if b.scoreB32 then 4 else 2))]
  | 0x42 => let b := commitOf d.raw; if b.freezeOp = 0 then [] else [(b.freezeSrc, 8192 * b.tileCount)]
  | _ => []

/-- The protection table, its entries' ranges and a snapshot target of the package's own memory (R546, R556). -/
def State.protNames (s : State) (p : Nat) (pl : Plan) : List (Nat × Nat) :=
  match s.protTable p with
  | some t => (pl.resumeAddr + 4096, 64 + 32 * t.entries.length) :: t.entries.flatMap (s.entryRanges p)
      ++ (if t.toHost || t.size == 0 then [] else [(t.target, t.size)])
  | none => []

/-- Every device range that a loaded plan names (R408). -/
def State.planNames (s : State) (p : Nat) (pl : Plan) : List (Nat × Nat) :=
  (pl.ranges ++ s.protNames p pl
    ++ (s.programs p pl (s.loadedIndex p pl)).flatMap fun g => g.ds.flatMap (s.dscNames p pl g.e.frond)).filter fun r =>
      r.2 != 0 && !inWindow r.1

/-! ### PARTITION_RESIZE with op 1 -/

/-- Whether what PARTITION_RESIZE removes is the partition's and named by no plan (R408). -/
def State.removable (s : State) (p : Nat) (a : GrantArgs) : Bool :=
  let x := s.part p
  let named := match x.plan with | some pl => s.planNames p pl | none => []
  let planFronds := match x.plan with | some pl => pl.fronds | none => 0
  let use := match x.plan with | some pl => pl.bridgeUse | none => 0
  (a.fronds &&& ~~~x.fronds) == 0 && (a.fronds &&& planFronds) == 0 && (a.slots &&& ~~~x.slotShare) == 0
    && ((List.range 256).all fun i => !a.slots.getLsbD i || s.slotUnassigned p i)
    && decide (a.bridge + use ≤ x.bridgeLines) && a.grants.all x.hasGrant
    && !a.grants.any fun g => named.any fun r => g.pieces.any (rangeTouches r)

/-- PARTITION_RESIZE that removes (R408). -/
def State.resizeRemove (s : State) (p m : Nat) (t : Taken) : State :=
  match t.badGrants with
  | some o => s.badArg m o.1 o.2
  | none =>
    let a := t.grantArgs
    if !s.removable p a then s.notAllowed m (s.part p).state.code
    else
      (s.modPart p fun x =>
        { x with fronds := x.fronds &&& ~~~a.fronds, slotShare := x.slotShare &&& ~~~a.slots, bridgeLines := x.bridgeLines - a.bridge
                 grants := a.grants.foldl (fun l g => cutGrant g l) x.grants }).ok m []

def execPartitionResizeRemove (m : Nat) (s : State) : Out :=
  linsoPart m 0x12 (fun t => !resizeAdds t) (fun p t s => s.resizeRemove p m t) s

end Sys2Proof.Machine
end

