-- ==== Sys2Proof/Machine/Spdm.lean ====
section
/-! DEFINITION. The SPDM 1.2 responder and the MCTP endpoints (R447, R566, R567, R575 to R577, R627, R628). What the SPDM
standard prescribes and the manual does not repeat is PRESUMED; responses are kept by their contents, not as messages. -/

namespace Sys2Proof.Machine

/-! ### Connections -/

def Indusium.connection (x : Indusium) : Transport → Connection
  | .doe => x.doe
  | .smbus => x.smbus
  | .i3c => x.i3c

def Indusium.setConnection (x : Indusium) (t : Transport) (c : Connection) : Indusium :=
  match t with
  | .doe => { x with doe := c }
  | .smbus => { x with smbus := c }
  | .i3c => { x with i3c := c }

/-- The Crozier firmware runs. -/
def State.fwRuns (s : State) : Bool :=
  s.pkg.pwrOk && !s.pkg.inWarmReset && !s.pkg.clocksStopped && (s.pkg.fwState == 2 || s.pkg.fwState == 3)

/-- Whether a request on a transport is answered: the firmware runs, DOE has the link, and an MCTP endpoint has its
endpoint ID, on I3C with a dynamic address (R576, R577, R628). -/
def State.spdmServed (s : State) : Transport → Bool
  | .doe => s.fwRuns && s.pkg.linkUp && !s.pkg.perst
  | .smbus => s.fwRuns && s.indus.eidSmbus.isSome
  | .i3c => s.fwRuns && s.indus.eidI3c.isSome && s.indus.i3cAddr.isSome

/-- Answer a request. -/
def State.answer (s : State) (r : SpdmResponse) : State := { s with indus := { s.indus with response := r } }

/-- A request row: answered when the transport is served, and with UnexpectedRequest out of order. -/
def spdmRow (t : Transport) (ready : Connection → Bool) (run : State → State) (s : State) : Out :=
  .next (if !s.spdmServed t then s else if ready (s.indus.connection t) then run s else s.answer .unexpectedRequest)

/-! ### Negotiation -/

/-- GET_VERSION begins the connection afresh. -/
def execGetVersion (t : Transport) (s : State) : Out :=
  spdmRow t (fun _ => true) (fun s =>
    { s with indus := s.indus.setConnection t { Connection.none with version := true } }.answer .version) s

def execGetCapabilities (t : Transport) (s : State) : Out :=
  spdmRow t (·.version) (fun s =>
    { s with indus := s.indus.setConnection t { s.indus.connection t with capabilities := true } }.answer .capabilities) s

/-- NEGOTIATE_ALGORITHMS: the requester has to offer SHA-384 and the signature of the SPDM table; the key exchange may be
left out. -/
def execNegotiateAlgorithms (t : Transport) (hashOk sigOk kexOk : Bool) (s : State) : Out :=
  spdmRow t (·.capabilities) (fun s =>
    if hashOk && sigOk then
      { s with indus := s.indus.setConnection t { s.indus.connection t with algorithms := true, exchange := kexOk } }.answer .algorithms
    else s.answer .invalidRequest) s

/-! ### Certificates -/

/-- The chain of slot 0, as SPDM lays it out: length, root hash, then root, CA and leaf. -/
def Indusium.chain (x : Indusium) : List Byte :=
  let c := x.certificates
  let root := c.getD 2 []
  let certs := root ++ c.getD 1 [] ++ c.getD 0 []
  leBytes 2 (52 + certs.length) ++ leBytes 2 0 ++ sha384Bytes root ++ certs

def execGetDigests (t : Transport) (s : State) : Out :=
  spdmRow t (·.algorithms) (fun s =>
    if s.indus.certSet then s.answer (.digests (sha384 s.indus.chain)) else s.answer .unspecifiedError) s

def execGetCertificate (t : Transport) (slot offset length : Nat) (s : State) : Out :=
  spdmRow t (·.algorithms) (fun s =>
    let c := s.indus.chain
    if slot ≠ 0 ∨ !s.indus.certSet ∨ c.length ≤ offset then s.answer .invalidRequest
    else
      let part := (c.drop offset).take length
      s.answer (.certificate part (c.length - offset - part.length))) s

/-! ### Signed responses -/

/-- Sign a transcript and the response's own contents; in lifecycle 3 the key signs nothing (R567). -/
def State.signedAnswer (s : State) (transcript body : List Byte) (k : BitVec 384 × BitVec 384 → SpdmResponse) : State :=
  if s.indus.lifecycle = 3 then s.answer .unspecifiedError
  else
    let (g, s) := s.signIdentity (transcript ++ body)
    s.answer (k (BitVec.ofNat 384 g.1, BitVec.ofNat 384 g.2))

/-- CHALLENGE of slot 0: the chain's digest and a fresh nonce, signed with the requester's. -/
def execChallenge (t : Transport) (slot : Nat) (nonce : BitVec 256) (transcript : List Byte) (s : State) : Out :=
  spdmRow t (·.algorithms) (fun s =>
    if slot ≠ 0 ∨ !s.indus.certSet then s.answer .invalidRequest
    else
      let (n, s) := s.freeBits 256
      let d := sha384 s.indus.chain
      s.signedAnswer transcript (leBytes 32 nonce.toNat ++ leBytes 48 d.toNat ++ leBytes 32 n.toNat) fun g =>
        .signed [d, n.setWidth 384] g.1 g.2) s

/-- Measurement blocks of a request: index 0 asks for their number only, 0xFF for all, i + 1 for register i. -/
def Indusium.blocks (x : Indusium) (index : Nat) : Option (List (Nat × BitVec 384)) :=
  let all := x.meas.zipIdx.map fun e => (e.2 + 1, e.1.1)
  if index = 0 then some [] else if index = 0xFF then some all
  else match all.filter fun b => b.1 == index with
    | [] => none
    | l => some l

/-- GET_MEASUREMENTS: all from one instant (R575). -/
def execGetMeasurements (t : Transport) (index : Nat) (sign : Bool) (transcript : List Byte) (s : State) : Out :=
  spdmRow t (·.algorithms) (fun s =>
    match s.indus.blocks index with
    | none => s.answer .invalidRequest
    | some l =>
      if sign then s.signedAnswer transcript (l.flatMap fun b => leBytes 1 b.1 ++ leBytes 48 b.2.toNat) fun g => .measurements l (some g)
      else s.answer (.measurements l none)) s

/-! ### Sessions -/

/-- KEY_EXCHANGE: up to four sessions across all transports. -/
def execKeyExchange (t : Transport) (slot : Nat) (transcript : List Byte) (s : State) : Out :=
  spdmRow t (fun c => c.algorithms && c.exchange) (fun s =>
    if slot ≠ 0 ∨ !s.indus.certSet then s.answer .invalidRequest
    else if 4 ≤ s.indus.sessions.length then s.answer .sessionLimitExceeded
    else
      let id := s.indus.nextSession
      let u := s.signedAnswer transcript [] fun g => .keyExchangeRsp id g.1 g.2
      if u.indus.response = .unspecifiedError then u
      else { u with indus := { u.indus with
        nextSession := id + 1
        sessions := u.indus.sessions ++ [{ id := id, transport := t, established := false, keyUpdates := 0 }] } }) s

/-- A session of a transport. -/
def Indusium.session (x : Indusium) (t : Transport) (id : Nat) : Option Session :=
  x.sessions.find? fun e => e.id == id && e.transport == t

/-- Change a session. -/
def State.modSession (s : State) (id : Nat) (g : Session → Session) : State :=
  { s with indus := { s.indus with sessions := s.indus.sessions.map fun e => if e.id = id then g e else e } }

def State.dropSession (s : State) (id : Nat) : State :=
  { s with indus := { s.indus with sessions := s.indus.sessions.filter fun e => e.id != id } }

/-- FINISH: a wrong MAC ends the session that was being made. -/
def execFinish (t : Transport) (session : Nat) (macOk : Bool) (s : State) : Out :=
  spdmRow t (·.algorithms) (fun s =>
    match s.indus.session t session with
    | none => s.answer .invalidRequest
    | some e =>
      if e.established then s.answer .unexpectedRequest
      else if macOk then (s.modSession session fun e => { e with established := true }).answer .finishRsp
      else (s.dropSession session).answer .invalidRequest) s

/-- A request inside an established session. -/
def inSession (t : Transport) (session : Nat) (run : State → State) (s : State) : Out :=
  spdmRow t (·.algorithms) (fun s =>
    match s.indus.session t session with
    | some e => if e.established then run s else s.answer .unexpectedRequest
    | none => s.answer .invalidRequest) s

def execKeyUpdate (t : Transport) (session : Nat) (s : State) : Out :=
  inSession t session (fun s => (s.modSession session fun e => { e with keyUpdates := e.keyUpdates + 1 }).answer .keyUpdateAck) s

def execHeartbeat (t : Transport) (session : Nat) (s : State) : Out := inSession t session (fun s => s.answer .heartbeatAck) s

def execEndSession (t : Transport) (session : Nat) (s : State) : Out :=
  inSession t session (fun s => (s.dropSession session).answer .endSessionAck) s

/-- VENDOR_DEFINED_REQUEST: IDE_KM, within a session over data-object exchange (R447). -/
def execVendorDefinedRequest (t : Transport) (session : Nat) (km : IdeKm) (s : State) : Out :=
  inSession t session (fun s =>
    if t = .doe then
      let x := s.indus.ideKm km
      { s with indus := x.1 }.answer (.vendorDefined km x.2)
    else s.answer .invalidRequest) s

/-! ### MCTP and I3C -/

/-- Set Endpoint ID on an MCTP transport (R577); IDs 0x00 and 0xFF are not assignable. -/
def State.assignEid (s : State) (t : Transport) (eid : Byte) : State :=
  if eid = 0 ∨ eid = 0xFF then s
  else match t with
    | .doe => s
    | .smbus => { s with indus := { s.indus with eidSmbus := some eid } }.answer (.eidAssigned eid)
    | .i3c => if s.indus.i3cAddr.isSome then { s with indus := { s.indus with eidI3c := some eid } }.answer (.eidAssigned eid) else s

def execSetEndpointId (t : Transport) (eid : Byte) (s : State) : Out := .next (if s.fwRuns then s.assignEid t eid else s)

/-- The I3C controller assigns the dynamic address (R628). -/
def execI3cDynamicAddressAssign (addr : BitVec 7) (s : State) : Out :=
  .next (if s.pkg.pwrOk && !s.pkg.inWarmReset then { s with indus := { s.indus with i3cAddr := some addr } } else s)

end Sys2Proof.Machine
end

