-- ==== Sys2Proof/Machine/Dispatch.lean ====
section
/-! DEFINITION. The dispatch: one arm per command. -/

namespace Sys2Proof.Machine

/-- The effect of a command on everything but the queue. -/
def exec (i : Instr) (s : State) : Host.Outcome State Fault Refusal :=
  match i with
  | .identify mb => Sys2Proof.Machine.execIdentify mb s
  | .health mb => Sys2Proof.Machine.execHealth mb s
  | .partitionCreate mb => Sys2Proof.Machine.execPartitionCreate mb s
  | .partitionDestroy mb => Sys2Proof.Machine.execPartitionDestroy mb s
  | .partitionResizeAdd mb => Sys2Proof.Machine.execPartitionResizeAdd mb s
  | .partitionResizeRemove mb => Sys2Proof.Machine.execPartitionResizeRemove mb s
  | .planLoad mb => Sys2Proof.Machine.execPlanLoad mb s
  | .planVerify mb => Sys2Proof.Machine.execPlanVerify mb s
  | .planStart mb => Sys2Proof.Machine.execPlanStart mb s
  | .planStartResume mb => Sys2Proof.Machine.execPlanStartResume mb s
  | .planStop mb => Sys2Proof.Machine.execPlanStop mb s
  | .preempt mb => Sys2Proof.Machine.execPreempt mb s
  | .snapshotTake mb => Sys2Proof.Machine.execSnapshotTake mb s
  | .snapshotRestore mb => Sys2Proof.Machine.execSnapshotRestore mb s
  | .mirrorConfig mb => Sys2Proof.Machine.execMirrorConfig mb s
  | .mirrorConfigDisable mb => Sys2Proof.Machine.execMirrorConfigDisable mb s
  | .pairBind mb => Sys2Proof.Machine.execPairBind mb s
  | .tickConfig mb => Sys2Proof.Machine.execTickConfig mb s
  | .powerConfig mb => Sys2Proof.Machine.execPowerConfig mb s
  | .dump mb => Sys2Proof.Machine.execDump mb s
  | .countersRead mb => Sys2Proof.Machine.execCountersRead mb s
  | .fwUpdate mb => Sys2Proof.Machine.execFwUpdate mb s
  | .attest mb => Sys2Proof.Machine.execAttest mb s
  | .debugUnlockChallenge mb => Sys2Proof.Machine.execDebugUnlockChallenge mb s
  | .debugUnlockToken mb => Sys2Proof.Machine.execDebugUnlockToken mb s
  | .spareAdopt mb => Sys2Proof.Machine.execSpareAdopt mb s
  | .routeSet mb => Sys2Proof.Machine.execRouteSet mb s
  | .stepSet mb => Sys2Proof.Machine.execStepSet mb s
  | .lossScaleSet mb => Sys2Proof.Machine.execLossScaleSet mb s
  | .mailboxRota => Sys2Proof.Machine.execMailboxRota s
  | .mailboxSeqTimeout mb => Sys2Proof.Machine.execMailboxSeqTimeout mb s
  | .move ix b => Sys2Proof.Machine.execMove ix b s
  | .moveComplete frond id => Sys2Proof.Machine.execMoveComplete frond id s
  | .multicast ix b => Sys2Proof.Machine.execMulticast ix b s
  | .multicastComplete frond id => Sys2Proof.Machine.execMulticastComplete frond id s
  | .gather ix b => Sys2Proof.Machine.execGather ix b s
  | .gatherComplete frond id => Sys2Proof.Machine.execGatherComplete frond id s
  | .denseTile ix b => Sys2Proof.Machine.execDenseTile ix b s
  | .denseTileComplete frond id => Sys2Proof.Machine.execDenseTileComplete frond id s
  | .sparseTile ix b => Sys2Proof.Machine.execSparseTile ix b s
  | .sparseTileComplete frond id => Sys2Proof.Machine.execSparseTileComplete frond id s
  | .sampledTile ix b => Sys2Proof.Machine.execSampledTile ix b s
  | .sampledTileComplete frond id => Sys2Proof.Machine.execSampledTileComplete frond id s
  | .drain ix b => Sys2Proof.Machine.execDrain ix b s
  | .drainComplete frond id => Sys2Proof.Machine.execDrainComplete frond id s
  | .vec ix b => Sys2Proof.Machine.execVec ix b s
  | .kernelComplete frond => Sys2Proof.Machine.execKernelComplete frond s
  | .update ix b => Sys2Proof.Machine.execUpdate ix b s
  | .factSums ix b => Sys2Proof.Machine.execFactSums ix b s
  | .factApply ix b => Sys2Proof.Machine.execFactApply ix b s
  | .updateComplete frond id => Sys2Proof.Machine.execUpdateComplete frond id s
  | .semWait ix b => Sys2Proof.Machine.execSemWait ix b s
  | .semWaitComplete frond seq wait => Sys2Proof.Machine.execSemWaitComplete frond seq wait s
  | .semSignal ix b => Sys2Proof.Machine.execSemSignal ix b s
  | .signalQueueLeave frond seq => Sys2Proof.Machine.execSignalQueueLeave frond seq s
  | .semaphoreSignalApply n => Sys2Proof.Machine.execSemaphoreSignalApply n s
  | .ticket ix b => Sys2Proof.Machine.execTicket ix b s
  | .ticketClaim request => Sys2Proof.Machine.execTicketClaim request s
  | .ticketReply frond => Sys2Proof.Machine.execTicketReply frond s
  | .ticketClaimRetry frond => Sys2Proof.Machine.execTicketClaimRetry frond s
  | .ticketCompletion request => Sys2Proof.Machine.execTicketCompletion request s
  | .tickWait ix tick => Sys2Proof.Machine.execTickWait ix tick s
  | .tickWaitComplete frond seq => Sys2Proof.Machine.execTickWaitComplete frond seq s
  | .maskPrune ix b => Sys2Proof.Machine.execMaskPrune ix b s
  | .maskRegrow ix b => Sys2Proof.Machine.execMaskRegrow ix b s
  | .maskCommit ix b => Sys2Proof.Machine.execMaskCommit ix b s
  | .maskCommitComplete frond id => Sys2Proof.Machine.execMaskCommitComplete frond id s
  | .reduceSend ix b => Sys2Proof.Machine.execReduceSend ix b s
  | .reduceSendComplete frond id => Sys2Proof.Machine.execReduceSendComplete frond id s
  | .reduceRecv ix b => Sys2Proof.Machine.execReduceRecv ix b s
  | .reduceRecvComplete frond id => Sys2Proof.Machine.execReduceRecvComplete frond id s
  | .fma frond v => Sys2Proof.Machine.execFma frond v s
  | .add frond v => Sys2Proof.Machine.execAdd frond v s
  | .sub frond v => Sys2Proof.Machine.execSub frond v s
  | .mul frond v => Sys2Proof.Machine.execMul frond v s
  | .div frond v => Sys2Proof.Machine.execDiv frond v s
  | .sqrt frond v => Sys2Proof.Machine.execSqrt frond v s
  | .min frond v => Sys2Proof.Machine.execMin frond v s
  | .max frond v => Sys2Proof.Machine.execMax frond v s
  | .abs frond v => Sys2Proof.Machine.execAbs frond v s
  | .neg frond v => Sys2Proof.Machine.execNeg frond v s
  | .exp2 frond v => Sys2Proof.Machine.execExp2 frond v s
  | .log2 frond v => Sys2Proof.Machine.execLog2 frond v s
  | .cvt frond v => Sys2Proof.Machine.execCvt frond v s
  | .cmp frond v => Sys2Proof.Machine.execCmp frond v s
  | .classify frond v => Sys2Proof.Machine.execClassify frond v s
  | .and frond v => Sys2Proof.Machine.execAnd frond v s
  | .or frond v => Sys2Proof.Machine.execOr frond v s
  | .xor frond v => Sys2Proof.Machine.execXor frond v s
  | .shl frond v => Sys2Proof.Machine.execShl frond v s
  | .shr frond v => Sys2Proof.Machine.execShr frond v s
  | .shra frond v => Sys2Proof.Machine.execShra frond v s
  | .sel frond v => Sys2Proof.Machine.execSel frond v s
  | .movi frond v => Sys2Proof.Machine.execMovi frond v s
  | .movs frond v => Sys2Proof.Machine.execMovs frond v s
  | .lane frond v => Sys2Proof.Machine.execLane frond v s
  | .rng frond v => Sys2Proof.Machine.execRng frond v s
  | .xlane frond v => Sys2Proof.Machine.execXlane frond v s
  | .red frond v => Sys2Proof.Machine.execRed frond v s
  | .ld frond v => Sys2Proof.Machine.execLd frond v s
  | .st frond v => Sys2Proof.Machine.execSt frond v s
  | .ldx frond v => Sys2Proof.Machine.execLdx frond v s
  | .stx frond v => Sys2Proof.Machine.execStx frond v s
  | .lds frond v => Sys2Proof.Machine.execLds frond v s
  | .sts frond v => Sys2Proof.Machine.execSts frond v s
  | .sadd frond v => Sys2Proof.Machine.execSadd frond v s
  | .ssub frond v => Sys2Proof.Machine.execSsub frond v s
  | .smul frond v => Sys2Proof.Machine.execSmul frond v s
  | .sshl frond v => Sys2Proof.Machine.execSshl frond v s
  | .sshr frond v => Sys2Proof.Machine.execSshr frond v s
  | .sli frond v => Sys2Proof.Machine.execSli frond v s
  | .br frond v => Sys2Proof.Machine.execBr frond v s
  | .bnz frond v => Sys2Proof.Machine.execBnz frond v s
  | .bz frond v => Sys2Proof.Machine.execBz frond v s
  | .anyp frond v => Sys2Proof.Machine.execAnyp frond v s
  | .rdflg frond v => Sys2Proof.Machine.execRdflg frond v s
  | .clrflg frond v => Sys2Proof.Machine.execClrflg frond v s
  | .halt frond v => Sys2Proof.Machine.execHalt frond v s
  | .tickGuard => Sys2Proof.Machine.execTickGuard s
  | .tickEdge => Sys2Proof.Machine.execTickEdge s
  | .waitScanMidtick => Sys2Proof.Machine.execWaitScanMidtick s
  | .waitReport frond seq => Sys2Proof.Machine.execWaitReport frond seq s
  | .tickInEdge offsetNs => Sys2Proof.Machine.execTickInEdge offsetNs s
  | .beaconReceived port offsetNs count => Sys2Proof.Machine.execBeaconReceived port offsetNs count s
  | .tickHoldover => Sys2Proof.Machine.execTickHoldover s
  | .partitionStop partition => Sys2Proof.Machine.execPartitionStop partition s
  | .writeFenceComplete partition => Sys2Proof.Machine.execWriteFenceComplete partition s
  | .recoveryReady partition => Sys2Proof.Machine.execRecoveryReady partition s
  | .epochHoldExpiry partition => Sys2Proof.Machine.execEpochHoldExpiry partition s
  | .resetNoAnswer cls index => Sys2Proof.Machine.execResetNoAnswer cls index s
  | .halfReset half => Sys2Proof.Machine.execHalfReset half s
  | .katSweep cls index => Sys2Proof.Machine.execKatSweep cls index s
  | .katSweepResult cls index pass group => Sys2Proof.Machine.execKatSweepResult cls index pass group s
  | .dumpUnitTimeout cls index => Sys2Proof.Machine.execDumpUnitTimeout cls index s
  | .sporeItemArrival cls index => Sys2Proof.Machine.execSporeItemArrival cls index s
  | .sporePacketTimeout => Sys2Proof.Machine.execSporePacketTimeout s
  | .sporeWordRead offset size => Sys2Proof.Machine.execSporeWordRead offset size s
  | .tickCountRead r => Sys2Proof.Machine.execTickCountRead r s
  | .rcCounterRead offset read => Sys2Proof.Machine.execRcCounterRead offset read s
  | .registerWrite offset size write => Sys2Proof.Machine.execRegisterWrite offset size write s
  | .feedStart partition => Sys2Proof.Machine.execFeedStart partition s
  | .feedReadReturn partition line error => Sys2Proof.Machine.execFeedReadReturn partition line error s
  | .feedDone partition => Sys2Proof.Machine.execFeedDone partition s
  | .hostMemRead addr span => Sys2Proof.Machine.execHostMemRead addr span s
  | .hostMemWrite addr data enables => Sys2Proof.Machine.execHostMemWrite addr data enables s
  | .powerStateChange d3hot => Sys2Proof.Machine.execPowerStateChange d3hot s
  | .hyphalPacket p => Sys2Proof.Machine.execHyphalPacket p s
  | .bankPortServe bank write cycle report => Sys2Proof.Machine.execBankPortServe bank write cycle report s
  | .memAccess r report => Sys2Proof.Machine.execMemAccess r report s
  | .memWriteback cls index addr => Sys2Proof.Machine.execMemWriteback cls index addr s
  | .patrolScrub cls index report => Sys2Proof.Machine.execPatrolScrub cls index report s
  | .memRefresh cls index => Sys2Proof.Machine.execMemRefresh cls index s
  | .memoryBringup cls index t => Sys2Proof.Machine.execMemoryBringup cls index t s
  | .plnFrameReceive port f => Sys2Proof.Machine.execPlnFrameReceive port f s
  | .plnLaneLockLoss port => Sys2Proof.Machine.execPlnLaneLockLoss port s
  | .plnAckSilence port => Sys2Proof.Machine.execPlnAckSilence port s
  | .plnRetrain port => Sys2Proof.Machine.execPlnRetrain port s
  | .plnTrainingComplete port delay => Sys2Proof.Machine.execPlnTrainingComplete port delay s
  | .plnPortDisable port => Sys2Proof.Machine.execPlnPortDisable port s
  | .plnPortEnable port => Sys2Proof.Machine.execPlnPortEnable port s
  | .data port p => Sys2Proof.Machine.execData port p s
  | .healthPacket port p => Sys2Proof.Machine.execHealthPacket port p s
  | .clear port p => Sys2Proof.Machine.execClear port p s
  | .announce port p => Sys2Proof.Machine.execAnnounce port p s
  | .bind port p => Sys2Proof.Machine.execBind port p s
  | .mirror port p => Sys2Proof.Machine.execMirror port p s
  | .fill port p => Sys2Proof.Machine.execFill port p s
  | .peerTimeout frond id => Sys2Proof.Machine.execPeerTimeout frond id s
  | .pairBindTimeout => Sys2Proof.Machine.execPairBindTimeout s
  | .mirrorSend partition => Sys2Proof.Machine.execMirrorSend partition s
  | .mirrorLost partition => Sys2Proof.Machine.execMirrorLost partition s
  | .snapshotDrain partition => Sys2Proof.Machine.execSnapshotDrain partition s
  | .snapshotComplete partition => Sys2Proof.Machine.execSnapshotComplete partition s
  | .governorEstimate isTuft index activity => Sys2Proof.Machine.execGovernorEstimate isTuft index activity s
  | .currentSample rail amps slew packageMeanW => Sys2Proof.Machine.execCurrentSample rail amps slew packageMeanW s
  | .emergencyHalving => Sys2Proof.Machine.execEmergencyHalving s
  | .clockStep => Sys2Proof.Machine.execClockStep s
  | .clockRestore => Sys2Proof.Machine.execClockRestore s
  | .tempSample die tuft temp => Sys2Proof.Machine.execTempSample die tuft temp s
  | .thermalTrip die temp => Sys2Proof.Machine.execThermalTrip die temp s
  | .voltageMarginLoss rail => Sys2Proof.Machine.execVoltageMarginLoss rail s
  | .referenceLoss r => Sys2Proof.Machine.execReferenceLoss r s
  | .pwrOkRise feedId pairSense perst => Sys2Proof.Machine.execPwrOkRise feedId pairSense perst s
  | .pwrOkFall => Sys2Proof.Machine.execPwrOkFall s
  | .perstAssert => Sys2Proof.Machine.execPerstAssert s
  | .perstRelease => Sys2Proof.Machine.execPerstRelease s
  | .cxlHotReset => Sys2Proof.Machine.execCxlHotReset s
  | .watchdogExpiry => Sys2Proof.Machine.execWatchdogExpiry s
  | .warmResetEntry => Sys2Proof.Machine.execWarmResetEntry s
  | .bootRom selfTestOk => Sys2Proof.Machine.execBootRom selfTestOk s
  | .fwReady => Sys2Proof.Machine.execFwReady s
  | .challengeExpiry => Sys2Proof.Machine.execChallengeExpiry s
  | .getVersion t => Sys2Proof.Machine.execGetVersion t s
  | .getCapabilities t => Sys2Proof.Machine.execGetCapabilities t s
  | .negotiateAlgorithms t hashOk sigOk kexOk => Sys2Proof.Machine.execNegotiateAlgorithms t hashOk sigOk kexOk s
  | .getDigests t => Sys2Proof.Machine.execGetDigests t s
  | .getCertificate t slot offset length => Sys2Proof.Machine.execGetCertificate t slot offset length s
  | .challenge t slot nonce transcript => Sys2Proof.Machine.execChallenge t slot nonce transcript s
  | .getMeasurements t index sign transcript => Sys2Proof.Machine.execGetMeasurements t index sign transcript s
  | .keyExchange t slot transcript => Sys2Proof.Machine.execKeyExchange t slot transcript s
  | .finish t session macOk => Sys2Proof.Machine.execFinish t session macOk s
  | .keyUpdate t session => Sys2Proof.Machine.execKeyUpdate t session s
  | .heartbeat t session => Sys2Proof.Machine.execHeartbeat t session s
  | .endSession t session => Sys2Proof.Machine.execEndSession t session s
  | .vendorDefinedRequest t session km => Sys2Proof.Machine.execVendorDefinedRequest t session km s
  | .setEndpointId t eid => Sys2Proof.Machine.execSetEndpointId t eid s
  | .bypass tdi => Sys2Proof.Machine.execBypass tdi s
  | .idcode => Sys2Proof.Machine.execIdcode s
  | .samplePreload cells => Sys2Proof.Machine.execSamplePreload cells s
  | .extest => Sys2Proof.Machine.execExtest s
  | .extestPulse => Sys2Proof.Machine.execExtestPulse s
  | .extestTrain => Sys2Proof.Machine.execExtestTrain s
  | .clamp => Sys2Proof.Machine.execClamp s
  | .highz => Sys2Proof.Machine.execHighz s
  | .trstAssert => Sys2Proof.Machine.execTrstAssert s
  | .uartRxInput b => Sys2Proof.Machine.execUartRxInput b s
  | .referenceStable => Sys2Proof.Machine.execReferenceStable s
  | .hostSnoop addr => Sys2Proof.Machine.execHostSnoop addr s
  | .cxlUncorrectableError => Sys2Proof.Machine.execCxlUncorrectableError s
  | .i3cDynamicAddressAssign addr => Sys2Proof.Machine.execI3cDynamicAddressAssign addr s
  | .maskPruneComplete frond id => Sys2Proof.Machine.execMaskPruneComplete frond id s
  | .maskRegrowComplete frond id => Sys2Proof.Machine.execMaskRegrowComplete frond id s

end Sys2Proof.Machine
end

