-- ==== Sys2Proof/Safety.lean ====
section
/-! DEFINITION. What counts as a sound state, and the situations that statements speak of: the canonical form of every
store, the legal tick period, a command posted in a mailbox, a kernel that runs, a descriptor that issues. -/

namespace Sys2Proof.Machine

/-- Device memory in canonical form: addresses strictly rising, and no entry equal to what an unlisted byte reads as. -/
def Memory.wf (m : List Host.Cell) : Bool := swf (fun _ => (0 : Byte)) m

/-- The memories, the register files and the other sparse stores that statements read, in canonical form. -/
structure State.Canonical (s : State) : Prop where
  mem : Memory.wf s.mem = true
  poison : swf (fun _ => false) s.poison = true
  flips : swf (fun _ => (0 : BitVec 40)) s.flips = true
  hostMem : swf (fun _ => (0 : Byte)) s.hostMem = true
  fbuf : swf (fun _ => (0 : Byte)) s.fbuf = true
  acc : swf (fun _ => (0 : Dword)) s.acc = true
  regs : swf regReset s.regs = true
  gens : swf (fun _ => genReset) s.gens = true
  fronds : swf (fun _ => Frond.reset) s.fronds = true
  parts : swf (fun _ => Partition.reset) s.parts = true
  streams : swf (fun _ => none) s.streams = true
  slots : swf (fun _ => none) s.slots = true
  ledgers : swf (fun _ => Ledger.zero) s.ledgers = true
  mailboxes : swf (fun _ => Mailbox.reset) s.mailboxes = true
  mbArea : swf (fun _ => (0 : Byte)) s.mbArea = true
  ports : swf (fun _ => Port.reset) s.ports = true
  current : swf (fun _ => 0) s.power.current = true
  temps : swf (fun _ => 0) s.power.temps = true
  scrub : swf (fun _ => 0) s.scrub = true
  devErr : swf (fun _ => 0) s.devErr = true
  hostBad : swf (fun _ => false) s.hostBad = true
  fbufBad : swf (fun _ => false) s.fbufBad = true
  frondFlips : swf (fun _ => (0 : BitVec 40)) s.frondFlips = true
  imem : swf (fun _ => (0 : Dword)) s.imem = true
  shapeTab : swf (fun _ => (0 : BitVec 512)) s.shapeTab = true
  component : swf (fun _ => (0 : Byte)) s.component = true

/-- A legal tick period in microtick cycles (R30). -/
def State.PeriodLegal (s : State) : Prop := 2000 ≤ s.tick.period.toNat ∧ s.tick.period.toNat ≤ 2000000

/-- The requests that wait at the read or the write port of a bank. -/
def State.portQueue (s : State) (bank : Nat) (write : Bool) : List Waiting :=
  ((s.hyphae.bankq.find? fun e => e.1 == 2 * bank + (if write then 1 else 0)).map (·.2)).getD []

/-- The slot-wheel entry of a bank's group and port in a cycle. -/
def State.wheelEntry (s : State) (bank : Nat) (write : Bool) (cycle : Nat) : Nat :=
  (sget (fun _ => (0 : BitVec 16)) s.wheels ((2 * (bank / 16) + (if write then 1 else 0)) * 256 + cycle % 256)).toNat

/-- Bytes of a frond's buffer that lie inside it, in units that hold neither poison nor a word with an uncorrectable error. -/
def State.BufSound (s : State) (f : Nat) (as : List Nat) : Prop :=
  ∀ a ∈ as, a < frondBytes ∧ s.bufCause f (rangeFrom (64 * (a / 64)) 64) (a / 64) = none

/-- Words of another store of a frond that hold neither poison nor an uncorrectable error. -/
def State.StoreSound (s : State) (f : Nat) (st : FrondStore) (ws : List Nat) : Prop := s.storeBad f st ws = none

/-- The state in which a descriptor row issues: the errors that came up in frond stores and the reports of the devices that
the row brings are in place. -/
def State.presented (r : State) (i : Issue) : State := (r.strike i.strikes).showAll i.reports

/-- No collective of partition p waits for its peer. -/
def State.NoCollectiveWaits (s : State) (p : Nat) : Prop :=
  ∀ f, f < 128 → (s.part p).fronds.getLsbD f = true → ∀ j ∈ (s.frond f).jobs,
    (∀ b n t, j.body ≠ .send b false n t) ∧ ∀ b l h t, j.body ≠ .recv b false l h t

/-- A device report without an error of any kind. -/
def DeviceReport.clean : DeviceReport :=
  { flips := [], stackCorrected := false, stackUncorrectable := false, parityFails := 0, recheckBad := false }

/-- A command of the queue runs to a next state: the block stops only on a unit that does not exist and on a code
reserved for its command. -/
def runsOn (c : Instr) (s : State) : Prop := ∃ t, exec c s = .next t

/-! ### Linso commands -/

/-- The command outstanding in mailbox m is the one its row runs (R471, R472): it has the opcode, has not begun, and no
command taken earlier holds it back. -/
structure State.Presents (s : State) (m op : Nat) (c : Taken) : Prop where
  mailbox : m < 17
  outstanding : (s.mailbox m).outstanding = some c
  opcode : c.opcode = op
  fresh : c.begun = false
  free : s.heldBehind m c = false

/-- The same for a command of one partition, whose state accepts it (R393, R474). -/
structure State.PresentsTo (s : State) (m op p : Nat) (c : Taken) : Prop extends s.Presents m op c where
  target : c.target m = some p
  accepted : accepts (s.part p).state (s.part p).ready op = true

/-- In state t the command has its final response in mailbox m: status and result stand in the response area and the
header (R469), and nothing is outstanding. -/
structure State.Answered (t : State) (m : Nat) (c : Taken) (status : Nat) (result : List Byte) : Prop where
  ended : (t.mailbox m).outstanding = none
  seq : (t.mailbox m).respSeq = c.seq
  word : (t.mailbox m).respStatus = BitVec.ofNat 32 (0x10000 + c.opcode % 256 * 256 + status)
  head : t.areaBytes (respArea m) 16 = respHeader c status result.length
  result : t.areaBytes (respArea m + 16) result.length = result
  untaken : m ∉ t.mbTaken

/-- In state t the command is accepted in mailbox m: its final response follows. -/
structure State.Accepted (t : State) (m : Nat) (c : Taken) : Prop where
  waits : (t.mailbox m).outstanding = some { c with begun := true }
  seq : (t.mailbox m).respSeq = c.seq
  word : (t.mailbox m).respStatus = BitVec.ofNat 32 (c.opcode % 256 * 256 + 1)

/-- State t with the parts that responses write put back to those of s: mailboxes, their areas, and the interrupts. -/
def State.butMailboxes (t s : State) : State :=
  { t with mailboxes := s.mailboxes, mbTaken := s.mbTaken, mbArea := s.mbArea, host := s.host, msixPending := s.msixPending }

/-- The sections of an image as PLAN_LOAD reads them: the header with its directory, section 0x06, the others. -/
def imageOf (h : List Byte) (sect : Nat → List Byte) : List (Nat × List Byte) :=
  (0, h) :: ((directory h).filter fun x => x.type == 6).map (fun x => (x.type, sect x.type)) ++
    ((directory h).filter fun x => x.type != 6).map fun x => (x.type, sect x.type)

/-- The program index of an image, its descriptors, and the plan before its streams and slots are bound. -/
def imageIndex (h : List Byte) (sect : Nat → List Byte) : List IndexEntry := indexOf (imgNat h 44 1) (imgNat h 42 2) (sect 1)
def imageUnits (h : List Byte) (sect : Nat → List Byte) : List Nat := programUnits (imageIndex h sect) (sect 1)
def imagePlan (h : List Byte) (sect : Nat → List Byte) : Plan :=
  planOf h (imageOf h sect) ((imageUnits h sect).map (unitAt (sect 1)))

/-- Device ranges that a load writes: the programs, their tags, the update records and the initial data. -/
def imageWrites (h : List Byte) (sect : Nat → List Byte) : List (Nat × Nat) :=
  let img := imageOf h sect
  let pl := imagePlan h sect
  [(pl.progBase, (sect 1).length), (pl.tagBase, (sect 2).length)] ++
    (updateRecords (sectOf img 9)).map (fun r => (r.1, r.2.length)) ++ (initialOf (sectOf img 0x0D)).map fun r => (r.2.1, r.2.2.length)

/-- A plan image of n bytes at host address a that partition p takes whole (R371, R374, R394): the image passes its checks
and its hashes, what it names is granted and free, and what it writes can be written. -/
structure State.Loads (s : State) (p a n : Nat) (h : List Byte) (sect : Nat → List Byte) : Prop where
  head : s.readHost a (min 128 n) = some (h.take 128)
  headOk : headFails (h.take 128) n = []
  rest : s.readHost (a + 128) (dirEnd (h.take 128) - 128) = some (h.drop 128)
  image : imageFail h n = none
  sects : ∀ x ∈ directory h, s.readHost (a + x.offset) x.length = some (sect x.type) ∧ sha384 (sect x.type) = x.hash
  area : areaFail ((recordsOf 32 (sect 6)).map regionOf) (areaNeed (sect 1).length (sect 2).length) = none
  granted : (s.unloadPlan p).outsideGrants p (imagePlan h sect) (updateRecords (sectOf (imageOf h sect) 9)) = false
  known : unknownStream ((imagePlan h sect).streams.map fun e => strPlan e.1) (imageIndex h sect) (imageUnits h sect) (sect 1) = none
  peers : (peersOf ((imageUnits h sect).map (unitAt (sect 1)))).length ≤ 64
  streams : (pickFree 4096 (imagePlan h sect).streams.length fun k => ((s.unloadPlan p).stream k).isNone).isSome = true
  slots : (pickFree 256 (imagePlan h sect).policies.length fun k => ((s.unloadPlan p).slot k).isNone).isSome = true
  writes : ∀ w ∈ imageWrites h sect, ∀ i, i < w.2 → ∃ y, s.resolveDirect (w.1 + i) = some y ∧ (s.checkUnit (y / 64)).cause = none

/-- PLAN_VERIFY of plan pl of partition p reads all it needs and finds nothing (R395, R396, R590). -/
def State.Verifies (s : State) (p : Nat) (pl : Plan) : Prop :=
  let r := (s.modPart p fun x => { x with planVerified := false, state := if x.state == .verified then .loaded else x.state }).readAll
    pl.verifyReads
  r.2 = none ∧ r.1.planFails p pl = [] ∧ r.1.profileFails pl = []

/-- A range of device bytes that the firmware can read and write: addressed outside the mask windows, and sound. -/
def State.Sound (s : State) (a n : Nat) : Prop :=
  ∀ i, i < n → ∃ y, s.resolveDirect (a + i) = some y ∧ (s.checkUnit (y / 64)).cause = none

/-! ### Descriptors -/

/-- The stores inside a frond in canonical form: its vector engine's registers, its plain semaphores, its panels. -/
structure Frond.Canonical (x : Frond) : Prop where
  sregs : swf (fun _ => (0 : Dword)) x.vec.sregs = true
  vregs : swf (fun _ => (0 : Dword)) x.vec.vregs = true
  preds : swf (fun _ => false) x.vec.preds = true
  flags : swf (fun _ => (0 : BitVec 5)) x.vec.flags = true
  sems : swf (fun _ => (0 : BitVec 16)) x.plainSems = true
  data0 : swf (fun _ => (0 : BitVec 16)) x.panel0.data = true
  data1 : swf (fun _ => (0 : BitVec 16)) x.panel1.data = true
  scales0 : swf (fun _ => (0 : Byte)) x.panel0.scales = true
  scales1 : swf (fun _ => (0 : Byte)) x.panel1.scales = true

/-- The descriptor that a command presents, and whether its body and its sequencer are as its kind has them. -/
def descriptorOf : Instr → Option (Issue × Bool)
  | .move i b => some (i, b.wf && i.seq == .fetch)
  | .multicast i b => some (i, b.wf && i.seq == .fetch)
  | .gather i b => some (i, b.wf && i.seq == .fetch)
  | .denseTile i b => some (i, b.wf && i.seq == .execute)
  | .sparseTile i b => some (i, b.wf && i.seq == .execute)
  | .sampledTile i b => some (i, b.wf && i.seq == .execute)
  | .drain i b => some (i, b.wf && i.seq == .execute)
  | .vec i b => some (i, b.wf && i.seq == .execute)
  | .update i b => some (i, b.wf && i.seq == .execute && b.phase == 0)
  | .factSums i b => some (i, b.wf && i.seq == .execute && b.phase == 1)
  | .factApply i b => some (i, b.wf && i.seq == .execute && b.phase == 2)
  | .semWait i b => some (i, b.wf)
  | .semSignal i b => some (i, b.wf)
  | .ticket i b => some (i, b.wf && i.seq == .fetch)
  | .tickWait i n => some (i, within 1 255 n)
  | .maskPrune i b => some (i, b.wf && i.seq == .execute)
  | .maskRegrow i b => some (i, b.wf && i.seq == .execute)
  | .maskCommit i b => some (i, b.wf && i.seq == .execute)
  | .reduceSend i b => some (i, b.wf && i.seq == .execute)
  | .reduceRecv i b => some (i, b.wf && i.seq == .execute)
  | _ => none

/-- Whether a descriptor's kind and body are those of a command. -/
def spelledBy : Instr → Nat → Bool
  | .move _ b => isMove b
  | .multicast _ b => isMulticast b
  | .gather _ b => isGather b
  | .denseTile _ b => isDense b
  | .sparseTile _ b => isSparse b
  | .sampledTile _ b => isSampled b
  | .drain _ b => isDrain b
  | .vec _ b => isVec b
  | .update _ b | .factSums _ b | .factApply _ b => isUpdate b
  | .semWait _ b => isSemWait b
  | .semSignal _ b => isSemSignal b
  | .ticket _ b => isTicket b
  | .tickWait _ n => isTickWait n
  | .maskPrune _ b => isPrune b
  | .maskRegrow _ b => isRegrow b
  | .maskCommit _ b => isCommit b
  | .reduceSend _ b => isSend b
  | .reduceRecv _ b => isRecv b
  | _ => fun _ => false

/-- The state in which a descriptor's row acts: the signals that arrive in its cycle are applied (R312), and what comes up in
frond stores and devices is in place. -/
def State.shownBy (r : State) : Instr → State
  | .multicast i _ => (r.arrive i.arriving).presented i
  | .semWait i _ => (r.arrive i.arriving).presented i
  | c => match descriptorOf c with
    | some x => r.presented x.1
    | none => r

/-- What a descriptor that is next in its sequencer still waits for. -/
def State.readyFor (s : State) (p : Nat) : Instr → Option Wait
  | .move i _ => s.moveWait i.frond
  | .multicast i b => s.multicastWait i b
  | .gather i b => s.gatherWait i.frond b.panel i.served
  | .denseTile i b => s.bankWait i.frond b.bank (subRows b.split * b.sub) (subRows b.split) b.split false
  | .sparseTile i b => s.laneWait i.frond b.panel (some b.bank) i.served
  | .sampledTile i b => s.laneWait i.frond b.panel none i.served
  | .drain i b => s.bankWait i.frond b.bank (subRows b.split * b.sub) (subRows b.split) b.split true
  | .vec i _ => if (s.frond i.frond).jobs.any fun j => j.body == .vec then some .engine else none
  | .semSignal i _ => if 8 ≤ ((s.frond i.frond).sq i.seq).sigq.length then some .engine else none
  | .maskPrune i b => State.tensorWait i.frond b.policy p s
  | .maskRegrow i b => State.tensorWait i.frond b.policy p s
  | .maskCommit i b => State.tensorWait i.frond b.policy p s
  | _ => none

/-- State s with the issue of i recorded: its sequencer's position, the queue, the program buffer filled again, and its
frond's next issue number. -/
def State.issued (s : State) (i : Issue) (p : Nat) (pass : Option PassRef) (head : Bool) : State :=
  (s.took i p pass head).modFrond i.frond fun x => { x with nextId := x.nextId + 1 }

/-- Descriptor i with legal fields is issued now, on a frond where partition p's work runs: its program or its queue has the
descriptor next, its sequencer is free, it is fenced by nothing (R47, R48), and no guard skips it (R389). -/
structure State.Issues (s : State) (i : Issue) (is : Nat → Bool) (p : Nat) (pass : Option PassRef) (head : Bool) : Prop where
  stores : s.Canonical
  inner : ∀ f, (s.frond f).Canonical
  frond : i.frond < 128
  fields : i.wf = true
  work : s.workOf i.frond = some p
  gate : (s.frond i.frond).gate i is = .go pass head
  live : ((s.issued i p pass head).part p).skips i = false

/-- The frond's engines hold, after s, one more descriptor: i, under the issue number that was next. -/
def State.holdsJob (t s : State) (i : Issue) (pass : Option PassRef) (b : JobBody) : Prop :=
  (t.frond i.frond).jobs = (s.frond i.frond).jobs ++
    [{ id := (s.frond i.frond).nextId, seq := i.seq, streamId := i.streamId, addr := i.addr, pass := pass, body := b }]

/-- Partition p may read these device bytes, and none of them is in error. -/
def State.Readable (s : State) (p : Nat) (as : List Nat) : Prop :=
  ∀ a ∈ as, ∃ y, s.reach p false a = some y ∧ (s.checkUnit (y / 64)).cause = none

/-- The same for writing. -/
def State.Writable (s : State) (p : Nat) (as : List Nat) : Prop :=
  ∀ a ∈ as, ∃ y, s.reach p true a = some y ∧ (s.checkUnit (y / 64)).cause = none

/-- What a list of writes leaves at an address: the last of its writes there. -/
def lastAt (cells : List (Nat × Byte)) (a : Nat) : Option Byte := (cells.reverse.find? fun c => c.1 == a).map (·.2)

/-- Every device byte reads in t as the writes of partition p left it, and as before elsewhere. -/
def State.Wrote (t s : State) (p : Nat) (cells : List (Nat × Byte)) : Prop :=
  ∀ y, t.readByte y = (lastAt (cells.filterMap fun c => (s.reach p true c.1).map fun a => (a, c.2)) y).getD (s.readByte y)

/-- Every byte of frond f's buffer reads in t as the writes left it, and as before elsewhere. -/
def State.WroteBuf (t s : State) (f : Nat) (cells : List (Nat × Byte)) : Prop :=
  ∀ a, a < frondBytes → t.bufByte f a = (lastAt cells a).getD (s.bufByte f a)

/-- State t with everything put back that moving device data touches: memory with its errors, the counters, the ledgers,
the protection of pages, and the free values. -/
def State.butData (t s : State) : State :=
  { t with mem := s.mem, flips := s.flips, poison := s.poison, writebacks := s.writebacks, regs := s.regs, ledgers := s.ledgers,
           hyphae := { t.hyphae with correct := s.hyphae.correct }, parts := s.parts, freeCtr := s.freeCtr, devErr := s.devErr }

/-- Of the fronds only frond f differs, in what its engines hold and in its regulator. -/
def State.frondsKept (t s : State) (f : Nat) : Prop :=
  (∀ g, g ≠ f → t.frond g = s.frond g) ∧
    { t.frond f with jobs := (s.frond f).jobs, regulator := (s.frond f).regulator } = s.frond f

/-- Partition q is as before but for the protection of its pages. -/
def State.partKept (t s : State) (q : Nat) : Prop := { t.part q with protect := (s.part q).protect } = s.part q

/-- The writes of a MOVE whose shape and sides are known, in the order they are made, swizzled (R337 to R352). -/
def State.moveCells (s : State) (p f : Nat) (b : MoveBody) (h : CopyShape) (src dst : CopySide) : List (Nat × Byte) :=
  let reverse := overlapAllowed h src dst && decide (src.base < dst.base) &&
    (src.buf == dst.buf && (overlapAt (extentOf (s.physOf p src (src.srcBytes h))) (extentOf (s.physOf p dst (dst.dstBytes h b)))).isSome)
  let short := src.fmt != dst.fmt && isShort dst.fmt
  let scales := if short then (List.range (runCount h.m)).map (s.dstScales p b h src dst) else []
  let a := (if reverse then h.elems.reverse else h.elems).foldl (s.copyElem p f b h src dst scales)
    { codes := [], gens := s.gens, index := 0, sat := 0, nans := 0 }
  ((dst.dataCells b h a reverse).map fun c => (swizzle dst.swz c.1, c.2)) ++ (if short then dst.scaleCells b h scales else [])

/-- A MOVE that passes its start checks and whose source can be read whole (R355, R358, R361, R364). -/
structure State.Moves (s : State) (i : Issue) (b : MoveBody) (p : Nat) (h : CopyShape) (src dst : CopySide) : Prop where
  record : s.StoreSound i.frond .shapes (rangeFrom (16 * b.shape) 16)
  shape : h = copyShape (sget (fun _ => (0 : BitVec 512)) s.shapeTab (256 * i.frond + b.shape))
  srcSide : s.moveSide i b.srcAddr b.srcFrond b.srcSpace b.srcRel b.srcLayout b.srcSwz b.srcFmt = some src
  dstSide : s.moveSide i b.dstAddr b.dstFrond b.dstSpace b.dstRel b.dstLayout b.dstSwz b.dstFmt = some dst
  srcAligned : sideMisaligned b.unaligned src h.s h.ext b.srcScaleAddr = none
  dstAligned : sideMisaligned b.unaligned dst h.t h.m b.dstScaleAddr = none
  apart : s.moveOverlap p b h src dst = none
  srcInside : sideBound src (src.srcBytes h) = none
  dstInside : sideBound dst (dst.dstBytes h b) = none
  srcScales : scaleBound src (src.scaleSrc b h) = none
  dstScales : scaleBound dst (dst.scaleDst b h) = none
  data : ∀ e ∈ h.elems, ∀ x, e.src = some x → ∀ a ∈ src.elemBytes (src.runAddr h.s (runIndex h.ext x.1)) x.2, s.byteBad p src a = none
  scales : ∀ a ∈ src.scaleSrc b h, s.byteBad p { src with layout := 0, swz := 0 } a = none
  supplied : src.fmt ≠ dst.fmt → isShort dst.fmt = true → b.scaleSupplied = true →
    ∀ a ∈ rangeFrom b.dstScaleAddr (runCount h.m * cdiv (h.m 0) 32), s.byteBad p { dst with layout := 0, swz := 0 } a = none

/-- Destination base of the j-th destination of a MULTICAST (R320). -/
def State.multicastBase (s : State) (i : Issue) (b : MulticastBody) (j : Nat) : Nat :=
  if b.streamed then ((s.stream (i.streamId + j)).map fun x => s.endItem (i.streamId + j) x i.frond i.seq).getD 0 + b.dstAddr
  else b.dstAddr

/-- The positions of a dense range as an UPDATE reads them (R269). -/
def State.densePos (s : State) (p shard : Nat) (b : UpdateBody) : List UPos :=
  let w := if shBf16 shard then 2 else 4
  let gs := gradBytes b.gradW48
  (List.range b.count).map fun q =>
    { q := q, row := q / b.denseCols, col := q % b.denseCols, r := 0, k := 0
      frozen := b.freezePresent && (s.devByte p (b.regionAddr + denseFreeze shard b + q / 8)).getLsbD (q % 8)
      grad := gradVal b.gradW48 (s.devNat p (b.gradAddr + gs * q) gs)
      master := s.devNat p (b.regionAddr + 4 * q) 4
      states := (List.range (shStates shard)).map fun j => s.devNat p (b.regionAddr + denseState b.count w j + w * q) w }

/-- The bytes of a dense range that an UPDATE reads (R269). -/
def denseReadsOf (shard : Nat) (b : UpdateBody) : List Nat :=
  let w := if shBf16 shard then 2 else 4
  rangeFrom b.regionAddr (4 * b.count)
    ++ ((List.range (shStates shard)).flatMap fun j => rangeFrom (b.regionAddr + denseState b.count w j) (w * b.count))
    ++ (if b.freezePresent then rangeFrom (b.regionAddr + denseFreeze shard b) (cdiv b.count 8) else [])
    ++ rangeFrom b.gradAddr (gradBytes b.gradW48 * b.count)

/-- How an UPDATE of a dense range writes its states and its copy. -/
def denseForm (i : Issue) (p shard : Nat) (b : UpdateBody) : UForm :=
  { unit := tuftOf i.frond, part := p, numctl := b.numctl, bf16 := shBf16 shard
    valFmt := if b.copyFmt = 1 then some 6 else if b.copyFmt = 2 then some 7 else none, scale := fun _ => 0x7F }

/-- The writes of an UPDATE of a dense range: masters, states and copy (R269, R270). -/
def denseCells (shard : Nat) (b : UpdateBody) (a : UAcc) : List (Nat × Byte) :=
  let w := if shBf16 shard then 2 else 4
  partCells b.regionAddr (fun j => b.regionAddr + denseState b.count w j) w a
    ++ a.values.flatMap fun v => cellsAt (b.regionAddr + denseCopy shard b + 2 * v.1) (leBytes 2 v.2)

/-- An UPDATE finds its health word and its shard record (R262, R284). -/
structure State.UpdateReads (s : State) (p : Nat) (b : UpdateBody) (word shard : Nat) : Prop where
  health : s.Readable p (rangeFrom b.healthAddr 32)
  wordIs : word = s.devNat p b.healthAddr 32
  record : (b.dense && b.count == 0) = false → s.Readable p (rangeFrom b.shardAddr 64)
  shardIs : shard = s.devNat p b.shardAddr 64

/-- The tiles of a range as a Soredia unit reads them from the active region. -/
def State.tilesOf (s : State) (p : Nat) (m : MaskSlot) (first n : Nat) : List TileRead :=
  (rangeFrom first n).map fun t =>
    let base := m.activeBase + t * slotBytes m.policy
    { t := t, base := base, bytes := fun o => s.devByte p (base + o)
      freeze := (rangeFrom (base + slotFreezeBits m.policy) 8192).map (s.devByte p) }

/-- Every tile of a range passes the checks of R254 and can be read, with the further bytes of `more`. -/
def State.TilesRead (s : State) (p : Nat) (m : MaskSlot) (more : Nat → Nat → List Nat) (first n : Nat) : Prop :=
  ∀ x ∈ s.tilesOf p m first n, checkTile x.bytes true true true (fun _ => true) = none ∧
    s.Readable p (rangeFrom x.base (max 64 (min (polTileBytes m.policy) (tileExtent x.header)))
      ++ rangeFrom (x.base + slotFreezeBits m.policy) 8192 ++ more x.base x.header)

/-! ### The vector engine -/

/-- The state in which a vector instruction runs: the errors that came up in frond stores are in place, and the bank cycles
it loses are counted (R120). -/
def State.vecAt (r : State) (f : Nat) (v : VFields) : State :=
  (r.strike v.strikes).countStalls (ownBank f .vector) v.contests

/-- A kernel of partition p runs on frond f, and its next instruction is opcode op with fields v. -/
structure State.RunsKernel (s : State) (f p op : Nat) (v : VFields) : Prop where
  stores : s.Canonical
  inner : (s.frond f).Canonical
  frond : f < 128
  fields : v.wf = true
  work : s.workOf f = some p
  readable : s.vecUnread p f = none
  next : s.vecNext f op v = true

/-- The frond and the fields of a vector instruction, and whether its type, rounding and condition codes are none of the
reserved ones (instruction field map, opcode notes). -/
def kernelRow : Instr → Option (Nat × VFields × Bool)
  | .fma f v => some (f, v, decide (v.t ≤ 2) && rmOk v.t v.rm)
  | .add f v | .sub f v => some (f, v, anyType v.t && rmOk v.t v.rm)
  | .mul f v => some (f, v, anyType v.t && v.t != 3 && rmOk v.t v.rm)
  | .div f v | .sqrt f v => some (f, v, decide (v.t ≤ 1) && rmOk v.t v.rm)
  | .min f v | .max f v => some (f, v, anyType v.t)
  | .abs f v | .neg f v | .red f v => some (f, v, anyType v.t && rmOk v.t v.rm)
  | .exp2 f v | .log2 f v => some (f, v, v.t == 0 && rmOk v.t v.rm)
  | .cvt f v => some (f, v, anyType v.t && anyType (immLow v 3) &&
      (if isInt v.t && isInt (immLow v 3) then decide (v.rm ≤ 2) else decide (v.rm ≤ 5)))
  | .cmp f v => some (f, v, anyType v.t && decide (immLow v 3 ≤ 6))
  | .classify f v => some (f, v, isFloat v.t)
  | .and f v | .or f v | .xor f v | .shl f v | .shr f v | .shra f v => some (f, v, isInt v.t)
  | .sel f v | .movi f v | .movs f v | .xlane f v | .ld f v | .st f v | .ldx f v | .stx f v => some (f, v, anyType v.t)
  | .lane f v => some (f, v, v.t == 4)
  | .sadd f v | .ssub f v | .smul f v => some (f, v, decide (v.rm ≤ 2))
  | .rng f v | .lds f v | .sts f v | .sshl f v | .sshr f v | .sli f v | .br f v | .bnz f v | .bz f v | .anyp f v | .rdflg f v
  | .clrflg f v | .halt f v => some (f, v, true)
  | _ => none

/-- One vector instruction of frond f: it counts its issue cycles, the engine goes on at pc, and nothing but that engine
and the generators changes. -/
structure VecStep (s t : State) (f cycles pc : Nat) : Prop where
  counts : t.reg 1 f 0x1118 = s.reg 1 f 0x1118 + BitVec.ofNat 64 cycles
  regs : ∀ k, k ≠ regKey 1 f 0x1118 → sget regReset t.regs k = sget regReset s.regs k
  next : (t.frond f).vec.pc = pc
  other : ∀ g, g ≠ f → t.frond g = s.frond g
  own : { t.frond f with vec := (s.frond f).vec } = s.frond f
  rest : { t with fronds := s.fronds, regs := s.regs, gens := s.gens } = s

/-- The index of the instruction after the one that runs. -/
def State.nextPc (s : State) (f : Nat) : Nat := ((s.frond f).vec.pc + 1) % 8192

/-- Whether a rounding code draws from the lane's generator (R80, R170). -/
def rmDraws (numctl rm : Nat) : Bool := (rm == 0 && ncStochastic numctl) || decide (5 ≤ rm)

/-- The rounding of a lane. -/
def State.laneRound (s : State) (f : Nat) (v : VFields) (l : Nat) : Rounding :=
  (vecRound (s.frond f).vec.numctl v.rm s.gens (f * 128 + l)).1

/-- Register n of lane l of frond f. -/
def State.lane (s : State) (f l n : Nat) : Nat := (s.frond f).vec.vreg l n

/-- A lane operation (R165, R166, R169): each active lane's v[d] takes its result and its flags stick; every other vector
register, and every inactive lane, is as before; where the operation rounds with a draw, each active lane's generator steps
once (R86). -/
structure LaneStep (s t : State) (f : Nat) (v : VFields) (cycles : Nat) (draws : Bool) (res : Nat → FlagResult) : Prop where
  step : VecStep s t f cycles (s.nextPc f)
  active : ∀ l, l < 128 → (s.frond f).vec.active v l = true →
    t.lane f l v.d = (res l).code ∧ (t.frond f).vec.flag l = (s.frond f).vec.flag l ||| (res l).flags
  idle : ∀ l, l < 128 → (s.frond f).vec.active v l = false →
    t.lane f l v.d = s.lane f l v.d ∧ (t.frond f).vec.flag l = (s.frond f).vec.flag l
  others : ∀ l n, l < 128 → n % 32 ≠ v.d % 32 → t.lane f l n = s.lane f l n
  vec : { (t.frond f).vec with vregs := (s.frond f).vec.vregs, flags := (s.frond f).vec.flags, pc := (s.frond f).vec.pc } = (s.frond f).vec
  drawn : ∀ l, l < 128 → (s.frond f).vec.active v l = true →
    t.gen (f * 128 + l) = if draws then genStep (s.gen (f * 128 + l)) else s.gen (f * 128 + l)
  kept : ∀ k, (∀ l, l < 128 → (s.frond f).vec.active v l = true → k ≠ f * 128 + l) → t.gen k = s.gen k

/-- A scalar instruction: one issue cycle, s[d] takes the value (none when d is 0, R160), and the rest of the engine is as
before. -/
structure ScalarStep (s t : State) (f : Nat) (d cycles : Nat) (value : Dword) : Prop where
  step : VecStep s t f cycles (s.nextPc f)
  written : d % 16 ≠ 0 → (t.frond f).vec.sreg d = value
  others : ∀ n, n % 16 ≠ d % 16 ∨ d % 16 = 0 → (t.frond f).vec.sreg n = (s.frond f).vec.sreg n
  vec : { (t.frond f).vec with sregs := (s.frond f).vec.sregs, pc := (s.frond f).vec.pc } = (s.frond f).vec
  gens : t.gens = s.gens

end Sys2Proof.Machine
end

