-- ==== Sys2Proof/Certificates/Slice0/Obligations.lean ====
section
/-! DEFINITION. The statements for the provers. Each says which rules of spec/ it formalises; a statement about what a
command leaves unchanged says it as an equation of states: the next state, with the fields the command writes put back,
is the state before. -/

open Sys2Proof Sys2Proof.Machine

/-! ### The queue, the tick and the stores -/

/-- Taking the command at the front of the queue runs exactly it, on the state with the queue's rest.
The model's own choices in it: log entry 1. -/
def Obligations.StepRunsTheFrontCommand : Prop :=
  ∀ (c : Instr) (rest : List Instr) (s : State),
    step { s with pending := c :: rest } = exec c { s with pending := rest }

/-- The reset values that the register maps and R25, R33, R53, R393, R466, R490, R574 and R599 state. -/
def Obligations.ResetHoldsTheStatedValues : Prop :=
  State.reset.pending = [] ∧ State.reset.tick.period = 100000 ∧ State.reset.tick.source = 0 ∧ State.reset.tick.count = 0 ∧
  State.reset.pkg.fwState = 0 ∧ State.reset.power.limit = 1800 ∧ State.reset.power.floor = 0 ∧ State.reset.power.ramp = 200 ∧
  State.reset.reg 0 0 0x404C = 1 ∧
  (∀ p, (State.reset.part p).state = .free) ∧
  (∀ i, (State.reset.port i).state = 0) ∧
  (∀ m, (State.reset.mailbox m).respStatus = 0x10000) ∧
  (∀ k, State.reset.ledger k = Ledger.zero) ∧
  (∀ i, i < 8 → State.reset.reg clsStack i 0x110C = 0x800000C8) ∧
  (∀ i, i < 8 → State.reset.reg clsChannel i 0x110C = 0x80000032) ∧
  (∀ i, i < 16 → State.reset.reg clsPart i 0x1150 = 0x100) ∧
  State.reset.indus.meas = List.replicate 21 (0, 0)

/-- R31: only TICK_CONFIG and the resets of the package change the tick period and the tick source; while a partition runs,
TICK_CONFIG changes neither, and with legal arguments it answers NOT_ALLOWED. R33: a tick edge increments TICK_COUNT, a number of
64 bits, by one; package cold and warm reset clear it; no other command changes it. -/
def Obligations.OnlyTickConfigChangesThePeriod : Prop :=
  (∀ (c : Instr) (s t : State), exec c s = .next t →
    (∃ m, c = .tickConfig m) ∨ c = .warmResetEntry ∨ c = .perstAssert ∨ c = .pwrOkFall ∨
    (∃ f b x, c = .pwrOkRise f b x) ∨ c = .referenceLoss .system ∨
    (t.tick.period = s.tick.period ∧ t.tick.source = s.tick.source)) ∧
  (∀ (m : Nat) (c : Taken) (s : State), s.Canonical → s.Presents m 0x50 c → (∃ p, p < 16 ∧ (s.part p).state = .running) →
    ∃ t, exec (.tickConfig m) s = .next t ∧ t.tick = s.tick ∧
      (2000 ≤ c.arg 8 4 → c.arg 8 4 ≤ 2000000 → c.arg 12 1 ≤ 2 → c.arg 13 1 ≤ 15 → t.Answered m c 0x11 [0xFF])) ∧
  (∀ (c : Instr) (s t : State), exec c s = .next t →
    c = .tickEdge ∨ c = .warmResetEntry ∨ c = .perstAssert ∨ c = .pwrOkFall ∨ (∃ f b x, c = .pwrOkRise f b x) ∨
    c = .referenceLoss .system ∨ t.tick.count = s.tick.count) ∧
  (∀ s : State, s.ticking = true → ∃ t, exec .tickEdge s = .next t ∧ t.tick.count = s.tick.count + 1) ∧
  (∀ s : State, s.ticking = false → exec .tickEdge s = .next s) ∧
  (∀ (c : Instr) (s : State),
    (s.pkg.pwrOk = false ∧ ∃ f b x, c = .pwrOkRise f b x) ∨
    (s.pkg.pwrOk = true ∧ (c = .pwrOkFall ∨ c = .referenceLoss .system ∨
      (c = .perstAssert ∧ s.pkg.perst = false ∧ s.pkg.coldBoot = true) ∨
      (c = .warmResetEntry ∧ s.pkg.inWarmReset = false ∧ s.pkg.warmRequested = true ∧ s.pkg.thermalTrip = false))) →
    ∃ t, exec c s = .next t ∧ t.tick.count = 0)

/-- R30: the tick period stays in 2,000 to 2,000,000 across every step. -/
def Obligations.StepKeepsTheTickPeriodLegal : Prop :=
  ∀ s t : State, s.PeriodLegal → step s = .next t → t.PeriodLegal

/-- Every step keeps the memories, register files and other sparse stores of State.Canonical in their canonical form.
The model's own choices in it: log entry 3. -/
def Obligations.StepKeepsStoresCanonical : Prop :=
  ∀ s t : State, s.Canonical → step s = .next t → t.Canonical

/-- Every step keeps the stores inside every frond in their canonical form.
The model's own choices in it: log entry 3. -/
def Obligations.StepKeepsFrondStoresCanonical : Prop :=
  ∀ s t : State, s.Canonical → (∀ f, (s.frond f).Canonical) → step s = .next t → ∀ f, (t.frond f).Canonical

/-- The three invariants hold at reset.
The model's own choices in it: log entries 2 and 3. -/
def Obligations.ResetMeetsTheInvariants : Prop :=
  State.reset.Canonical ∧ State.reset.PeriodLegal ∧ ∀ f, (State.reset.frond f).Canonical

/-! ### Test port and console -/

/-- The eight instructions of the test access port, TRST# and UART_RX while the package has power (R630 to R632): the
instruction loaded, whether it takes hold of the pins, the bits shifted out, and nothing else. Endpoint IDs and the dynamic
address (R577, R628), and what they open: until an endpoint ID is assigned, a request over that endpoint is not answered.
The model's own choices in it: log entries 2, 72 and 74. -/
def Obligations.TestPortAndEndpointsAct : Prop :=
  (∀ s : State, s.pkg.pwrOk = true →
      (∀ b, exec (.bypass b) s = .next { s with test := { s.test with
        ir := .bypass, holdsPins := false, tdo := [s.test.bypassBit], bypassBit := b } }) ∧
      (∃ t, exec .idcode s = .next t ∧ t.test.ir = .idcode ∧ t.test.holdsPins = false ∧ t.test.tdo.length = 32 ∧
        (∀ i, i < 32 → t.test.tdo.getD i false =
          (bitsOf Config.rev.toNat 8 4 * 2 ^ 28 + 0x9608 * 2 ^ 12 + 0x2B5 * 2 + 1).testBit i) ∧ { t with test := s.test } = s) ∧
      (∀ cells, ∃ t, exec (.samplePreload cells) s = .next t ∧ t.test.ir = .samplePreload ∧ t.test.holdsPins = false ∧
        t.test.cells = cells ∧ t.test.tdo.length = cells.length ∧ { t with test := s.test, freeCtr := s.freeCtr } = s) ∧
      (∀ p ∈ [(Instr.extest, JtagIr.extest), (.extestPulse, .extestPulse), (.extestTrain, .extestTrain), (.clamp, .clamp),
          (.highz, .highz)],
        ∃ t, exec p.1 s = .next t ∧ t.test.ir = p.2 ∧
          t.test.holdsPins = (s.pkg.inWarmReset && s.pkg.perst) ∧ t.test.cells = s.test.cells ∧ { t with test := s.test } = s) ∧
      (∃ t, exec .trstAssert s = .next t ∧ t.test.ir = .idcode ∧ t.test.holdsPins = false ∧ { t with test := s.test } = s) ∧
      (∀ b, exec (.uartRxInput b) s = .next
        (if s.indus.debugScope.testBit 2 then { s with test := { s.test with rx := s.test.rx ++ [b] } } else s))) ∧
  ((∀ (e : Byte) (s : State), s.fwRuns = true → e ≠ 0 → e ≠ 0xFF →
      exec (.setEndpointId .smbus e) s = .next
        { s with indus := { s.indus with eidSmbus := some e, response := .eidAssigned e } }) ∧
    (∀ (a : BitVec 7) (s : State), s.pkg.pwrOk = true → s.pkg.inWarmReset = false →
      exec (.i3cDynamicAddressAssign a) s = .next { s with indus := { s.indus with i3cAddr := some a } }) ∧
    (∀ (e : Byte) (s : State) (a : BitVec 7), s.fwRuns = true → e ≠ 0 → e ≠ 0xFF → s.indus.i3cAddr = some a →
      exec (.setEndpointId .i3c e) s = .next
        { s with indus := { s.indus with eidI3c := some e, response := .eidAssigned e } }) ∧
    (∀ (s : State), s.indus.eidSmbus = none → exec (.getVersion .smbus) s = .next s))

/-! ### SPDM and the management endpoints -/

/-- R447, R567 and R576: negotiation answers in its order and gives the certificates; challenges and measurements are signed by
the identity key; sessions are opened with a key exchange, finished, kept, and ended, and IDE keys are programmed in one.
The model's own choices in it: log entries 71 and 72. -/
def Obligations.SpdmRequestsAreAnswered : Prop :=
  (∀ (t : Transport) (s : State), s.spdmServed t = true →
      (∃ u, exec (.getVersion t) s = .next u ∧ u.indus.response = .version ∧
        u.indus.connection t = { version := true, capabilities := false, algorithms := false, exchange := false } ∧
        (∀ t', t' ≠ t → u.indus.connection t' = s.indus.connection t') ∧ { u with indus := s.indus } = s) ∧
      ((s.indus.connection t).version = true → ∃ u, exec (.getCapabilities t) s = .next u ∧ u.indus.response = .capabilities ∧
        u.indus.connection t = { s.indus.connection t with capabilities := true } ∧ { u with indus := s.indus } = s) ∧
      ((s.indus.connection t).capabilities = true → ∀ k, ∃ u, exec (.negotiateAlgorithms t true true k) s = .next u ∧
        u.indus.response = .algorithms ∧ (u.indus.connection t).algorithms = true ∧ (u.indus.connection t).exchange = k ∧
        { u with indus := s.indus } = s) ∧
      ((s.indus.connection t).algorithms = true → s.indus.certSet = true →
        exec (.getDigests t) s = .next { s with indus := { s.indus with response := .digests (sha384 s.indus.chain) } } ∧
        ∀ o n, o < s.indus.chain.length → exec (.getCertificate t 0 o n) s = .next { s with indus := { s.indus with
          response := .certificate ((s.indus.chain.drop o).take n) (s.indus.chain.length - o - min n (s.indus.chain.length - o)) } })) ∧
  (∀ (t : Transport) (s : State), s.spdmServed t = true → (s.indus.connection t).algorithms = true →
      (∀ nonce tr, s.indus.certSet = true → ∃ u, exec (.challenge t 0 nonce tr) s = .next u ∧
        (s.indus.lifecycle = 3 → u.indus.response = .unspecifiedError) ∧
        (s.indus.lifecycle ≠ 3 → ∃ n a b, u.indus.response = .signed [sha384 s.indus.chain, n] a b) ∧
        { u with indus := s.indus, freeCtr := s.freeCtr } = s) ∧
      (∀ tr, ∃ u, exec (.getMeasurements t 0xFF true tr) s = .next u ∧
        (s.indus.lifecycle = 3 → u.indus.response = .unspecifiedError) ∧
        (s.indus.lifecycle ≠ 3 → ∃ g, u.indus.response =
          .measurements (s.indus.meas.zipIdx.map fun e => (e.2 + 1, e.1.1)) (some g)) ∧
        { u with indus := s.indus, freeCtr := s.freeCtr } = s) ∧
      (∀ i, i < s.indus.meas.length → i < 0xFE → ∀ tr, ∃ u, exec (.getMeasurements t (i + 1) false tr) s = .next u ∧
        u.indus.response = .measurements [(i + 1, (s.indus.meas.getD i (0, 0)).1)] none ∧ { u with indus := s.indus } = s)) ∧
  (∀ (t : Transport) (s : State), s.spdmServed t = true → (s.indus.connection t).algorithms = true →
      ((s.indus.connection t).exchange = true → s.indus.certSet = true → s.indus.lifecycle ≠ 3 → s.indus.sessions.length < 4 →
        ∀ tr, ∃ u a b, exec (.keyExchange t 0 tr) s = .next u ∧ u.indus.response = .keyExchangeRsp s.indus.nextSession a b ∧
          u.indus.nextSession = s.indus.nextSession + 1 ∧
          u.indus.sessions = s.indus.sessions ++
            [{ id := s.indus.nextSession, transport := t, established := false, keyUpdates := 0 }] ∧
          { u with indus := s.indus, freeCtr := s.freeCtr } = s) ∧
      (4 ≤ s.indus.sessions.length → (s.indus.connection t).exchange = true → s.indus.certSet = true →
        ∀ tr, exec (.keyExchange t 0 tr) s = .next { s with indus := { s.indus with response := .sessionLimitExceeded } }) ∧
      (∀ id e, s.indus.session t id = some e → e.established = false → ∃ u, exec (.finish t id true) s = .next u ∧
        u.indus.response = .finishRsp ∧ u.indus.session t id = some { e with established := true } ∧
        { u with indus := s.indus } = s) ∧
      (∀ id e, s.indus.session t id = some e → e.established = true →
        (∃ u, exec (.keyUpdate t id) s = .next u ∧ u.indus.response = .keyUpdateAck ∧
          u.indus.session t id = some { e with keyUpdates := e.keyUpdates + 1 } ∧ { u with indus := s.indus } = s) ∧
        exec (.heartbeat t id) s = .next { s with indus := { s.indus with response := .heartbeatAck } } ∧
        (∃ u, exec (.endSession t id) s = .next u ∧ u.indus.response = .endSessionAck ∧ u.indus.session t id = none ∧
          { u with indus := s.indus } = s) ∧
        (t = .doe → ∀ l n,
          (∃ u, exec (.vendorDefinedRequest t id .query) s = .next u ∧ u.indus.response = .vendorDefined .query true ∧
            { u with indus := s.indus } = s) ∧
          (∀ rx k, ∃ u, exec (.vendorDefinedRequest t id (.keyProg l n rx k)) s = .next u ∧
            u.indus.response = .vendorDefined (.keyProg l n rx k) true ∧
            u.indus.ideStream l n = { s.indus.ideStream l n with
              rxKey := if rx then some k else (s.indus.ideStream l n).rxKey
              txKey := if rx then (s.indus.ideStream l n).txKey else some k } ∧ { u with indus := s.indus } = s) ∧
          ((s.indus.ideStream l n).rxKey.isSome = true → (s.indus.ideStream l n).txKey.isSome = true →
            ∃ u, exec (.vendorDefinedRequest t id (.keysGo l n)) s = .next u ∧
              u.ideMode l = (match l with | .cacheMem => .containment | .io => .linkStream) ∧ { u with indus := s.indus } = s))))



/-! ### Power, clocks and resets -/

/-- R584 and R588: between two estimates a frond's current rises by at most 700 mA, falls by at most 420 mA and never
exceeds 22,000 mA; a tuft's units 650, 390 and 11,000 mA. No other frond's or tuft's current moves, and no memory. Currents within
those caps never draw more than 1,496 A from one compute rail.
The model's own choices in it: log entries 9, 38 and 111. -/
def Obligations.GovernorKeepsItsRatesAndCaps : Prop :=
  (∀ (tuft : Bool) (ix a : Nat) (s : State), s.Canonical → ix < (if tuft then 16 else 128) →
    ∃ t, exec (.governorEstimate tuft ix a) s = .next t ∧
      (let k := if tuft then 128 + ix else ix
       t.currentOf k ≤ (if tuft then 11000 else 22000) ∧ t.currentOf k ≤ s.currentOf k + (if tuft then 650 else 700) ∧
       min (if tuft then 11000 else 22000) (s.currentOf k - (if tuft then 390 else 420)) ≤ t.currentOf k ∧
       ∀ j, j ≠ k → t.currentOf j = s.currentOf j) ∧
      { t with power := s.power, regs := s.regs, freeCtr := s.freeCtr } = s) ∧
  (∀ (s : State) (h : Nat), h < 2 → (∀ f, f < 128 → s.currentOf f ≤ 22000) → (∀ u, u < 16 → s.currentOf (128 + u) ≤ 11000) →
    ((List.range 64).map fun i => s.currentOf (64 * h + i)).sum +
      ((List.range 8).map fun i => s.currentOf (128 + 8 * h + i)).sum ≤ 1496000)

/-- R601, R603, R604: a halving detected outside a guard begins at once, inside one it waits; it marks every running
partition, counts the entry and sets clock_halved; the clock steps down and up through eight steps; restoration begins
unless the thermal cause still stands. -/
def Obligations.HalvingBeginsStepsAndEnds : Prop :=
  (∀ (s : State) (c : Nat), s.Canonical → s.tick.guardOpen = false → s.power.detected = some c →
    ∃ t, exec .emergencyHalving s = .next t ∧
      t.power = { s.power with detected := none, firstCause := c, causes := [c], direction := 1 } ∧
      t.reg clsTuft 0 0x113C = BitVec.ofNat 64 (((s.reg clsTuft 0 0x113C).toNat + 1) % 2 ^ 32) ∧
      (t.reg 0 0 0x104).getLsbD 8 = true ∧ t.pkg.faultPin = true ∧
      (∀ p, t.part p = if (s.part p).active then { s.part p with halvedMark := true } else s.part p) ∧
      { t with power := s.power, parts := s.parts, regs := s.regs, pkg := s.pkg, host := s.host, msixPending := s.msixPending } = s) ∧
  (∀ s : State, s.tick.guardOpen = true → exec .emergencyHalving s = .next s) ∧
  (∀ s : State, s.power.direction = 1 → s.power.step < 8 → exec .clockStep s = .next { s with power := { s.power with
      step := s.power.step + 1, direction := if s.power.step + 1 = 8 then 0 else 1 } }) ∧
  (∀ s : State, s.power.direction = -1 → 1 < s.power.step →
    exec .clockStep s = .next { s with power := { s.power with step := s.power.step - 1 } }) ∧
  (∀ s : State, s.power.direction = -1 → s.power.step ≤ 1 →
    exec .clockStep s = .next { s with power := { s.power with step := 0, direction := 0, causes := [], firstCause := 0 } }) ∧
  (∀ s : State, (s.power.step ≠ 0 ∨ s.power.direction ≠ 0) → (4 ∈ s.power.causes → ∀ e ∈ s.power.temps, e.2 < 840) →
    exec .clockRestore s = .next { s with power := { s.power with direction := -1 } })

/-- R583, R600, R605 and R606: what a current sample, a temperature sample, a lost voltage margin and a thermal trip do.
The model's own choices in it: log entries 39 and 110. -/
def Obligations.SensorsAct : Prop :=
  (∀ (amps : Nat) (slew : Int) (w : Nat) (s : State), -300 ≤ slew → slew ≤ 500 → w ≤ 2100 →
    (amps ≤ 1500 → exec (.currentSample 0 amps slew w) s = .next
      { s with power := { s.power with sum0 := s.power.sum0 + amps, samples0 := s.power.samples0 + 1 } } ∧
      exec (.currentSample 1 amps slew w) s = .next
      { s with power := { s.power with sum1 := s.power.sum1 + amps, samples1 := s.power.samples1 + 1 } }) ∧
    (1500 < amps → s.power.step = 0 → s.power.direction = 0 → s.power.detected = none →
      exec (.currentSample 0 amps slew w) s = .next { s with power := { s.power with
        sum0 := s.power.sum0 + amps, samples0 := s.power.samples0 + 1, detected := some 2 } })) ∧
  (∀ (rail amps : Nat) (slew : Int) (w : Nat) (s : State), s.Canonical → rail < 2 → (500 < slew ∨ slew < -300) →
    s.power.step = 0 → s.power.direction = 0 → s.power.detected = none →
    ∃ t, exec (.currentSample rail amps slew w) s = .next t ∧ t.power.detected = some 1 ∧ (t.reg 0 0 0x104).getLsbD 14 = true ∧
      t.mem = s.mem ∧ t.parts = s.parts) ∧
  (∀ (die tuft : Nat) (temp : Int) (s : State), s.Canonical → die < 2 → tuft < 16 → tuft / 8 = die →
    ∃ t, exec (.tempSample die tuft temp) s = .next t ∧ sget (fun _ => 0) t.power.temps (16 * die + tuft) = temp ∧
      (800 ≤ temp → (t.reg clsTuft tuft 0x1100).getLsbD 13 = true) ∧
      (880 ≤ temp → s.power.step = 0 → s.power.direction = 0 → s.power.detected = none → t.power.detected = some 4) ∧
      { t with power := s.power, regs := s.regs } = s) ∧
  (∀ s : State, exec (.voltageMarginLoss 0) s = .next { s with power := { s.power with raise0 := true } } ∧
    exec (.voltageMarginLoss 1) s = .next { s with power := { s.power with raise1 := true } }) ∧
  (∀ (die : Nat) (temp : Int) (s : State), s.Canonical → die < 5 → 920 ≤ temp → s.pkg.thermalTrip = false →
    ∃ t, exec (.thermalTrip die temp) s = .next t ∧ t.pkg.thermalTrip = true ∧ t.pkg.arithStopped = true ∧
      (t.reg 0 0 0x104).getLsbD 15 = true ∧ t.mem = s.mem ∧
      ∀ p, p < 16 → (s.part p).active = true → (t.part p).state = .faulted)

/-- R445, R614, R616, R617, R622 and R625: the power pins. PWR_OK rising begins a cold reset with the straps sampled; falling
stops every clock and releases the pins; PERST# takes the link down and, where the host port offers 256-byte flits, up; before
fw_state 3 it restarts the reset.
The model's own choices in it: log entries 2, 66 and 150. -/
def Obligations.PowerPinsResetThePackage : Prop :=
  (∀ (f : BitVec 4) (ps hi : Bool) (o : HostPort) (s : State), s.pkg.pwrOk = false →
    ∃ t, exec (.pwrOkRise f ps ⟨hi, o⟩) s = .next t ∧ t.pkg.linkUp = (hi && portTrains o) ∧ t.host.port = o ∧ t.pkg.pwrOk = true ∧ t.pkg.feedId = f ∧ t.pkg.pairSense = ps ∧
      t.pkg.perst = !hi ∧ t.pkg.fwState = 0 ∧ t.pkg.tickOutDriven = true ∧ t.pkg.uartHigh = true ∧
      t.tick = State.reset.tick ∧ t.regs = [] ∧ t.parts = [] ∧ t.mailboxes = [] ∧ t.routes = [] ∧
      t.indus.fuses = s.indus.fuses ∧ t.indus.flash = s.indus.flash ∧ t.pending = s.pending) ∧
  (∀ s : State, s.pkg.pwrOk = true →
    ∃ t, exec .pwrOkFall s = .next t ∧ t.pkg.pwrOk = false ∧ t.pkg.clocksStopped = true ∧ t.pkg.tickOutDriven = false ∧
      t.pkg.uartHigh = false ∧ t.pkg.faultPin = false ∧ t.pkg.thermalTrip = s.pkg.thermalTrip ∧
      t.indus.fuses = s.indus.fuses) ∧
  (∀ s : State, s.pkg.perst = false → s.pkg.pwrOk = true → s.pkg.coldBoot = true →
    ∃ t, exec .perstAssert s = .next t ∧ t.pkg.fwState = 0 ∧ t.pkg.perst = true ∧ t.pkg.linkUp = false ∧ t.parts = [] ∧
      t.pkg.memState = []) ∧
  (∀ s : State, s.pkg.perst = true → ∃ t, exec .perstRelease s = .next t ∧ t.test.holdsPins = false ∧
    t.pkg.perst = false ∧ t.pkg.linkUp = (s.pkg.pwrOk && portTrains s.host.port) ∧
    t.pkg.inWarmReset = (s.pkg.inWarmReset && s.pkg.lostRefs.contains .system) ∧
    (t.pkg.linkUp = true → t.pkg.linkRate = s.host.port.rate ∧ t.pkg.linkWidth = s.host.port.width) ∧
    { t with test := s.test, pkg := s.pkg } = s) ∧
  (∀ o : HostPort, portTrains o = true ↔ o.flit256 = true ∧ (o.rate = 128 ∨ o.rate = 64 ∨ o.rate = 32) ∧
    (o.width = 16 ∨ o.width = 8 ∨ o.width = 4))

/-- R597 and R615: PERST# asserted after boot, a CXL hot reset and a watchdog expiry request a warm reset: every running
or stopping partition stops without a fault record, and memory stays. R33, R442, R473 and R531: what entering it resets
and keeps; R608: a lost system reference stops the clock, asserts FAULT# and holds the package in warm reset until it is stable;
a lost CXL reference takes the link down and a lost Pliund reference every port.
The model's own choices in it: log entries 65 and 66. -/
def Obligations.WarmResetsAndReferencesActOnThePackage : Prop :=
  ((∀ (c : Instr) (s : State), s.Canonical → s.pkg.pwrOk = true → s.pkg.inWarmReset = false →
      (c = .cxlHotReset ∨ c = .watchdogExpiry ∨ (c = .perstAssert ∧ s.pkg.perst = false ∧ s.pkg.coldBoot = false)) →
      ∃ t, exec c s = .next t ∧ t.pkg.warmRequested = true ∧ t.mem = s.mem ∧ t.sporeOut = s.sporeOut ∧
        ∀ p, p < 16 → (t.part p).state = (if (s.part p).active then .stopped else (s.part p).state)) ∧
    (∀ s : State, s.Canonical → s.pkg.pwrOk = true → s.pkg.inWarmReset = false → s.pkg.warmRequested = true →
      s.pkg.thermalTrip = false →
      ∃ t, exec .warmResetEntry s = .next t ∧ t.tick.count = 0 ∧ t.mailboxes = [] ∧ t.routes = [] ∧ t.pair.bound = false ∧
        t.pkg.fwState = 0 ∧ (∀ f, f < 128 → (t.frond f).retired = (s.frond f).retired) ∧
        (∀ a, 0x0100_0000_0000 ≤ a → t.byteAt a = s.byteAt a) ∧ t.indus.fuses = s.indus.fuses)) ∧
  (∀ s : State, s.pkg.pwrOk = true →
      (∃ t, exec (.referenceLoss .system) s = .next t ∧ t.pkg.clocksStopped = true ∧ t.pkg.faultPin = true ∧
        t.pkg.inWarmReset = true ∧ t.pkg.lostRefs.contains .system = true ∧ t.tick.count = 0) ∧
      exec (.referenceLoss .cxl) s = .next { s with pkg := { s.pkg with linkUp := false } } ∧
      (s.Canonical → ∃ t, exec (.referenceLoss .pliund) s = .next t ∧ (∀ i, i < 16 → (t.port i).state ≠ 2) ∧ t.mem = s.mem) ∧
      (s.pkg.lostRefs.contains .system = true → ∃ t, exec .referenceStable s = .next t ∧ t.pkg.clocksStopped = false ∧
        t.pkg.lostRefs.contains .system = false ∧ t.pkg.inWarmReset = s.pkg.perst ∧ { t with pkg := s.pkg } = s))



/-! ### The tick and waits -/

/-- R33, R40, R41 and R508: a tick edge counts TICK_COUNT up by one, closes the guard, pulses TICK_OUT, and sends a beacon
with the count's low 32 bits on each port that is up with beacon_tx set; a guard takes the
snapshot of registers and ledgers for the coming tick and leaves no shadowed write; neither happens while the clocks
stand.
The model's own choices in it: log entries 47 and 146. -/
def Obligations.TickEdgesCountAndGuardsSnapshot : Prop :=
  (∀ s : State, s.ticking = true → ∃ t, exec .tickEdge s = .next t ∧ t.tick.count = s.tick.count + 1 ∧
    t.tick.guardOpen = false ∧ t.tick.pulses = s.tick.pulses + 1 ∧ t.tick.period = s.tick.period ∧ t.livePosted = [] ∧
    (s.tick.guardOpen = true → ∀ i, i < 16 → s.portUp i = true → (s.reg clsPort i offPlnCtrl).getLsbD 1 = true →
      ∃ d, d ≤ 30 ∧ (t.port i).beacon = some (d, (s.tick.count + 1).setWidth 32))) ∧
  (∀ s : State, s.ticking = true → s.tick.guardOpen = false → ∃ t, exec .tickGuard s = .next t ∧
    t.tick = { s.tick with guardOpen := true } ∧
    t.snap = { tick := s.tick.count.toNat + 1, regs := s.regs, energy := s.power.energyMj, ledgers := s.ledgers } ∧
    t.shadow = []) ∧
  (∀ s : State, s.ticking = false → exec .tickEdge s = .next s ∧ exec .tickGuard s = .next s)

/-- R35, R36, R509, R623: an external edge is measured when its source is selected and ignored otherwise; the local tick
moves towards it by at most 10 ns; 16 edges in a row within 40 ns lock, and one beyond 40 ns unlocks; holdover begins once.
The model's own choices in it: log entries 6 and 83. -/
def Obligations.ExternalTicksAreTracked : Prop :=
  (∀ (ns : Int) (s : State), s.tick.source = 1 → exec (.tickInEdge ns) s = .next
    (let r := if ns.natAbs ≤ 40 then min 16 (s.tick.run + 1) else 0
     { s with tick := { s.tick with
        holdover := false, skewValid := true, skewNs := max (-32767) (min 32767 ns), run := r
        phaseNs := s.tick.phaseNs + max (-10) (min 10 ns), locked := decide (ns.natAbs ≤ 40) && (s.tick.locked || r == 16) } })) ∧
  (∀ (ns : Int) (s : State), s.tick.source ≠ 1 → exec (.tickInEdge ns) s = .next s) ∧
  (∀ (i : Nat) (ns : Int) (n : BitVec 32) (s : State), i < 16 → s.tick.source = 2 → s.tick.beaconPort.toNat = i →
    s.portUp i = true → ∃ t, exec (.beaconReceived i ns n) s = .next t ∧ t.tick.skewValid = true ∧ t.tick.holdover = false ∧
      t.tick.phaseNs = s.tick.phaseNs + max (-10) (min 10 ns) ∧ t.tick.count = s.tick.count ∧
      { t with tick := s.tick, regs := s.regs } = s) ∧
  (∀ s : State, s.tick.source ≠ 0 → s.tick.holdover = false → ∃ t, exec .tickHoldover s = .next t ∧
    t.tick = { s.tick with holdover := true, locked := false, run := 0 } ∧ t.sporeOut.length = s.sporeOut.length + 1 ∧
    { t with tick := s.tick, sporeOut := s.sporeOut, freeCtr := s.freeCtr } = s) ∧
  (∀ s : State, (s.tick.source = 0 ∨ s.tick.holdover = true) → exec .tickHoldover s = .next s)

/-- R529 and R530: a wait report is entered with its object and holders, and a scan between ticks stops exactly the
partitions in whose waits it finds a cycle that the scan before found too, with WAIT_CYCLE.
The model's own choices in it: log entry 81. -/
def Obligations.WaitsAreReportedAndScanned : Prop :=
  (∀ (f : Nat) (q : SeqSel) (p o : Nat) (s : State), f < 128 → s.workOf f = some p → s.waitObject f q = some o →
    exec (.waitReport f q) s = .next { s with waits := s.waits.filter (fun w => !(w.frond == f && w.seq == q)) ++
      [{ frond := f, seq := q, object := o, holders := s.holdersOf p f q }] }) ∧
  (∀ s : State, s.Canonical → ∃ t, exec .waitScanMidtick s = .next t ∧ t.mem = s.mem ∧ t.tick = s.tick ∧ t.waits = s.waits ∧
    (∀ p, p < 16 → (s.part p).sound = true → (s.scan p).1 ≠ [] → (t.part p).faultCode = 0x0102 ∧ p ∈ t.stopMsgs) ∧
    (∀ p, p < 16 → ((s.part p).sound = false ∨ (s.scan p).1 = []) → t.part p = s.part p))

/-! ### Faults and recovery -/

/-- R172, R522, R524 and R544: a stop message puts its partition into faulted; its engines abandon their descriptors and the
fronds' stores keep their contents; fronds whose errors repeat are retired; no memory changes.
The model's own choices in it: log entries 27 and 93. -/
def Obligations.StopMessagesFaultThePartition : Prop :=
  ∀ (p : Nat) (s : State), s.Canonical → p < 16 → p ∈ s.stopMsgs →
    ((s.part p).state = .free ∨ (s.part p).state = .faulted ∨ (s.part p).state = .recovering →
      ∃ t, exec (.partitionStop p) s = .next t ∧
        { t with fronds := s.fronds } = { s with stopMsgs := s.stopMsgs.filter (· != p) } ∧
        ∀ f, f < 128 → t.frond f = { s.frond f with
          retired := (s.frond f).retired || ((s.part p).fronds.getLsbD f && (s.frond f).repeats) }) ∧
    ((s.part p).state ≠ .free → (s.part p).state ≠ .faulted → (s.part p).state ≠ .recovering →
      ∃ t, exec (.partitionStop p) s = .next t ∧ (t.part p).state = .faulted ∧ (t.part p).epochDue = true ∧
        (t.part p).stop = none ∧ (t.part p).start = none ∧ p ∉ t.stopMsgs ∧
        (∀ q, q ≠ p → t.part q = s.part q) ∧
        (∀ f, f < 128 → (s.part p).fronds.getLsbD f = true →
          (t.frond f).stopped = true ∧ (t.frond f).retired = ((s.frond f).retired || (s.frond f).repeats) ∧
          (t.frond f).jobs = [] ∧ (t.frond f).store0 = (s.frond f).store0 ∧
          (t.frond f).store1 = (s.frond f).store1) ∧
        t.fbuf = s.fbuf ∧ t.acc = s.acc ∧ t.mem = s.mem)

/-- R531, R534 to R537: the write fence of a recovering partition resets its sequencers and semaphores; cleaning zeroes
its frond buffers and accumulators and sets ready; a held epoch increments once its 40 µs have passed.
The model's own choices in it: log entries 54 and 94. -/
def Obligations.RecoveryCleansThePartition : Prop :=
  (∀ (p : Nat) (s : State), s.Canonical → p < 16 → (s.part p).fenceDue = true → (s.part p).state = .recovering →
    ∃ t, exec (.writeFenceComplete p) s = .next t ∧ (t.part p).fenceDue = false ∧ (t.part p).state = .recovering ∧
      ∀ f, f < 128 → (s.part p).fronds.getLsbD f = true → (t.frond f).inReset = true ∧
        (t.frond f).fetch = Sequencer.idle ∧ (t.frond f).execute = Sequencer.idle ∧ (t.frond f).plainSems = []) ∧
  (∀ (p : Nat) (s : State), p < 16 → (s.part p).fenceDue = true → (s.part p).state = .faulted →
    exec (.writeFenceComplete p) s = .next (s.setPart p { s.part p with fenceDue := false })) ∧
  (∀ (p : Nat) (s : State), s.Canonical → p < 16 → (s.part p).state = .recovering → (s.part p).ready = false →
    (s.part p).fenceDue = false → (s.part p).suspects = [] →
    ∃ t, exec (.recoveryReady p) s = .next t ∧ (t.part p).ready = true ∧ (t.part p).faultCode = 0 ∧
      (t.part p).state = .recovering ∧ t.mem = s.mem ∧
      ∀ f, f < 128 → (s.part p).fronds.getLsbD f = true → (t.frond f).inReset = false ∧
        (∀ a, a < 0x30_0000 → t.bufByte f a = 0) ∧
        ∀ b r c, b < 2 → r < 128 → c < 128 → sget (fun _ => (0 : Dword)) t.acc (accKey f b r c) = 0) ∧
  (∀ (p : Nat) (s : State), s.Canonical → p < 16 → (s.part p).epochHeld = true → (s.part p).epochDue = true →
    (s.part p).stop = none → ∃ t, exec (.epochHoldExpiry p) s = .next t ∧
      (t.part p).epoch = (if (s.part p).epoch = 0xFFFF then 1 else (s.part p).epoch + 1) ∧ (t.part p).epochDue = false ∧
      t.mem = s.mem) ∧
  (∀ (p : Nat) (s : State), p < 16 → (s.part p).epochHeld = false →
    exec (.epochHoldExpiry p) s = .next (s.setPart p { s.part p with epochRecent := none, epochHeld := false }))

/-- R531, R532, R539, R540, R543 and R544: units that do not answer are recorded; a half reset faults the partitions that
use the half and zeroes its Sphagnum banks only; a frond sweep runs, and its failure retires the frond.
The model's own choices in it: log entries 30, 94 and 114. -/
def Obligations.UnitsAreResetAndSwept : Prop :=
  (∀ (c i : Nat) (s : State), i < classCount c →
    exec (.resetNoAnswer c i) s = .next { s with pkg := { s.pkg with
      noAnswer := (c, i) :: s.pkg.noAnswer.filter (· != (c, i)) } } ∧
    exec (.dumpUnitTimeout c i) s = .next { s with pkg := { s.pkg with
      dumpSilent := (c, i) :: s.pkg.dumpSilent.filter (· != (c, i)) } }) ∧
  (∀ (h : Nat) (s : State), s.Canonical → h < 2 → s.pkg.noAnswer.any (fun u => unitHalf u.1 u.2 == some h) = true →
    ∃ t, exec (.halfReset h) s = .next t ∧
      (∀ p, p < 16 → (s.part p).state ≠ .free → (s.part p).usesHalf h = true → (s.part p).faultCode = 0 →
        (s.part p).state ≠ .recovering → (t.part p).state = .faulted) ∧
      (∀ a, a < 0x4000_0000 → a / 0x2000_0000 = h → t.byteAt a = 0) ∧
      (∀ a, ¬ (a < 0x4000_0000 ∧ a / 0x2000_0000 = h) → t.byteAt a = s.byteAt a)) ∧
  (∀ (f : Nat) (s : State), s.Canonical → f < 128 → s.maySweep 1 f = true → ∃ t, exec (.katSweep 1 f) s = .next t ∧
    (t.frond f).sweeping = true ∧ (∀ g, g ≠ f → t.frond g = s.frond g) ∧ t.mem = s.mem ∧ t.parts = s.parts) ∧
  (∀ (f g : Nat) (s : State), s.Canonical → f < 128 →
    (∃ t, exec (.katSweepResult 1 f true g) s = .next t ∧ (t.frond f).sweeping = false ∧
      (t.frond f).retired = (s.frond f).retired ∧ t.reg 1 f 0x11D0 = s.tick.count ∧ t.mem = s.mem) ∧
    (∃ t, exec (.katSweepResult 1 f false g) s = .next t ∧ (t.frond f).sweeping = false ∧ (t.frond f).retired = true ∧
      t.sporeOut.length = s.sporeOut.length + 1 ∧ t.mem = s.mem))

/-! ### Registers and the host -/

/-- R8 to R12, R410 to R412 and R462 to R466: what a host write of one word does, by the kind of access of the register:
the mailbox areas and MB_CMD_SEQ take it, a W1C field clears the bits written 1 but for those that the hardware sets in the same
cycle (h), a live register takes its field, an RWT
register keeps its value and shadows the word for the next guard, an RW register of a running unit refuses it, and a read
only register is left alone.
The model's own choices in it: log entries 31 and 75. -/
def Obligations.HostWritesFollowTheAccessKinds : Prop :=
  ∀ s : State, s.Canonical → s.hostReady = true →
    (∀ (off : Nat) (v h : BitVec 512), 0x2_0000 ≤ off → off + 4 ≤ 0x4_2000 → off % 4 = 0 →
      exec (.registerWrite off 4 ⟨v, h⟩) s = .next { s with mbArea := sputs (fun _ => (0 : Byte)) s.mbArea off (leBytes 4 v.toNat) }) ∧
    (∀ (m : Nat) (v h : BitVec 512), m < 17 → exec (.registerWrite (0x1_0000 + 64 * m) 4 ⟨v, h⟩) s =
      .next (s.setMailbox m { s.mailbox m with cmdSeq := v.setWidth 32 })) ∧
    (∀ v h : BitVec 512, ∃ t, exec (.registerWrite 0x404C 4 ⟨v, h⟩) s = .next t ∧ t.reg 0 0 0x404C = (v.setWidth 32).setWidth 64 ∧
      { t with regs := s.regs } = s) ∧
    (∀ v h : BitVec 512, ∃ t, exec (.registerWrite 0x104 4 ⟨v, h⟩) s = .next t ∧
      (∀ b, 8 ≤ b → b < 32 → (t.reg 0 0 0x104).getLsbD b = ((s.reg 0 0 0x104).getLsbD b && !v.getLsbD b || h.getLsbD b)) ∧
      { t with regs := s.regs, pkg := s.pkg } = s) ∧
    (∀ (p : Nat) (v h : BitVec 512), p < 16 → s.selected = some (8, p) → ∃ t, exec (.registerWrite 0x1140 4 ⟨v, h⟩) s = .next t ∧
      t.reg 8 p 0x1140 = s.reg 8 p 0x1140 ∧
      (regKey 8 p 0x1140, BitVec.ofNat 64 ((v.setWidth 32).toNat &&& 0x3F)) ∈ t.shadow ∧ { t with shadow := s.shadow } = s) ∧
    (∀ (i : Nat) (v h : BitVec 512), i < 16 → s.selected = some (7, i) → s.unitRunning 7 i = true →
      ∃ t, exec (.registerWrite 0x110C 4 ⟨v, h⟩) s = .next t ∧ t.reg 7 i 0x110C = s.reg 7 i 0x110C ∧
        t.reg 7 i 0x1108 = BitVec.ofNat 64 (((s.reg 7 i 0x1108).toNat + 1) % 2 ^ 32) ∧
        (t.reg 7 i 0x1100).getLsbD 15 = true ∧ (7, i) ∈ t.livePosted ∧ t.ports = s.ports) ∧
    (∀ (off : Nat) (v h : BitVec 512), off ∈ [0x0, 0x4, 0x8, 0x10, 0x100, 0x200, 0x208, 0x210, 0x218, 0x4040, 0x4044, 0x4048, 0x4050] →
      exec (.registerWrite off 4 ⟨v, h⟩) s = .next s)

/-- R13: a read of a read-to-clear counter of the selected unit gives its value, clears it, and keeps the counts of the
same cycle. Beside it, reads of TICK_COUNT: the low word latches the high word, which later reads of that give, and a read of
both gives both.
The model's own choice in it: log entry 117 (a further read of the high word). -/
def Obligations.CountingRegistersAreRead : Prop :=
  (∀ (c i off inc : Nat) (s : State), s.Canonical → s.hostReady = true → s.selected = some (c, i) → i < 256 →
      (off, 4, Access.rc) ∈ regMap c → 0x1100 ≤ off → off < 0x2000 → inc < 2 ^ 32 →
      ∃ t, exec (.rcCounterRead off ⟨4, [inc]⟩) s = .next t ∧ t.host.reg.toNat = s.regValue c i off % 2 ^ 32 ∧
        t.reg c (homeUnit c i off) off = BitVec.ofNat 64 inc ∧
        (∀ k, k ≠ regKey c (homeUnit c i off) off → sget regReset t.regs k = sget regReset s.regs k) ∧
        { t with regs := s.regs, host := s.host } = s) ∧
  (∀ s : State, s.hostReady = true →
      (∃ t, exec (.tickCountRead .low32) s = .next t ∧ t.host.reg.toNat = s.tick.count.toNat % 2 ^ 32 ∧
        t.tick = { s.tick with latch := BitVec.ofNat 32 (s.tick.count.toNat / 2 ^ 32) } ∧
        { t with tick := s.tick, host := s.host } = s) ∧
      (∃ t, exec (.tickCountRead .high32) s = .next t ∧ t.host.reg.toNat = s.tick.latch.toNat ∧ { t with host := s.host } = s) ∧
      (∃ t, exec (.tickCountRead .both64) s = .next t ∧ t.host.reg.toNat = s.tick.count.toNat ∧ { t with host := s.host } = s))


/-- R478 to R482: the head of a packet opens it at the hub and counts in ledger 0x7 of its partition; while another
source's packet is open nothing moves; a packet that lacks items is closed after its time; a read of SPORE_WORD pops up to
four items, and every item popped counts as completed.
The model's own choices in it: log entry 92. -/
def Obligations.SporeItemsArriveAndArePopped : Prop :=
  (∀ (c i : Nat) (o : OutPacket) (a b : Item) (rest : List Item) (s : State),
    s.sporeOut.find? (fun o => o.cls == c && o.index == i) = some o → o.items = a :: b :: rest → o.closed = false →
    2 ≤ o.total → s.spore.opened = none → s.spore.items.length < s.sporeRoom →
    ∃ t, exec (.sporeItemArrival c i) s = .next t ∧ t.spore.items.length = s.spore.items.length + 1 ∧
      t.spore.items.take s.spore.items.length = s.spore.items ∧
      t.spore.opened = some { packet := s.spore.nextPacket, cls := o.cls, index := o.index, got := 1, total := o.total } ∧
      t.sporeOut.length = s.sporeOut.length ∧ t.mem = s.mem ∧ t.regs = s.regs) ∧
  (∀ (c i : Nat) (o : OutPacket) (a : Item) (rest : List Item) (x : OpenPacket) (s : State),
    s.sporeOut.find? (fun o => o.cls == c && o.index == i) = some o → o.items = a :: rest → o.closed = false →
    s.spore.opened = some x → (x.cls ≠ c ∨ x.index ≠ i) → exec (.sporeItemArrival c i) s = .next s) ∧
  (∀ (x : OpenPacket) (s : State), s.spore.opened = some x → ∃ t, exec .sporePacketTimeout s = .next t ∧
    t.spore.opened = none ∧ t.spore.items.length = s.spore.items.length ∧ t.mem = s.mem) ∧
  (∀ s : State, s.hostReady = true → ∃ t, exec (.sporeWordRead 0x4000 64) s = .next t ∧
    t.spore.items = s.spore.items.drop (min 4 s.spore.readable) ∧ t.spore.validBytes = 16 * min 4 s.spore.readable ∧
    t.spore.latch = ((s.spore.items.take (min 4 s.spore.readable)).map fun i => leBytes 16 i.item.toNat).flatten ++
      List.replicate (64 - 16 * min 4 s.spore.readable) 0 ∧
    { t with spore := s.spore, ledgers := s.ledgers, host := s.host } = s)

/-- R449 to R457, R459 and R461: a start of the host feed with legal registers begins a copy of its lines; a line that returns is
written at its destination; a line in error stops the copy; the last acknowledgement counts FEED_DONE. A host read of sound
bytes gives them and changes no memory, of an unexposed byte completes with poison, and in D3hot completes as unsupported; a host write of sound units changes
exactly the bytes its mask names; every snoop is answered, an uncorrectable CXL error sets its bit, and the function changes
its power state while the link is up.
The model's own choices in it: log entries 45 and 76. -/
def Obligations.HostFeedsAndReachesTheDevice : Prop :=
  ((∀ (p : Nat) (s : State), s.Canonical → p < 16 → s.hostReady = true → (s.part p).feed = none → (s.part p).state ≠ .free →
      (let src := (s.reg 8 p 0x1180).toNat
       let dst := (s.reg 8 p 0x1188).toNat
       let len := (s.reg 8 p 0x1190).toNat
       src % 64 = 0 → dst % 64 = 0 → len % 64 = 0 → len ≠ 0 → (∀ i, i < len → s.feedReaches p (dst + i) = true) →
       exec (.feedStart p) s = .next (s.setPart p { s.part p with
         feed := some { src := src, dst := dst, lines := len / 64, written := [], epoch := (s.part p).epoch.toNat } }))) ∧
    (∀ (p line : Nat) (r : FeedRun) (s : State), s.Canonical → p < 16 → (s.part p).feed = some r → line < r.lines →
      line ∉ r.written → line < r.written.length + 1024 → r.dst % 64 = 0 →
      (∃ t, exec (.feedReadReturn p line true) s = .next t ∧ (t.part p).feed = none ∧ (t.reg 8 p 0x1198).getLsbD 1 = true ∧
        t.mem = s.mem) ∧
      (∀ bs, s.readHost (r.src + 64 * line) 64 = some bs → ∃ t, exec (.feedReadReturn p line false) s = .next t ∧
        (∃ r', (t.part p).feed = some r' ∧ line ∈ r'.written) ∧
        (∀ i, i < 64 → t.byteAt (r.dst + 64 * line + i) = bs.getD i 0) ∧
        (∀ a, (a < r.dst + 64 * line ∨ r.dst + 64 * line + 64 ≤ a) → t.byteAt a = s.byteAt a))) ∧
    (∀ (p : Nat) (r : FeedRun) (s : State), s.Canonical → p < 16 → (s.part p).feed = some r → r.written.length = r.lines →
      ∃ t, exec (.feedDone p) s = .next t ∧ (t.part p).feed = none ∧
        t.reg 8 p 0x119C = BitVec.ofNat 64 (((s.reg 8 p 0x119C).toNat + 1) % 2 ^ 32) ∧ t.mem = s.mem)) ∧
  (((∀ (a n : Nat) (l : HostSlots) (s : State), s.hostReady = true → (∀ i, i < n → s.hostReaches (a + i) = true) →
        (∀ i, i < n → s.checkUnit ((a + i) / 64) = { cause := none, corrected := 0 }) →
        ∃ t, exec (.hostMemRead a ⟨n, l⟩) s = .next t ∧ t.host.memData = (rangeFrom a n).map s.readByte ∧ t.host.memPoison = false ∧
          t.mem = s.mem ∧ t.poison = s.poison ∧ t.flips = s.flips) ∧
      (∀ (a n : Nat) (l : HostSlots) (s : State), s.hostReady = true → (∃ i, i < n ∧ s.hostReaches (a + i) = false) →
        ∃ t, exec (.hostMemRead a ⟨n, l⟩) s = .next t ∧ t.host = { s.host with memData := [], memPoison := true } ∧
          { t with host := s.host, regs := s.regs } = s) ∧
      (∀ (a n : Nat) (l : HostSlots) (s : State), s.hostReady = false → s.linkServes = true →
        exec (.hostMemRead a ⟨n, l⟩) s = .next { s with host := { s.host with
          unsupported := s.host.unsupported + 1, reg := 0, memData := [], memPoison := false } }) ∧
      (∀ (a : Nat) (data : List Byte) (mask : List Bool) (l : HostSlots) (s : State), s.Canonical → s.hostReady = true →
        mask.length = data.length →
        (∀ i, i < data.length → s.hostReaches (a + i) = true ∧ s.inSomeProgram (a + i) = false) →
        (∀ i, i < data.length → (s.checkUnit ((a + i) / 64)).cause = none) →
        ∃ t, exec (.hostMemWrite a data ⟨mask, l⟩) s = .next t ∧
          (∀ i, i < data.length → mask.getD i false = true → t.readByte (a + i) = data.getD i 0) ∧
          (∀ x, (∀ i, i < data.length → mask.getD i false = true → x ≠ a + i) → t.readByte x = s.readByte x))) ∧
    ((∀ (a : Nat) (s : State), s.hostReady = true →
        exec (.hostSnoop a) s = .next { s with host := { s.host with snoop := true } }) ∧
      (∀ s : State, s.Canonical → ∃ t, exec .cxlUncorrectableError s = .next t ∧ (t.reg 0 0 0x104).getLsbD 9 = true ∧
        t.pkg.faultPin = true ∧ (∀ k, k ≠ regKey 0 0 0x104 → sget regReset t.regs k = sget regReset s.regs k) ∧
        { t with regs := s.regs, pkg := s.pkg, host := s.host, msixPending := s.msixPending } = s) ∧
      (∀ (d : Bool) (s : State), s.pkg.pwrOk = true → s.pkg.linkUp = true →
        exec (.powerStateChange d) s = .next { s with pkg := { s.pkg with d3hot := d } })))

/-! ### The hyphae and the memories -/

/-- R299, R300, R303 and R429: a packet that fails its check, or comes before an earlier one of its link, is held at its sender
and not taken; a number already taken is acknowledged and changes nothing else; a new one is taken once, its correctable words
corrected, and is sent on, or at its destination waits at its bank's port with the slack of its issuing end.
The model's own choices in it: log entries 59, 130 and 133. -/
def Obligations.HyphalPacketsAreTakenOnce : Prop :=
  (∀ (p : HyphalPkt) (s : State), (∀ n, s.hyphae.last p.link = some n → n < p.number) →
    packetOk p = false ∨ s.hyphae.behind p = true → ∃ t, exec (.hyphalPacket p) s = .next t ∧
    t.hyphae.held.any (fun q => q.is p) = true ∧ t.hyphae.taken = s.hyphae.taken ∧
    { t with hyphae := { t.hyphae with held := s.hyphae.held } } = s) ∧
  (∀ (p : HyphalPkt) (n : Nat) (s : State), s.hyphae.last p.link = some n → p.number ≤ n →
    exec (.hyphalPacket p) s = .next { s with hyphae := { s.hyphae with held := s.hyphae.held.filter fun q => !q.is p } }) ∧
  (∀ (p : HyphalPkt) (l n : Nat) (s : State), packetOk p = true → s.hyphae.behind p = false →
    (∀ n, s.hyphae.last p.link = some n → n < p.number) → p.next = some (l, n) →
    ∃ t q, exec (.hyphalPacket p) s = .next t ∧ t.hyphae.last p.link = some p.number ∧
      t.hyphae.held = s.hyphae.held.filter (fun q => !q.is p) ++ [q] ∧ q.link = l ∧ q.number = n ∧ q.req.addr = p.req.addr ∧
      (p.req.flips = [] → q.req = p.req) ∧ (∀ f ∈ q.req.flips, syndrome f.2 = 0x7F) ∧ t.hyphae.bankq = s.hyphae.bankq ∧
      { t with hyphae := s.hyphae } = s) ∧
  (∀ (p : HyphalPkt) (y : Nat) (s : State), packetOk p = true → s.hyphae.behind p = false →
    (∀ n, s.hyphae.last p.link = some n → n < p.number) → p.next = none → s.resolve p.req.part p.req.addr = some y →
    y < 0x4000_0000 → ∃ t r, exec (.hyphalPacket p) s = .next t ∧ t.hyphae.last p.link = some p.number ∧
      t.portQueue (256 * bitsOf y 29 1 + bitsOf y 7 8) p.req.write =
        s.portQueue (256 * bitsOf y 29 1 + bitsOf y 7 8) p.req.write ++ [{ req := r, slack := s.slackOf p.req }] ∧
      (p.req.flips = [] → r = p.req) ∧ r.addr = p.req.addr ∧ r.write = p.req.write ∧ { t with hyphae := s.hyphae } = s)

/-- R296, R302 and R304: a port serves at most one line in a cycle. The request that it chooses leaves its queue; a read answers
with the line as it stood before a write of the same cycle and changes no memory, a write changes its own units of that line
only and stores its bytes; a port with nothing to serve or to write back counts an idle cycle and does nothing else.
The model's own choices in it: log entries 59, 62 and 63. -/
def Obligations.BankPortsServeTheChosenRequest : Prop :=
  let done := fun (s : State) (k cycle : Nat) => (s.hyphae.servedAt.find? fun e => e.1 == k).any fun e => decide (cycle ≤ e.2)
  (∀ (bank i cycle : Nat) (w : Bool) (how : Chosen) (r : StoreReq) (s : State),
    let line := (s.resolve r.part r.addr).getD 0 / 128
    let r' := if w then { r with data := r.data.take (128 - r.addr % 128), mask := r.mask.take (128 - r.addr % 128) }
      else { r with addr := r.addr / 128 * 128 }
    s.Canonical → bank < 512 → done s (2 * bank + if w then 1 else 0) cycle = false → r.write = w →
    choose (s.wheelEntry bank w cycle) cycle (s.portQueue bank w) = some (r, i, how) → s.staleReq r = false →
    s.outOfReach r' (if w then r'.data.length else 128) = none →
    ∃ t, exec (.bankPortServe bank w cycle DeviceReport.clean) s = .next t ∧
      t.portQueue bank w = (s.portQueue bank w).eraseIdx i ∧ done t (2 * bank + if w then 1 else 0) cycle = true ∧
      (w = false → t.mem = s.mem ∧
        (s.writtenNow bank line cycle = none → ∃ bad, t.hyphae.reply =
          some (r'.addr, ((rangeFrom r'.addr 128).filterMap (s.resolve r.part)).map s.readByte, bad)) ∧
        ∀ was, s.writtenNow bank line cycle = some was → ∃ bad, t.hyphae.reply =
          some (r'.addr, ((rangeFrom r'.addr 128).filterMap (s.resolve r.part)).map (s.putLine was).readByte, bad)) ∧
      (w = true → r.flips = [] →
        (∀ a, (∀ c ∈ r'.cells, ∀ y, s.resolve r.part c.1 = some y → y / 64 ≠ a / 64) → t.readByte a = s.readByte a) ∧
        ((∀ c ∈ r'.cells, s.resolve r.part c.1 = some c.1 ∧ (s.checkUnit (c.1 / 64)).cause = none) →
          ∀ c ∈ r'.cells, t.readByte c.1 = c.2))) ∧
  (∀ (bank cycle : Nat) (rep : DeviceReport) (s : State), bank < 512 → done s (2 * bank + 1) cycle = false →
    s.portQueue bank true = [] → s.hyphae.correct = [] →
    ∃ t, exec (.bankPortServe bank true cycle rep) s = .next t ∧
      t.reg 4 (bank / 16) 0x1130 = s.reg 4 (bank / 16) 0x1130 + 1 ∧
      (∀ k, k ≠ regKey 4 (bank / 16) 0x1130 → sget regReset t.regs k = sget regReset s.regs k) ∧
      { t with regs := s.regs, hyphae := { t.hyphae with servedAt := s.hyphae.servedAt } } = s) ∧
  (∀ (bank cycle : Nat) (w : Bool) (rep : DeviceReport) (s : State), bank < 512 →
    done s (2 * bank + if w then 1 else 0) cycle = true → exec (.bankPortServe bank w cycle rep) s = .next s)

/-- R416, R418, R426, R436, R437, R439, R441, R442 and R616: a controller that fails its training is failed; one brought up for the
first time is filled with zeros; one in self-refresh keeps its contents. An access to a ready controller reads the stored bytes
or stores its own; one that is not ready serves nothing; a write-back stores the corrected contents; patrol scrubbing advances
through the units while it is enabled, and stands still while it is not; a refresh changes nothing.
The model's own choices in it: log entries 59, 60, 62, 64 and 140. -/
def Obligations.MemoriesAreBroughtUpServedAndScrubbed : Prop :=
  ((∀ (r : StoreReq) (y : Nat) (s : State), s.Canonical → s.resolve r.part r.addr = some y → 0x4000_0000 ≤ y →
      s.storeReady y = true → s.staleReq r = false → s.outOfReach r (if r.write then r.data.length else 64) = none →
      ∃ t, exec (.memAccess r DeviceReport.clean) s = .next t ∧
        (r.write = false → t.mem = s.mem ∧ ∃ bad, t.hyphae.reply =
          some (r.addr, ((rangeFrom r.addr 64).filterMap (s.resolve r.part)).map s.readByte, bad)) ∧
        (r.write = true → r.flips = [] →
          (∀ a, (∀ c ∈ r.cells, ∀ z, s.resolve r.part c.1 = some z → z / 64 ≠ a / 64) → t.readByte a = s.readByte a) ∧
          ((∀ c ∈ r.cells, s.resolve r.part c.1 = some c.1 ∧ (s.checkUnit (c.1 / 64)).cause = none) →
            ∀ c ∈ r.cells, t.readByte c.1 = c.2))) ∧
    (∀ (r : StoreReq) (y : Nat) (rep : DeviceReport) (s : State), s.resolve r.part r.addr = some y → 0x4000_0000 ≤ y →
      s.storeReady y = false → exec (.memAccess r rep) s = .next s) ∧
    (∀ (c i a : Nat) (s : State), s.Canonical → isController c i = true → a / 64 ∈ s.writebacks →
      storeOf (a / 64 * 64) = (c, i) → ∃ t, exec (.memWriteback c i a) s = .next t ∧
        (∀ x, t.readByte x = s.readByte x) ∧ a / 64 ∉ t.writebacks ∧
        (s.devErrOf (a / 64) = 0 → (s.checkUnit (a / 64)).cause = none →
          ∀ k, k < 16 → sget (fun _ => (0 : BitVec 40)) t.flips (a / 64 * 16 + k) = 0) ∧
        { t with mem := s.mem, flips := s.flips, devErr := s.devErr, writebacks := s.writebacks } = s) ∧
    (∀ (c i : Nat) (s : State), s.Canonical → isController c i = true → s.memStateOf (controllerOf c i) = 3 →
      (s.reg c i 0x110C).getLsbD 31 = true → bitsOf (s.reg c i 0x110C).toNat 0 16 ≠ 0 → s.memCap (controllerOf c i) ≠ 0 →
      ∃ t, exec (.patrolScrub c i DeviceReport.clean) s = .next t ∧ t.mem = s.mem ∧ t.scrubbed (controllerOf c i) =
        (s.scrubbed (controllerOf c i) + 1) % (s.memCap (controllerOf c i) * 2 ^ 24)) ∧
    (∀ (c i : Nat) (rep : DeviceReport) (s : State), isController c i = true → (s.reg c i 0x110C).getLsbD 31 = false →
      exec (.patrolScrub c i rep) s = .next s) ∧
    (∀ (c i : Nat) (s : State), isController c i = true → exec (.memRefresh c i) s = .next s)) ∧
  (∀ (c i : Nat) (tr : Training) (s : State), s.Canonical → isController c i = true → s.pkg.pwrOk = true →
      s.pkg.clocksStopped = false → s.pkg.inWarmReset = false →
      (tr.passes c = false ∨ s.population c tr = false → (s.memStateOf (controllerOf c i) = 0 ∨ s.memStateOf (controllerOf c i) = 5) →
        ∃ t, exec (.memoryBringup c i tr) s = .next t ∧ t.memStateOf (controllerOf c i) = 4 ∧ { t with pkg := s.pkg } = s) ∧
      (tr.passes c = true → s.population c tr = true → s.memStateOf (controllerOf c i) = 0 →
        ∃ t, exec (.memoryBringup c i tr) s = .next t ∧ t.memStateOf (controllerOf c i) = 3 ∧
          (let lo := controllerBase (controllerOf c i)
           let n := (if c = 5 then 96 else tr.dimm.capacityGiB) * 2 ^ 30
           (∀ a, lo ≤ a → a < lo + n → t.byteAt a = 0) ∧ (∀ a, (a < lo ∨ lo + n ≤ a) → t.byteAt a = s.byteAt a)) ∧
          { t with pkg := s.pkg, mem := s.mem, poison := s.poison, flips := s.flips, devErr := s.devErr } = s) ∧
      (tr.passes c = true → s.population c tr = true → s.memStateOf (controllerOf c i) = 5 →
        ∃ t, exec (.memoryBringup c i tr) s = .next t ∧ t.memStateOf (controllerOf c i) = 3 ∧ { t with pkg := s.pkg } = s))


/-! ### Pliund -/

/-- R488 to R490, R510, R518 and R531: a lost lane lock or silence takes a port that is up down with LINK_DOWN; a down
enabled port retrains with an empty replay buffer; training brings it up; the enable bit is obeyed unless the port serves
a running partition, which refuses it as a live write.
The model's own choices in it: log entry 106. -/
def Obligations.PortsGoDownTrainAndComeUp : Prop :=
  ∀ (i : Nat) (s : State), s.Canonical → i < 16 →
    ((s.port i).state = 2 → ∀ c ∈ [Instr.plnLaneLockLoss i, Instr.plnAckSilence i], ∃ t, exec c s = .next t ∧
      (t.port i).state = 0 ∧ (t.port i).replay = (s.port i).replay ∧ (t.port i).waiting = [] ∧
      ((s.port i).waiting = [] → ∀ j, j ≠ i → t.port j = s.port j) ∧
      (t.reg 7 i 0x1100).getLsbD 13 = true ∧ (t.reg 0 0 0x104).getLsbD 11 = true ∧ t.reg 7 i 0x1104 = 0x0601 ∧
      t.sporeOut.length = s.sporeOut.length + 1 ∧ t.mem = s.mem ∧ t.parts = s.parts) ∧
    ((s.port i).state = 0 → (s.reg 7 i 0x110C).getLsbD 0 = true → ∃ t, exec (.plnRetrain i) s = .next t ∧
      (t.port i).state = 1 ∧ (t.port i).replay = [] ∧ (∀ j, j ≠ i → t.port j = s.port j) ∧ { t with ports := s.ports } = s) ∧
    ((s.port i).state = 1 → ∀ d, ∃ t, exec (.plnTrainingComplete i d) s = .next t ∧ (t.port i).state = 2 ∧
      t.reg 7 i 0x1114 = BitVec.ofNat 64 (d % 2 ^ 32) ∧ (∀ j, j ≠ i → t.port j = s.port j) ∧
      { t with ports := s.ports, regs := s.regs } = s) ∧
    (s.unitRunning 7 i = false →
      (∃ t, exec (.plnPortDisable i) s = .next t ∧ (t.port i).state = 3 ∧ (t.reg 7 i 0x110C).getLsbD 0 = false ∧
        ((s.port i).waiting = [] → ∀ j, j ≠ i → t.port j = s.port j)) ∧
      (∃ t, exec (.plnPortEnable i) s = .next t ∧ (t.reg 7 i 0x110C).getLsbD 0 = true ∧
        (t.port i).state = (if (s.port i).state = 3 then 0 else (s.port i).state) ∧ { t with ports := s.ports, regs := s.regs } = s)) ∧
    (s.unitRunning 7 i = true → ∀ c ∈ [Instr.plnPortDisable i, Instr.plnPortEnable i], ∃ t, exec c s = .next t ∧
      t.ports = s.ports ∧ t.reg 7 i 0x110C = s.reg 7 i 0x110C ∧ (t.reg 7 i 0x1100).getLsbD 15 = true)

/-- R485 to R487 and R494: a frame passes when its codewords are correctable, its payload fills its units, sixteen at most, and
its CRC is that of its header and payload. One that does not pass only counts what the FEC corrected; a frame out of sequence is
not delivered; the next in sequence is delivered once, and a packet for this chip waits at its port to be taken in, unless its
recheck found a mismatch.
The model's own choices in it: log entries 35, 106 and 144. -/
def Obligations.FramesAreDeliveredInSequence : Prop :=
  (∀ f : PlnFrame, frameOk f = true ↔ f.fecOk = true ∧ f.packet.payload.length = 64 * f.packet.units ∧ f.packet.units ≤ 16 ∧
    f.crc = packetCrc f.packet) ∧
  (∀ (i : Nat) (f : PlnFrame) (s : State), s.Canonical → i < 16 → s.portUp i = true →
    (frameOk f = false → ∃ t, exec (.plnFrameReceive i f) s = .next t ∧ t.ports = s.ports ∧ t.mem = s.mem ∧
      t.reg 7 i 0x1128 = BitVec.ofNat 64 (((s.reg 7 i 0x1128).toNat + f.fecCorrected) % 2 ^ 32) ∧
      (f.sentBad = [] → { t with regs := s.regs } = s)) ∧
    (frameOk f = true → f.linkSeq ≠ (s.port i).expected → ∃ t, exec (.plnFrameReceive i f) s = .next t ∧
      (t.port i).inbox = (s.port i).inbox ∧ (t.port i).expected = (s.port i).expected ∧ t.mem = s.mem) ∧
    (frameOk f = true → f.recheckBad = false → f.linkSeq = (s.port i).expected → f.packet.kind < 7 →
      (f.packet.dstChip = s.ownId ∨ f.packet.kind = 4) → ∃ t, exec (.plnFrameReceive i f) s = .next t ∧
        (t.port i).inbox = (s.port i).inbox ++ [f.packet] ∧ (t.port i).expected = ((s.port i).expected + 1) % 65536 ∧
        t.mem = s.mem) ∧
    (frameOk f = true → f.recheckBad = true → f.linkSeq = (s.port i).expected → ∃ t, exec (.plnFrameReceive i f) s = .next t ∧
      (t.port i).inbox = (s.port i).inbox ∧ (t.port i).expected = ((s.port i).expected + 1) % 65536 ∧
      t.reg 7 i 0x1104 = 0x0501 ∧ t.mem = s.mem))

/-- R500, R502, R503 and R281: a packet of kinds 0 to 2 whose epochs do not match is dropped and counted; a CLEAR that
no collective awaits is kept; the data of a DATA packet land in the REDUCE_RECV they are for, and a HEALTH word is merged
with the local one.
The model's own choices in it: log entries 34 and 107. -/
def Obligations.CollectivePacketsLand : Prop :=
  ∀ (i : Nat) (pk : Packet) (r : List Packet) (s : State), s.Canonical → i < 16 → (s.port i).inbox = pk :: r →
    (s.takesIn pk = false → ∀ c ∈ [(Instr.data i pk, 0), (Instr.healthPacket i pk, 1), (Instr.clear i pk, 2)], pk.kind = c.2 →
      ∃ t, exec c.1 s = .next t ∧ (t.port i).inbox = r ∧ (t.port i).staleCount = (s.port i).staleCount + 1 ∧
        t.reg 7 i 0x1130 = BitVec.ofNat 64 (((s.reg 7 i 0x1130).toNat + 1) % 2 ^ 32) ∧
        { t with ports := s.ports, regs := s.regs } = s) ∧
    (s.takesIn pk = true → pk.kind = 2 → s.NoCollectiveWaits pk.dstPartition → ∃ t, exec (.clear i pk) s = .next t ∧
      t.clears = s.clears ++ [(pk.dstPartition, pk.srcChip, pk.srcPartition, pk.channel, pk.offset)] ∧ (t.port i).inbox = r ∧
      t.reg 7 i 0x1120 = s.reg 7 i 0x1120 + BitVec.ofNat 64 (64 * pk.units) ∧
      { t with ports := s.ports, regs := s.regs, clears := s.clears } = s) ∧
    (s.takesIn pk = true → pk.kind = 0 → pk.payload.length = 64 * pk.units →
      ∀ f j b l h, s.receiver pk.dstPartition pk = some (f, j, b, l, h) → 64 * (pk.offset + pk.units) ≤ b.length →
        s.BufSound f (rangeFrom (b.dstAddr + 64 * pk.offset) (64 * pk.units)) → b.op = 0 →
        ∃ t, exec (.data i pk) s = .next t ∧ (t.port i).inbox = r ∧
          (∀ k, k < 64 * pk.units → t.bufByte f (b.dstAddr + 64 * pk.offset + k) = pk.payload.getD k 0) ∧
          (∃ j' ∈ (t.frond f).jobs, ∃ l', j'.body = .recv b true l' h s.tickNow ∧
            ∀ u, (u ∈ l' ↔ u ∈ l ∨ (pk.offset ≤ u ∧ u < pk.offset + pk.units))) ∧ t.mem = s.mem ∧ t.parts = s.parts) ∧
    (s.takesIn pk = true → pk.kind = 1 → ∀ f j b l h, s.receiver pk.dstPartition pk = some (f, j, b, l, h) →
      b.withHealth = true → s.BufSound f (rangeFrom b.healthAddr 32) → ∃ t, exec (.healthPacket i pk) s = .next t ∧
        t.bufNat f b.healthAddr 32 = mergeHealth (s.bufNat f b.healthAddr 32) (leNat (pk.payload.take 32)) ∧
        (∃ j' ∈ (t.frond f).jobs, j'.body = .recv b true l true s.tickNow) ∧ t.mem = s.mem ∧ t.parts = s.parts)

/-- R498, R507, R511 and R515: an ANNOUNCE gives the peer entry it is for its epoch; a BIND is kept while nothing waits for
it, and completes a PAIR_BIND that does; 10 ms without one answer NO_PARTNER; a collective that has waited its timeout
stops its partition at the edge of the open guard.
The model's own choices in it: log entries 36, 107 and 108. -/
def Obligations.PeersAnnounceBindAndTimeOut : Prop :=
  (∀ (i : Nat) (pk : Packet) (r : List Packet) (y : Peer) (s : State), s.Canonical → i < 16 → (s.port i).inbox = pk :: r →
    pk.kind = 3 → (s.part pk.dstPartition).state ≠ .free →
    (s.part pk.dstPartition).peers.find? (fun z => z.chip == pk.srcChip && z.partition == pk.srcPartition) = some y →
    ∃ t, exec (.announce i pk) s = .next t ∧ (t.part pk.dstPartition).peers = (s.part pk.dstPartition).peers.map
      (fun z => if z = y then { y with announced := true, epoch := pk.srcEpoch } else z) ∧ t.mem = s.mem) ∧
  (∀ (i : Nat) (pk : Packet) (r : List Packet) (s : State), s.Canonical → i < 16 → (s.port i).inbox = pk :: r →
    pk.kind = 4 → s.pair.bound = false → s.pair.pending = none → ∃ t, exec (.bind i pk) s = .next t ∧
      (i, leNat (pk.payload.take 2), leNat ((pk.payload.drop 2).take 1) % 16) ∈ t.pair.heard ∧ (t.port i).inbox = r ∧
      { t with pair := s.pair, ports := s.ports, regs := s.regs } = s) ∧
  (∀ (i : Nat) (pk : Packet) (r : List Packet) (b : Bind) (s : State), s.Canonical → i < 16 → (s.port i).inbox = pk :: r →
    pk.kind = 4 → s.pair.bound = false → s.pair.pending = some b → b.got = none → b.sent = true → b.fill = none → b.port1 = i →
    b.partner = leNat (pk.payload.take 2) → ∃ t, exec (.bind i pk) s = .next t ∧ t.pair.bound = true ∧
      t.pair.partner = b.partner ∧ t.pair.pending = none ∧ t.pair.port1 = b.port1 ∧ t.pair.port2 = b.port2 ∧
      (t.pair.coFed = true ↔ b.coFedAsked = true ∨
        (let f := leNat ((pk.payload.drop 2).take 1) % 16
         s.pkg.feedId.toNat = f ∨ s.pkg.feedId.toNat = 0 ∨ f = 0))) ∧
  (∀ (b : Bind) (s : State), s.pair.pending = some b → b.got = none → ∃ t, exec .pairBindTimeout s = .next t ∧
    t.pair = { s.pair with pending := none } ∧ t.mem = s.mem ∧ t.parts = s.parts ∧
    (s.Canonical → ∀ tk, (s.mailbox b.mb).outstanding = some tk → (t.mailbox b.mb).outstanding = none ∧
      (t.mailbox b.mb).respStatus.toNat % 256 = 0x21)) ∧
  (∀ (f id p w c q ch since : Nat) (j : Job) (s : State), s.Canonical → f < 128 → s.tick.guardOpen = true →
    s.workOf f = some p → (s.frond f).job id = some j → s.peerWait p j = some (w, c, q, ch, since) →
    s.peerTimeout c ≤ s.tickNow + 1 - since → ∃ t, exec (.peerTimeout f id) s = .next t ∧
      (t.part p).faultCode = 0x0602 ∧ (t.part p).stopAtEdge = true ∧ t.mem = s.mem)

/-! ### Protection of training state and the boot -/

/-- R516, R548, R549, R551, R557 and R560: in a region held for a chip's partition the bytes of a page land and unseal the
working copy they fall in, a seal is recorded, the table of mirrored ranges grows, and a packet of an old epoch is dropped;
an acknowledgement shows its step in PART_MIRROR_STEP; a partner answers only a fill number above the highest it has seen;
the data of a fill land, and an entry that is complete stands in PART_FILL_STEP.
The model's own choices in it: log entry 37. -/
def Obligations.MirrorAndFillPacketsAreTaken : Prop :=
  (∀ (i : Nat) (pk : Packet) (r : List Packet) (s : State), s.Canonical → i < 16 → (s.port i).inbox = pk :: r → pk.kind = 5 →
      (∀ h, s.held.find? (fun g => g.chip == pk.srcChip && g.partition == pk.srcPartition && g.base == pk.num 8 8
          && g.length == pk.num 16 8) = some h →
        (∀ g ∈ s.held, g.chip = pk.srcChip → g.partition = pk.srcPartition → g.epoch ≤ pk.srcEpoch) →
        (pk.num 0 1 = 3 → ∃ t, exec (.mirror i pk) s = .next t ∧ (t.port i).inbox = r ∧
          { h with epoch := pk.srcEpoch
                   table := (if pk.num 3 1 = 1 then [] else h.table) ++ [(pk.num 2 1, pk.num 24 8, pk.num 32 8)] } ∈ t.held ∧
          { t with held := s.held, ports := s.ports } = s) ∧
        (pk.num 0 1 = 1 → pk.num 24 8 + pk.body.length ≤ h.length →
          (∀ k, k < pk.body.length → (s.checkUnit ((h.base + pk.num 24 8 + k) / 64)).cause = none) →
          ∃ t, exec (.mirror i pk) s = .next t ∧
            (pk.bodyPoison = [] →
              (∀ k, k < pk.body.length → t.readByte (h.base + pk.num 24 8 + k) = pk.body.getD k 0) ∧
              (∀ a, (a < h.base + pk.num 24 8 ∨ h.base + pk.num 24 8 + pk.body.length ≤ a) → t.readByte a = s.readByte a)) ∧
            ∃ g ∈ t.held, g.chip = h.chip ∧ g.partition = h.partition ∧ g.table = h.table ∧
              (8192 ≤ pk.num 24 8 → pk.num 24 8 < 8192 + h.size → g.seal0 = none ∧ g.seal1 = h.seal1) ∧
              (8192 + h.size ≤ pk.num 24 8 → pk.num 24 8 < 8192 + 2 * h.size → g.seal1 = none ∧ g.seal0 = h.seal0)) ∧
        (pk.num 0 1 = 2 → pk.num 32 8 = noNumber → ∃ t, exec (.mirror i pk) s = .next t ∧ t.mem = s.mem ∧
          ∃ g ∈ t.held, g.chip = h.chip ∧ g.partition = h.partition ∧ g.table = h.table ∧
            (if pk.num 24 8 % 2 = 0 then g.seal0 = some (pk.num 24 8) ∧ g.seal1 = h.seal1
             else g.seal1 = some (pk.num 24 8) ∧ g.seal0 = h.seal0))) ∧
      (∀ g ∈ s.held, pk.num 0 1 < 4 → g.chip = pk.srcChip → g.partition = pk.srcPartition → pk.srcEpoch < g.epoch →
        ∃ t, exec (.mirror i pk) s = .next t ∧ (t.port i).staleCount = (s.port i).staleCount + 1 ∧
          t.reg 7 i 0x1130 = BitVec.ofNat 64 (((s.reg 7 i 0x1130).toNat + 1) % 2 ^ 32) ∧
          { t with ports := s.ports, regs := s.regs } = s) ∧
      (∀ p, p = pk.dstPartition → p < 16 → pk.num 0 1 = 4 → (s.part p).protect.mirrorOn = true →
        (s.part p).protect.partner = pk.srcChip → (s.part p).epoch.toNat = pk.dstEpoch →
        ∃ t, exec (.mirror i pk) s = .next t ∧ t.reg 8 p 0x1158 = BitVec.ofNat 64 (pk.num 24 8) ∧
          (t.part p).protect.sealSent ≠ some (pk.num 24 8) ∧ (∀ q, q ≠ p → t.part q = s.part q) ∧
          { t with ports := s.ports, regs := s.regs, parts := s.parts } = s)) ∧
  (∀ (i : Nat) (pk : Packet) (r : List Packet) (s : State), s.Canonical → i < 16 → (s.port i).inbox = pk :: r → pk.kind = 6 →
      (pk.num 0 1 = 0 → s.pair.bound = true → s.pair.partner = pk.srcChip → ∃ t, exec (.fill i pk) s = .next t ∧
        t.pair = { s.pair with highestFill := max s.pair.highestFill (pk.num 16 8) } ∧ t.mem = s.mem ∧ t.parts = s.parts ∧
        t.held = s.held ∧ (t.port i).inbox = r) ∧
      (∀ mb c n, s.pair.restoring = none → s.pair.filling = some (mb, c, n) → s.pair.partner = pk.srcChip →
        (pk.num 0 1 = 1 →
          (∀ k, k < pk.body.length → s.resolve none (pk.num 8 8 + k) = some (pk.num 8 8 + k) ∧
            (s.checkUnit ((pk.num 8 8 + k) / 64)).cause = none) →
          ∃ t, exec (.fill i pk) s = .next t ∧ (pk.bodyPoison = [] →
            (∀ k, k < pk.body.length → t.readByte (pk.num 8 8 + k) = pk.body.getD k 0) ∧
            (∀ a, (a < pk.num 8 8 ∨ pk.num 8 8 + pk.body.length ≤ a) → t.readByte a = s.readByte a))) ∧
        (pk.num 0 1 = 2 → pk.num 1 1 < 16 → ∃ t, exec (.fill i pk) s = .next t ∧
          t.reg 8 (pk.num 1 1) 0x1178 = BitVec.ofNat 64 (pk.num 16 8) ∧
          (pk.num 2 1, pk.num 16 8) ∈ (t.part (pk.num 1 1)).protect.copies ∧
          (∀ q, q ≠ pk.num 1 1 → t.part q = s.part q) ∧ { t with ports := s.ports, regs := s.regs, parts := s.parts } = s)))


/-- R549 to R555: a send within reach of the partner sends its pages and the seal and clears the bit of each page whose sending
no write waited for; 10 ms without the partner end the mirroring; a drain to host memory copies what every snapshot entry
held to the image slot of its number, and a drained and acknowledged snapshot ends with its step in PART_SNAP_STEP.
The model's own choices in it: log entries 20, 37, 78 and 80. -/
def Obligations.MirrorsSendAndSnapshotsDrain : Prop :=
  (∀ (p : Nat) (s : State), s.Canonical → p < 16 → (s.part p).protect.mirrorOn = true →
      (∀ k, (s.part p).protect.sendStep = some k → s.reaches (s.part p).protect.partner = true →
        ∃ t, exec (.mirrorSend p) s = .next t ∧ (t.part p).protect.sendStep = none ∧ (t.part p).protect.toSend = [] ∧
          (t.part p).protect.preMirror = [] ∧ (t.part p).protect.sealSent = some k ∧
          (∀ pg ∈ (s.part p).protect.toSend, (∀ e ∈ (s.part p).protect.preMirror, (e.1, e.2.1) ≠ pg) →
            pg ∉ (if k % 2 = 0 then (t.part p).protect.map0 else (t.part p).protect.map1)) ∧
          (∀ q, q ≠ p → t.part q = s.part q) ∧ { t with parts := s.parts, ports := s.ports, regs := s.regs, ledgers := s.ledgers } = s) ∧
      ((s.part p).protect.sendStep.isSome = true ∨ (s.part p).protect.sealSent.isSome = true →
        ∃ t, exec (.mirrorLost p) s = .next t ∧ (t.part p).protect.mirrorOn = false ∧ (t.part p).protect.mirrorLost = true ∧
          (t.part p).protect.sendStep = none ∧ (t.part p).protect.toSend = [] ∧ (t.part p).protect.preMirror = [] ∧
          (∀ q, q ≠ p → t.part q = s.part q) ∧ { t with parts := s.parts } = s)) ∧
  (∀ (p n k : Nat) (tb : ProtTable) (s : State), s.Canonical → p < 16 → (s.part p).protect.drain = some (n, k) →
      s.protTable p = some tb →
      (tb.toHost = true → (s.part p).protect.preSnap = [] → ∃ t, exec (.snapshotDrain p) s = .next t ∧
        (∀ e ∈ s.imageEntries p false, e.1 ∈ (t.part p).protect.drained) ∧ (t.part p).protect.drain = some (n, k) ∧
        (∀ e ∈ (s.imageEntries p false).zip (imageOffsets (tb.slot n + 8192) (s.imageEntries p false)),
          e.1.1 ∉ (s.part p).protect.drained → ∀ j, j < e.1.2.2 →
            sget (fun _ => (0 : Byte)) t.hostMem (e.2.2.1 + j) = (s.drainBytes p e.1).getD j 0) ∧
        { t with parts := s.parts, hostMem := s.hostMem, hostBad := s.hostBad } = s) ∧
      (∀ pl, (s.part p).plan = some pl → (∀ e ∈ s.imageEntries p false, e.1 ∈ (s.part p).protect.drained) →
        ((s.part p).protect.mirrorOn = true → (s.part p).protect.baseAcked = true) →
        ∃ t, exec (.snapshotComplete p) s = .next t ∧ t.reg 8 p 0x1160 = BitVec.ofNat 64 k ∧
          (t.part p).protect.drain = none ∧ (t.part p).protect.drained = [] ∧
          (tb.toHost = true → (t.part p).protect.dirty = (s.part p).protect.dirtySince) ∧ t.fronds = s.fronds))


/-- R570, R571, R573, R579 and R621: a boot ROM whose self-test passes starts the newer accepted slot's image, else serves
host loading unless a fuse forbids it, else ends at fw_state 4 with FAULT#; bring-up ends at fw_state 3; a challenge
expires.
The model's own choices in it: log entries 67 and 71. -/
def Obligations.TheBootRomStartsTheFirmware : Prop :=
  ∀ s : State,
    (s.pkg.pwrOk = true → s.pkg.inWarmReset = false → s.pkg.clocksStopped = false → s.pkg.fwState = 0 →
      (s.indus.lifecycle = 0 → exec (.bootRom true) s = .next { s with pkg := { s.pkg with fwState := 4, faultPin := true } }) ∧
      (s.indus.lifecycle ≠ 0 → ∀ k, s.indus.slotOrder.find? s.indus.slotAccepted = some k →
        ∃ t, exec (.bootRom true) s = .next t ∧ t.pkg = { s.pkg with fwState := 2 } ∧ t.indus.bootSource = k ∧
          t.indus.fwVersion.toNat = imgNat (s.indus.slotImage k) 8 4 % 2 ^ 32 ∧
          t.indus.runSvn = imgNat (s.indus.slotImage k) 16 1 ∧ t.indus.fuses = s.indus.fuses ∧ t.indus.fuseLocked = true ∧
          { t with indus := s.indus, pkg := s.pkg, power := s.power, freeCtr := s.freeCtr } = s) ∧
      (s.indus.lifecycle ≠ 0 → s.indus.slotAccepted 0 = false → s.indus.slotAccepted 1 = false →
        exec (.bootRom true) s = .next (if s.indus.hostLoadDisable then { s with pkg := { s.pkg with fwState := 4, faultPin := true } }
          else { s with pkg := { s.pkg with fwState := 1 }, indus := { s.indus with hostServing := true } }))) ∧
    (s.pkg.fwState = 2 → s.pkg.pwrOk = true → s.pkg.inWarmReset = false → ∃ t, exec .fwReady s = .next t ∧
      t.pkg = { s.pkg with fwState := 3, coldBoot := false } ∧ s.indus.rollback ≤ t.indus.rollback ∧
      { t with pkg := s.pkg, indus := s.indus } = s) ∧
    (∃ t, exec .challengeExpiry s = .next t ∧ t.indus = { s.indus with challenge := none } ∧ { t with indus := s.indus } = s)

/-! ### Linso: mailboxes, the package, partitions and plans -/

/-- R467 to R474: a rota takes the next command of a mailbox that the firmware serves and leaves mailboxes without one
alone; a sequence number that skips, and an area whose number has disagreed for 500 µs, answer BAD_ARG.
The model's own choices in it: log entries 26 and 77. -/
def Obligations.MailboxesTakeCommands : Prop :=
  (∀ (m n : Nat) (s : State), s.Canonical → m < 17 → s.mbServed m = true → (s.mailbox m).outstanding = none →
    (s.mailbox m).cmdSeq = (s.mailbox m).taken + 1 → (s.commandIn m).seq = (s.mailbox m).cmdSeq → s.indus.hostServing = false →
    (s.commandIn m).argLen = some n → (s.commandIn m).len = n → n ≤ 4080 → (s.commandIn m).flags / 2 = 0 →
    (s.commandIn m).badHead = none →
    (adminOnly (s.commandIn m).opcode = true → m = 0) → (s.commandIn m).byte0Ok m = true →
    ∃ t, exec .mailboxRota s = .next t ∧ (t.mailbox m).taken = (s.mailbox m).cmdSeq ∧
      (t.mailbox m).outstanding = some (s.commandIn m) ∧ m ∈ t.mbTaken ∧
      (∀ k, (s.mailbox k).cmdSeq = (s.mailbox k).taken → t.mailbox k = s.mailbox k) ∧
      { t.butMailboxes s with freeCtr := s.freeCtr } = s) ∧
  (∀ (m : Nat) (s : State), s.Canonical → m < 17 → s.mbServed m = true → (s.mailbox m).outstanding = none →
    (s.mailbox m).cmdSeq ≠ (s.mailbox m).taken → (s.mailbox m).cmdSeq ≠ (s.mailbox m).taken + 1 →
    ∃ t, exec .mailboxRota s = .next t ∧ (t.mailbox m).taken = (s.mailbox m).cmdSeq ∧ (t.mailbox m).outstanding = none ∧
      (t.mailbox m).respSeq = (s.mailbox m).cmdSeq ∧ (t.mailbox m).respStatus.toNat % 256 = 0x10 ∧
      { t.butMailboxes s with freeCtr := s.freeCtr } = s) ∧
  (∀ (m : Nat) (s : State), s.Canonical → m < 17 → (s.mailbox m).disagrees = true → (s.mailbox m).outstanding = none →
    ∃ t, exec (.mailboxSeqTimeout m) s = .next t ∧ (t.mailbox m).taken = (s.mailbox m).cmdSeq ∧
      (t.mailbox m).outstanding = none ∧ (t.mailbox m).respSeq = (s.mailbox m).cmdSeq ∧
      (t.mailbox m).respStatus.toNat % 256 = 0x10 ∧ (∀ k, k ≠ m → t.mailbox k = s.mailbox k) ∧
      { t.butMailboxes s with freeCtr := s.freeCtr } = s)

/-- R413, R475, R540, R541 and R578: IDENTIFY, HEALTH and ATTEST answer what their tables list and change nothing else;
COUNTERS_READ asks for the holds of its scope; DUMP writes a header of 1,024 bytes and the records that fit.
The model's own choices in it: log entries 8, 41, 42 and 73. -/
def Obligations.PackageQueriesAnswer : Prop :=
  ∀ (m : Nat) (c : Taken) (s : State), s.Canonical →
    (s.Presents m 0x01 c → ∃ t, exec (.identify m) s = .next t ∧ t.butMailboxes s = s ∧
      t.Answered m c 0 (leBytes 4 (s.regValue 0 0 0x0) ++ leBytes 4 (s.regValue 0 0 0x4) ++ leBytes 8 (s.regValue 0 0 0x8)
        ++ leBytes 8 (s.regValue 0 0 0x10) ++ leBytes 4 s.indus.fwVersion.toNat ++ leBytes 4 s.indus.edition.toNat
        ++ leBytes 2 s.ownId ++ [BitVec.ofNat 8 s.pkg.feedId.toNat, if s.pkg.pairSense then 1 else 0])) ∧
    (s.Presents m 0x02 c → ∃ t r, exec (.health m) s = .next t ∧ t.butMailboxes s = s ∧ t.Answered m c 0 r ∧ r.length = 64 ∧
      r.take 8 = leBytes 4 (s.regValue 0 0 0x100) ++ leBytes 4 (s.regValue 0 0 0x104) ∧
      (∀ k, k < 16 → r.getD (8 + k) 0 = BitVec.ofNat 8 (s.memStateOf k)) ∧ (r.drop 24).take 2 = leBytes 2 s.pkg.ddrRate ∧
      (r.drop 28).take 4 = leBytes 2 s.power.meanW ++ leBytes 2 s.power.limit ∧
      (∀ f, f < 128 → (leNat ((r.drop 32).take 16)).testBit f = (s.frond f).retired) ∧
      ∀ i, i < 16 → r.getD (48 + i) 0 = BitVec.ofNat 8 (s.port i).state) ∧
    (s.Presents m 0x71 c → s.indus.lifecycle ≠ 3 → ∃ t k, exec (.attest m) s = .next t ∧ 0 < k ∧ k < bpQ ∧
      (let r := s.attestReport (c.arg 8 32)
       let g := ecdsaSign s.indus.identityKey k (attestTag ++ r)
       t.Answered m c 0 (r ++ leBytes 48 g.1 ++ leBytes 48 g.2)) ∧ { t.butMailboxes s with freeCtr := s.freeCtr } = s) ∧
    (s.Presents m 0x61 c → c.arg 8 1 ≤ 1 → s.dumpReaches (c.target m) (c.arg 16 8) (c.arg 24 8) = true →
      (∀ q, q < 16 → (s.part q).hold = none) → ∃ t, exec (.countersRead m) s = .next t ∧ t.Accepted m c ∧
        (∀ q, t.part q = if q ∈ holdScope (c.target m) then { s.part q with hold := some (.asked (c.target m).isNone) } else s.part q) ∧
        { t.butMailboxes s with parts := s.parts } = s) ∧
    (s.Presents m 0x60 c → c.arg 8 1 ≤ 1 → s.dumpReaches (c.target m) (c.arg 16 8) (c.arg 24 8) = true → 1024 ≤ c.arg 24 8 →
      s.Sound (c.arg 16 8) (c.arg 24 8) → ∃ t r, exec (.dump m) s = .next t ∧ t.Answered m c 0 r ∧ r.length = 12 ∧
        1024 ≤ leNat (r.take 8) ∧ leNat (r.take 8) ≤ c.arg 24 8 ∧ t.peekNat none (c.arg 16 8) 4 = 0xD1F09608 ∧
        t.peekNat none (c.arg 16 8 + 8) 8 = s.tickNow ∧ t.pkg = { s.pkg with dumpSilent := [] } ∧ t.fronds = s.fronds ∧
        t.acc = s.acc ∧ t.tick = s.tick)

/-- R30, R31, R495 and R599: TICK_CONFIG sets the period and the source while no partition is active; POWER_CONFIG within
its bounds waits for the tick edge; a legal route table waits for its tick.
The model's own choices in it: log entries 85 and 88. -/
def Obligations.TickPowerAndRoutesAreSet : Prop :=
  ∀ (m : Nat) (c : Taken) (s : State), s.Canonical →
    (s.Presents m 0x50 c → 2000 ≤ c.arg 8 4 → c.arg 8 4 ≤ 2000000 → c.arg 12 1 ≤ 2 → c.arg 13 1 ≤ 15 →
      (∀ p, p < 16 → (s.part p).active = false) → ∃ t, exec (.tickConfig m) s = .next t ∧ t.Answered m c 0 [] ∧
        t.tick.period.toNat = c.arg 8 4 ∧ t.tick.source.toNat = c.arg 12 1 ∧ t.tick.beaconPort.toNat = c.arg 13 1 ∧
        t.tick.count = s.tick.count ∧ { t.butMailboxes s with tick := s.tick } = s) ∧
    (s.Presents m 0x50 c → 2000 ≤ c.arg 8 4 → c.arg 8 4 ≤ 2000000 → c.arg 12 1 ≤ 2 → c.arg 13 1 ≤ 15 →
      (∃ p, p < 16 ∧ (s.part p).active = true) → ∃ t, exec (.tickConfig m) s = .next t ∧ t.Answered m c 0x11 [0xFF] ∧
        t.butMailboxes s = s) ∧
    (s.Presents m 0x51 c → 900 ≤ c.arg 8 2 → c.arg 8 2 ≤ 2100 → c.arg 10 2 ≤ 1500 → c.arg 10 2 ≤ c.arg 8 2 →
      20 ≤ c.arg 12 2 → c.arg 12 2 ≤ 2000 → s.peaks + 530000 ≤ 1000 * c.arg 8 2 → s.overRamp (c.arg 12 2) 0 = false →
      ∃ t, exec (.powerConfig m) s = .next t ∧ t.Accepted m c ∧
        t.power = { s.power with pending := some (m, c.arg 8 2, c.arg 10 2, c.arg 12 2) } ∧
        { t.butMailboxes s with power := s.power } = s) ∧
    (s.Presents m 0x81 c → s.tickNow + 2 ≤ c.arg 8 8 → c.arg 24 2 ≤ 4096 → s.Sound (c.arg 16 8) (8 * c.arg 24 2) →
      ∀ es, es = (List.range (c.arg 24 2)).map (fun i => s.peekNat none (c.arg 16 8 + 8 * i) 8) → routesOk es = true →
      ∃ t, exec (.routeSet m) s = .next t ∧ t.Accepted m c ∧ t.pendingRoutes = some (m, c.arg 8 8, es.map routeOf) ∧
        t.routes = s.routes ∧ t.mem = s.mem ∧ t.parts = s.parts)

/-- R406 to R409: a create of free resources makes the partition with its grants, zeroes the memory that another owner
held last, and begins a new epoch; a resize adds or removes exactly what it names; a destroy of an idle partition frees
its number and what it held, and of a running one first asks its stop.
The model's own choices in it: log entries 29, 84 and 86. -/
def Obligations.PartitionsAreMadeResizedAndDestroyed : Prop :=
  ∀ (m : Nat) (c : Taken) (s : State), s.Canonical →
    (∀ p, p < 16 → s.Presents m 0x10 c → c.badGrants = none → s.createTarget (c.arg 0 1) = some p →
      (s.part p).epochRecent = none → s.grantWaits c.grantArgs.grants = false → s.grantFailed c.grantArgs.grants = false →
      s.allFree c.grantArgs = true → ∃ t, exec (.partitionCreate m) s = .next t ∧ (t.part p).state = .created ∧
        (t.part p).ownerTag.toNat = c.arg 8 8 ∧ (t.part p).fronds = c.grantArgs.fronds ∧
        (t.part p).grants = c.grantArgs.grants ∧ (t.part p).slotShare = c.grantArgs.slots ∧
        (t.part p).bridgeLines = c.grantArgs.bridge ∧
        (t.part p).epoch = (if (s.part p).epoch = 0xFFFF then 1 else (s.part p).epoch + 1) ∧
        (∀ q, q ≠ p → t.part q = s.part q) ∧ t.Answered m c 0 (leBytes 8 p ++ leBytes 2 (t.part p).epoch.toNat) ∧
        (∀ a, t.byteAt a =
          if a / 0x10_0000 ∈ (c.grantArgs.grants.flatMap Grant.pieces).flatMap mibs ∧
            sget (fun _ => (none : Option Dword)) s.blockTag (a / 0x10_0000) ≠ some (BitVec.ofNat 64 (c.arg 8 8)) then 0
          else s.byteAt a) ∧
        { t.butMailboxes s with parts := s.parts, mem := s.mem, poison := s.poison, flips := s.flips,
                                devErr := s.devErr, blockTag := s.blockTag } = s) ∧
    (∀ p, s.PresentsTo m 0x12 p c → c.arg 8 1 = 0 → c.badGrants = none → s.grantWaits c.grantArgs.grants = false →
      s.grantFailed c.grantArgs.grants = false → s.allFree c.grantArgs = true →
      ∃ t, exec (.partitionResizeAdd m) s = .next t ∧ t.Answered m c 0 [] ∧
        t.part p = { s.part p with fronds := (s.part p).fronds ||| c.grantArgs.fronds
                                   slotShare := (s.part p).slotShare ||| c.grantArgs.slots
                                   bridgeLines := (s.part p).bridgeLines + c.grantArgs.bridge
                                   grants := (s.part p).grants ++ c.grantArgs.grants } ∧ (∀ q, q ≠ p → t.part q = s.part q)) ∧
    (∀ p, s.PresentsTo m 0x12 p c → c.arg 8 1 = 1 → c.badGrants = none → s.removable p c.grantArgs = true →
      ∃ t, exec (.partitionResizeRemove m) s = .next t ∧ t.Answered m c 0 [] ∧
        (t.part p).fronds = (s.part p).fronds &&& ~~~c.grantArgs.fronds ∧
        (t.part p).slotShare = (s.part p).slotShare &&& ~~~c.grantArgs.slots ∧
        (t.part p).bridgeLines = (s.part p).bridgeLines - c.grantArgs.bridge ∧
        (t.part p).grants = c.grantArgs.grants.foldl (fun l g => cutGrant g l) (s.part p).grants ∧
        (∀ q, q ≠ p → t.part q = s.part q) ∧ { t.butMailboxes s with parts := s.parts } = s) ∧
    (∀ p, p < 16 → s.PresentsTo m 0x11 p c → (s.part p).active = false → (s.part p).epochRecent = none →
      ∃ t, exec (.partitionDestroy m) s = .next t ∧ t.Answered m c 0 [] ∧ (t.part p).state = .free ∧ (t.part p).grants = [] ∧
        (t.part p).fronds = 0 ∧ (t.part p).plan = none ∧
        (t.part p).epoch = (if (s.part p).epoch = 0xFFFF then 1 else (s.part p).epoch + 1) ∧
        (∀ f, f < 128 → (s.part p).fronds.getLsbD f = true → ∀ a, a < frondBytes → t.bufByte f a = 0) ∧
        (∀ q, q ≠ p → t.part q = s.part q) ∧ t.mem = s.mem ∧ t.tick = s.tick) ∧
    (∀ p, p < 16 → s.PresentsTo m 0x11 p c → (s.part p).active = true → (s.part p).epochRecent = none →
      ∃ t, exec (.partitionDestroy m) s = .next t ∧ t.Accepted m c ∧ (t.part p).stop = some (.destroy, m) ∧
        (t.part p).state = (s.part p).state ∧ (∀ q, q ≠ p → t.part q = s.part q) ∧
        { t.butMailboxes s with parts := s.parts } = s)

/-- R371, R374, R394, R307 and R574: a load of a sound image binds each stream entry to a package stream of its own, leaves
the partition with the plan, loaded and not verified, and measures and answers the digest of its header.
The model's own choices in it: log entries 49, 51 and 54. -/
def Obligations.PlansAreLoaded : Prop :=
  ∀ (m p : Nat) (c : Taken) (h : List Byte) (sect : Nat → List Byte) (s : State), s.Canonical → p < 16 →
    s.indus.meas.length = 21 → s.PresentsTo m 0x20 p c → c.arg 8 1 = 0 → s.Loads p (c.arg 16 8) (c.arg 24 8) h sect →
    ∃ t q, exec (.planLoad m) s = .next t ∧ (t.part p).plan = some q ∧
      (t.part p).state = (if (s.part p).state = .recovering then .recovering else .loaded) ∧ (t.part p).planVerified = false ∧
      q.fronds = (imagePlan h sect).fronds ∧ q.seed = (imagePlan h sect).seed ∧ q.tickPeriod = (imagePlan h sect).tickPeriod ∧
      q.progBase = (imagePlan h sect).progBase ∧ q.streams.map (·.1) = (imagePlan h sect).streams.map (·.1) ∧
      (q.streams.map (·.2)).Nodup ∧ (∀ e ∈ q.streams, ∃ x, t.stream e.2 = some x ∧ x.partition = p ∧ x.planStream = strPlan e.1) ∧
      (t.indus.meas.getD (4 + p) (0, 0)).1 = sha384 (h.take (dirEnd h)) ∧
      t.Answered m c 0 (sha384Bytes (h.take (dirEnd h))) ∧ t.tick = s.tick ∧ t.ports = s.ports ∧ t.power = s.power

/-- R395 and R396: a verify of a plan whose every check passes makes a loaded partition verified, with the ramp demand and
the largest peak of its power profile; a recovering one stays recovering.
The model's own choices in it: log entries 54, 55, 56, 57 and 58. -/
def Obligations.PlansAreVerified : Prop :=
  ∀ (m p : Nat) (c : Taken) (pl : Plan) (s : State), s.Canonical → p < 16 → s.PresentsTo m 0x21 p c →
    (s.part p).plan = some pl → s.Verifies p pl → ∃ t, exec (.planVerify m) s = .next t ∧ t.Answered m c 0 [] ∧
      (t.part p).planVerified = true ∧ (t.part p).plan = some pl ∧ (t.part p).demand = pl.rampDemand ∧
      (t.part p).peakMw = pl.largestPeak ∧
      (t.part p).state = (if (s.part p).state = .loaded then .verified else (s.part p).state) ∧
      (∀ q, q ≠ p → t.part q = s.part q) ∧ t.mem = s.mem ∧ t.tick = s.tick ∧ t.fronds = s.fronds

/-- R397, R400, R402, R404 and R536: an accepted start waits for its tick, a resumed one with the steps of its record; a
PLAN_STOP stops at the close of the step and releases a faulted partition; a PREEMPT replaces a pending PLAN_STOP, and
answers at once for a partition that is not active.
The model's own choices in it: log entries 84 and 104. -/
def Obligations.PlansStartAndStop : Prop :=
  ∀ (m p : Nat) (c : Taken) (s : State), s.Canonical → p < 16 →
    (s.PresentsTo m 0x22 p c → c.arg 16 1 = 0 → s.mayStart p = true →
      ∀ at_, at_ = (if c.arg 8 8 = 0 then s.tickNow + 2 else c.arg 8 8) → s.tickNow + 2 ≤ at_ → s.leastStart p ≤ at_ →
      ∃ t, exec (.planStart m) s = .next t ∧ t.Accepted m c ∧
        t.part p = { s.part p with start := some (at_, false, m), resumeSteps := none } ∧
        (∀ q, q ≠ p → t.part q = s.part q) ∧ { t.butMailboxes s with parts := s.parts } = s) ∧
    (∀ pl, s.PresentsTo m 0x22 p c → c.arg 16 1 = 1 → (s.part p).plan = some pl →
      (s.part p).state = .stopped ∨ (s.part p).state = .preempted → s.Sound pl.resumeAddr 128 → (s.part p).resumeValid = true →
      s.peekNat none pl.resumeAddr 48 = pl.programHash.toNat → ((s.part p).stopKind = 2 → pl.resumable = true) →
      s.mayStart p = true → ∀ at_, at_ = (if c.arg 8 8 = 0 then s.tickNow + 2 else c.arg 8 8) → s.tickNow + 2 ≤ at_ →
      s.leastStart p ≤ at_ → ∃ t, exec (.planStartResume m) s = .next t ∧ t.Accepted m c ∧
        t.part p = { s.part p with start := some (at_, true, m)
                                   resumeSteps := some (s.peekNat none (pl.resumeAddr + 56) 8) } ∧
        (∀ q, q ≠ p → t.part q = s.part q) ∧ t.mem = s.mem ∧ t.tick = s.tick) ∧
    (s.PresentsTo m 0x23 p c → (s.part p).state = .running → ∃ t, exec (.planStop m) s = .next t ∧ t.Accepted m c ∧
      t.part p = { s.part p with state := .stopping, stop := some (.planStop, m) } ∧ (∀ q, q ≠ p → t.part q = s.part q) ∧
      { t.butMailboxes s with parts := s.parts } = s) ∧
    (s.PresentsTo m 0x23 p c → (s.part p).state = .faulted → (s.part p).epochDue = true →
      ∃ t, exec (.planStop m) s = .next t ∧ t.part p = { s.part p with releaseDue := true } ∧
        t.Answered m c 0 (leBytes 8 (s.reg 8 p 0x1128).toNat ++ [if (s.part p).quiesced then 1 else 0]) ∧
        { t.butMailboxes s with parts := s.parts } = s) ∧
    (s.PresentsTo m 0x24 p c → (s.part p).active = true → (s.part p).epochRecent = none →
      ((s.part p).stop = none ∨ ∃ k, (s.part p).stop = some (.planStop, k)) → ∃ t, exec (.preempt m) s = .next t ∧
        t.Accepted m c ∧ (t.part p).stop = some (.preempt, m) ∧
        (∀ k, (s.part p).stop = some (.planStop, k) → (t.part p).replacedStop = some k) ∧
        (∀ q, q ≠ p → t.part q = s.part q) ∧ { t.butMailboxes s with parts := s.parts } = s) ∧
    (s.PresentsTo m 0x24 p c → (s.part p).active = false → ∃ t, exec (.preempt m) s = .next t ∧
      t.Answered m c 0 (leBytes 8 (s.part p).stopTick ++ leBytes 8 (s.reg 8 p 0x1128).toNat
        ++ leBytes 2 (s.part p).epoch.toNat) ∧ t.butMailboxes s = s)

/-- R290, R548, R556 and R558: SNAPSHOT_TAKE writes an image of a partition's entries to host memory; SNAPSHOT_RESTORE
leaves a copy of every entry at its step; MIRROR_CONFIG begins with every page due in both maps, and ends the mirroring;
STEP_SET and LOSS_SCALE_SET write the records of the plan.
The model's own choices in it: log entries 78, 79 and 87. -/
def Obligations.TrainingStateCommandsAct : Prop :=
  ∀ (m p : Nat) (c : Taken) (s : State), s.Canonical → p < 16 →
    (∀ pl, s.PresentsTo m 0x30 p c → c.arg 10 1 = 1 → (s.part p).plan = some pl →
      (∀ e ∈ s.imageEntries p true, s.probe (some p) e.2.1 e.2.2 = none) → ∃ t, exec (.snapshotTake m) s = .next t ∧
        t.Answered m c 0 (leBytes 8 (s.stepsDone p)) ∧
        leNat (sgets (fun _ => (0 : Byte)) t.hostMem (c.arg 16 8) 48) = pl.programHash.toNat ∧
        leNat (sgets (fun _ => (0 : Byte)) t.hostMem (c.arg 16 8 + 56) 8) = s.stepsDone p % 2 ^ 64 ∧
        leNat (sgets (fun _ => (0 : Byte)) t.hostMem (c.arg 16 8 + 80) 8) ≠ 0 ∧ t.mem = s.mem ∧ t.parts = s.parts) ∧
    (s.PresentsTo m 0x31 p c → c.arg 10 1 = 1 → (s.readHost (c.arg 16 8) 8192).isSome = true →
      (∀ e ∈ s.tableEntries p, (s.copyIn p c e.2 e.1).isSome = true) → ∃ t, exec (.snapshotRestore m) s = .next t ∧
        t.Answered m c 0 [] ∧ (t.part p).protect.lost = false ∧
        (∀ e ∈ s.tableEntries p, (e.2, c.arg 24 8) ∈ (t.part p).protect.copies) ∧ t.hostMem = s.hostMem ∧ t.tick = s.tick) ∧
    (s.PresentsTo m 0x32 p c → c.arg 8 1 = 1 → c.arg 10 2 ≠ 0xFFFF → 0x0200_0000_0000 ≤ c.arg 16 8 →
      c.arg 16 8 + c.arg 24 8 ≤ 0x0400_0000_0000 → c.arg 16 8 < 0x0400_0000_0000 → 8192 + 4 * s.mirrorSize p ≤ c.arg 24 8 →
      s.pair.bound = true → s.pair.partner = c.arg 10 2 → ∃ t, exec (.mirrorConfig m) s = .next t ∧ t.Answered m c 0 [] ∧
        (t.part p).protect.mirrorOn = true ∧ (t.part p).protect.mirrorLost = false ∧
        (t.part p).protect.partner = c.arg 10 2 ∧ (t.part p).protect.heldBase = c.arg 16 8 ∧
        (∀ pg ∈ s.mirrorPages p, pg ∈ (t.part p).protect.map0 ∧ pg ∈ (t.part p).protect.map1) ∧
        (∀ q, q ≠ p → t.part q = s.part q) ∧ { t.butMailboxes s with parts := s.parts } = s) ∧
    (s.PresentsTo m 0x32 p c → c.arg 8 1 = 0 → ∃ t, exec (.mirrorConfigDisable m) s = .next t ∧ t.Answered m c 0 [] ∧
      (t.part p).protect.mirrorOn = false ∧ (t.part p).protect.toSend = [] ∧ (∀ q, q ≠ p → t.part q = s.part q) ∧
      { t.butMailboxes s with parts := s.parts } = s) ∧
    (∀ pl, s.PresentsTo m 0x82 p c → (s.part p).plan = some pl → (∀ a ∈ pl.shards, a % 64 = 0 ∧ s.Sound a 64) →
      (∀ a ∈ pl.shards, ∀ b ∈ pl.shards, a ≠ b → s.resolveDirect a ≠ s.resolveDirect b) → pl.shards.Nodup →
      ∃ t, exec (.stepSet m) s = .next t ∧ t.Answered m c 0 [] ∧
        (∀ a ∈ pl.shards, t.peekNat none a 64 = stepRecord (s.peekNat none a 64) (c.arg 8 8)) ∧ t.fronds = s.fronds ∧ t.tick = s.tick) ∧
    (∀ pl, s.PresentsTo m 0x83 p c → (s.part p).plan = some pl → s.Sound pl.lossScaleAddr 8 →
      ∃ t, exec (.lossScaleSet m) s = .next t ∧ t.Answered m c 0 [] ∧
        t.peekNat none pl.lossScaleAddr 4 = c.arg 8 4 ∧ t.peekNat none (pl.lossScaleAddr + 4) 4 = 0 ∧
        t.fronds = s.fronds ∧ t.tick = s.tick)

/-- R511, R514 and R515: PAIR_BIND with legal ports waits for the partner's BIND; SPARE_ADOPT takes the failed chip's
logical ID and waits for the BIND of the partner it has a route to.
The model's own choices in it: log entry 36. -/
def Obligations.PairsAndSparesBind : Prop :=
  ∀ (m : Nat) (c : Taken) (s : State), s.Canonical → s.pair.bound = false → s.pair.heard = [] →
    (s.Presents m 0x33 c → c.arg 8 2 ≠ 0xFFFF → c.arg 10 1 ≤ 1 → c.arg 11 1 ≤ 15 → c.arg 12 1 ≤ 15 →
      (c.arg 11 1 = 14 → c.arg 12 1 = 15 → s.pkg.pairSense = true) → ∃ t, exec (.pairBind m) s = .next t ∧ t.Accepted m c ∧
        (∃ b, t.pair = { s.pair with pending := some b } ∧ b.mb = m ∧ b.partner = c.arg 8 2 ∧
          b.coFedAsked = (c.arg 10 1 == 1) ∧ b.port1 = c.arg 11 1 ∧ b.port2 = c.arg 12 1 ∧ b.got = none ∧ b.fill = none) ∧
        { t.butMailboxes s with pair := s.pair, ports := s.ports, regs := s.regs } = s) ∧
    (∀ r, s.Presents m 0x80 c → c.arg 8 2 ≠ 0xFFFF → c.arg 10 2 ≠ 0xFFFF → c.arg 8 2 ≠ c.arg 10 2 →
      (∀ p, p < 16 → (s.part p).state = .free ∨ (s.part p).state = .created) → s.routeTo (c.arg 10 2) = some r →
      ∃ t, exec (.spareAdopt m) s = .next t ∧ t.Accepted m c ∧ t.ownId = c.arg 8 2 ∧
        (∃ b, t.pair = { s.pair with pending := some b } ∧ b.mb = m ∧ b.partner = c.arg 10 2 ∧ b.port1 = r.port ∧
          b.fill = some (c.arg 12 4)) ∧
        { t.butMailboxes s with pair := s.pair, routes := s.routes, ports := s.ports, regs := s.regs } = s)

/-- R571, R572 and R579 to R581: FW_UPDATE with an accepted image from host memory writes it to the target slot and stages
it; DEBUG_UNLOCK gives a challenge and, with a token that passes its checks, unlocks the token's scope.
The model's own choices in it: log entries 69, 70 and 71. -/
def Obligations.FirmwareAndDebugCommandsAct : Prop :=
  ∀ (m : Nat) (c : Taken) (s : State), s.Canonical →
    (∀ b, s.Presents m 0x70 c → c.arg 8 1 = 0 → s.readHost (c.arg 16 8) (min (c.arg 24 8) 0x40_0000) = some b →
      s.indus.imageFails b = none → s.indus.hostServing = false → swf Config.flashByte s.indus.flash = true →
      ∃ t, exec (.fwUpdate m) s = .next t ∧ t.Answered m c 0 (leBytes 4 (imgNat b 8 4)) ∧ t.indus.staged = true ∧
        t.indus.flashRead (s.indus.targetSlot * 0x100_0000) (imgNat b 24 8) = b.take (imgNat b 24 8) ∧
        t.indus.bootSource = s.indus.bootSource ∧ s.indus.rollback ≤ t.indus.rollback ∧ t.pkg = s.pkg ∧ t.mem = s.mem) ∧
    (s.Presents m 0x72 c → c.arg 8 1 = 0 → s.indus.debugDisable = false → ∃ t k, exec (.debugUnlockChallenge m) s = .next t ∧
      t.indus = { s.indus with challenge := some k } ∧ t.Answered m c 0 (leBytes 48 k.toNat) ∧
      { t.butMailboxes s with indus := s.indus, freeCtr := s.freeCtr } = s) ∧
    (s.Presents m 0x72 c → c.arg 8 1 = 1 → s.Sound (c.arg 16 8) 256 →
      (∀ i y, i < 256 → s.resolveDirect (c.arg 16 8 + i) = some y → s.holderOf y = none) → c.arg 24 4 = 256 →
      s.indus.debugDisable = false → (∀ p, p < 16 → (s.part p).active = false) → s.indus.meas.length = 21 →
      s.indus.tokenFails s.indus.challenge (s.peek none (c.arg 16 8) 256) = none →
      ∃ t, exec (.debugUnlockToken m) s = .next t ∧ t.Answered m c 0 [] ∧ t.indus.challenge = none ∧
        t.indus.debugScope = imgNat (s.peek none (c.arg 16 8) 256) 7 1 ∧
        (t.indus.meas.getD 3 (0, 0)).1 = sha384 (s.peek none (c.arg 16 8) 256) ∧ t.mem = s.mem ∧ t.parts = s.parts)

/-! ### Descriptors -/

/-- R15, R24, R47, R48, R380 and R389: a descriptor for a frond outside the numbering, or with a field outside its map,
is none of the part's; on a frond without running work nothing happens; after the frame_end of the fetch sequencer, and where
neither the frame program nor the queue has the descriptor next, nothing is issued; an execute descriptor behind others takes
one of the 64 entries of the queue, or the fetch sequencer waits for one; and a guarded descriptor beyond the step's extent is
skipped and counted, and its engine does nothing.
The model's own choices in it: log entries 11, 90, 112, 113 and 120. -/
def Obligations.DescriptorsAreIssuedInOrder : Prop :=
  ∀ (c : Instr) (i : Issue) (ok : Bool) (r : State), descriptorOf c = some (i, ok) →
    let s := r.shownBy c
    let is := spelledBy c
    let x := s.frond i.frond
    (128 ≤ i.frond → exec c r = .fault .noSuchUnit) ∧
    (i.frond < 128 → (i.wf && ok) = false → exec c r = .fault .reservedCode) ∧
    (i.frond < 128 → (i.wf && ok) = true → s.workOf i.frond = none → exec c r = .next s) ∧
    (∀ p, i.frond < 128 → (i.wf && ok) = true → s.Canonical → s.workOf i.frond = some p → s.NoCollectiveWaits p →
      (i.seq = .fetch → x.fetch.ended = true → exec c r = .next s) ∧
      (x.nextIs i is = false → (∀ e ∈ x.queue.head?, e.dsc.spells i is = false) → exec c r = .next s) ∧
      (i.seq = .execute → x.loop = none → x.nextIs i is = true → x.starved i = false → x.queue ≠ [] →
        (∀ e ∈ x.queue.head?, e.dsc.spells i is = false) →
        (x.queue.length < 64 → ∃ t, exec c r = .next t ∧
          (t.frond i.frond).queue = x.queue ++ (x.prog.take 1).map (fun d => { dsc := d, pass := none }) ∧
          (t.frond i.frond).fetch.wait = none ∧ (t.frond i.frond).fetch.pos = x.fetch.pos + 1 ∧
          (t.frond i.frond).jobs = x.jobs ∧ t.acc = s.acc ∧ t.fbuf = s.fbuf) ∧
        (64 ≤ x.queue.length → exec c r = .next (s.waitOn i.frond .fetch .queue))) ∧
      (∀ pass head, x.gate i is = .go pass head → s.readyFor p c = none → ((s.issued i p pass head).part p).skips i = true →
        (∀ j b, c = .multicast j b → b.streamed = false) →
        ∃ t, exec c r = .next t ∧ t.reg 8 p 0x1134 = BitVec.ofNat 64 (((s.reg 8 p 0x1134).toNat + 1) % 2 ^ 32) ∧
          (t.frond i.frond).jobs = x.jobs ∧ ((t.frond i.frond).sq i.seq).pos = (x.sq i.seq).pos + 1 ∧
          t.acc = s.acc ∧ t.fbuf = s.fbuf ∧ t.gens = s.gens))

/-- R125 to R158: a DENSE_TILE leaves in each cell of its sub-array the sum of its blocks, over the old value where it
accumulates, and every other accumulator as it was; a disagreement of its residue cells stops its partition; a DRAIN writes
its sub-array's elements to the buffer, each W48 element as its code, and changes no accumulator.
The model's own choices in it: log entries 5, 12, 13, 15, 90, 95, 96, 98 and 121. -/
def Obligations.DenseTilesAccumulateAndDrain : Prop :=
  (∀ (i : Issue) (b : DenseBody) (r : State) (p : Nat) (pass : Option PassRef) (head : Bool),
    let s := r.presented i
    let s0 := s.issued i p pass head
    let R := subRows b.split
    s.Issues i (isDense b) p pass head → b.wf = true → i.seq = .execute →
    s.bankWait i.frond b.bank (R * b.sub) R b.split false = none → s0.BufSound i.frond (denseReads b) →
    (b.accumulate = true → s0.StoreSound i.frond .accumulator (accWords b.bank (R * b.sub) R 128)) →
    ∃ t, exec (.denseTile i b) r = .next t ∧
      (∀ y c, y < R → c < 128 → sget (fun _ => (0 : Dword)) t.acc (accKey i.frond b.bank (R * b.sub + y) c) =
        BitVec.ofNat 64 (Fmt.w48.encode (accumulate (accFmt b.accMode) b.accumulate
          (s0.accVal i.frond b.bank (R * b.sub + y) c) ((s0.denseBlocks i.frond b i.upset y c).map (·.1))))) ∧
      (∀ k, (∀ y c, y < R → c < 128 → k ≠ accKey i.frond b.bank (R * b.sub + y) c) →
        sget (fun _ => (0 : Dword)) t.acc k = sget (fun _ => (0 : Dword)) s0.acc k) ∧
      t.reg 1 i.frond 0x1110 = s0.reg 1 i.frond 0x1110 + BitVec.ofNat 64 i.cycles ∧
      t.holdsJob s i pass (.dense b.bank (R * b.sub) R b.sub b.split (denseSteps b)) ∧
      (s0.denseDisagrees i.frond b i.upset = false →
        { t with acc := s0.acc, frondFlips := s0.frondFlips, fronds := s0.fronds, regs := s0.regs } = s0) ∧
      (s0.denseDisagrees i.frond b i.upset = true → (s0.part p).faultCode = 0 → (t.part p).faultCode = 0x0502 ∧
        t.globalFault.getLsbD (16 + p) = true ∧
        t.reg 1 i.frond 0x1124 = BitVec.ofNat 64 (((s0.reg 1 i.frond 0x1124).toNat + 1) % 2 ^ 32))) ∧
  (∀ (i : Issue) (b : DrainBody) (r : State) (p : Nat) (pass : Option PassRef) (head : Bool),
    let s := r.presented i
    let s0 := s.issued i p pass head
    let R := subRows b.split
    let d := (List.range b.rowsValid).foldl (s0.drainRow i.frond b) { writes := [], gens := s0.gens, nans := 0 }
    s.Issues i (isDrain b) p pass head → b.wf = true → i.seq = .execute →
    s.bankWait i.frond b.bank (R * b.sub) R b.split true = none →
    (∀ y, y < b.rowsValid → ∀ a ∈ drainRowBytes b y, a < frondBytes) → s0.BufSound i.frond (drainReads b) →
    s0.StoreSound i.frond .accumulator (accWords b.bank (R * b.sub) b.rowsValid b.colsValid) →
    s0.BufSound i.frond (d.writes.map (·.addr)) →
    ∃ t, exec (.drain i b) r = .next t ∧ t.fbuf = (s0.bufPut i.frond d.writes).fbuf ∧ t.gens = d.gens ∧
      t.reg 1 i.frond 0x1128 = BitVec.ofNat 64 (((s0.reg 1 i.frond 0x1128).toNat + d.nans) % 2 ^ 32) ∧
      t.holdsJob s i pass (.drain b.bank (R * b.sub) R) ∧
      (b.outFmt = 9 → b.epiOp = 0 → b.maskGate = false → b.outScale = 0x3F800000 →
        (b.rowsValid = 1 ∨ 8 * b.colsValid ≤ b.outStride) →
        (∀ y c, y < b.rowsValid → c < b.colsValid → t.bufNat i.frond (b.outAddr + y * b.outStride + 8 * c) 8 =
          Fmt.w48.encode (s0.accVal i.frond b.bank (R * b.sub + y) c) % 2 ^ 64) ∧
        (∀ a, a < frondBytes → (∀ y, y < b.rowsValid → a < b.outAddr + y * b.outStride ∨ b.outAddr + y * b.outStride + 8 * b.colsValid ≤ a) →
          t.bufByte i.frond a = s0.bufByte i.frond a)) ∧
      { t with fbuf := s0.fbuf, fbufBad := s0.fbufBad, frondFlips := s0.frondFlips, gens := s0.gens, fronds := s0.fronds,
               regs := s0.regs } = s0)

/-- R184 to R221: a GATHER fills its panel with the rows its map names; a SPARSE_TILE adds to each lane's bank row the
blocks of its kept positions against the panel and counts what it fires and drops; a SAMPLED_TILE writes one result for
each position of its tile.
The model's own choices in it: log entries 90, 97, 98, 100 and 128. -/
def Obligations.LaneTilesServeThePanel : Prop :=
  (∀ (i : Issue) (b : GatherBody) (r : State) (p : Nat) (pass : Option PassRef) (head : Bool),
    let s := r.presented i
    let s0 := s.issued i p pass head
    s.Issues i (isGather b) p pass head → b.wf = true → i.seq = .fetch → s.gatherWait i.frond b.panel i.served = none →
    s0.BufSound i.frond (s0.gatherReads i.frond b) → s0.gatherFail i.frond b = none →
    ∃ t, exec (.gather i b) r = .next t ∧
      ((t.frond i.frond).panel b.panel).extent = b.rows ∧ ((t.frond i.frond).panel b.panel).fmt = b.fmt ∧
      ((t.frond i.frond).panel b.panel).active =
        (if b.map = 3 then (List.range b.listLen).map (fun j => s0.bufNat i.frond (b.listAddr + 2 * j) 2) else List.range b.rows) ∧
      (b.map = 0 → ∀ k x, k < b.rows → x < 128 →
        sget (fun _ => (0 : BitVec 16)) ((t.frond i.frond).panel b.panel).data (128 * k + x) =
          if x < b.cols then BitVec.ofNat 16 (s0.rowCode i.frond (b.srcAddr + k * b.srcStride) b.fmt x) else 0) ∧
      (t.frond i.frond).panel b.panel = s0.gatherPanel i.frond b ((s0.frond i.frond).panel b.panel) ∧
      (t.frond i.frond).panel (1 - b.panel) = (s0.frond i.frond).panel (1 - b.panel) ∧
      t.holdsJob s i pass (.gather b.panel) ∧ { t with fronds := s0.fronds, regs := s0.regs } = s0) ∧
  (∀ (i : Issue) (b : SparseBody) (r : State) (p : Nat) (pass : Option PassRef) (head : Bool),
    let s := r.presented i
    let s0 := s.issued i p pass head
    let g := s0.bufTile i.frond b.tileAddr
    let h := tileHeader g
    let x := (s0.frond i.frond).panel b.panel
    let all := tileLanes g h b.dir b.quarter
    let lane := fun l => (all.getD l []).filter fun e => x.active.contains e.1
    s.Issues i (isSparse b) p pass head → b.wf = true → i.seq = .execute →
    s.laneWait i.frond b.panel (some b.bank) i.served = none →
    s0.BufSound i.frond (rangeFrom b.tileAddr 64 ++ rangeFrom b.tileAddr (tileExtent h)) →
    checkHeader h (fun v => v == b.fmtW) = none →
    (b.accumulate = true → s0.StoreSound i.frond .accumulator (accWords b.bank 0 128 128)) →
    s0.loadCheck i.frond b.tileAddr b.panel b.dir b.quarter b.intersect (fun v => v == b.fmtW) = none →
    (b.demote = true ∨ b.gbUse = false ∨ b.dir = true ∨ groupBound h = none ∨
      ∃ y, groupBound h = some y ∧ overfull g h y.1 y.2 = none) →
    ∃ t n half, exec (.sparseTile i b) r = .next t ∧
      (∀ l c, l < 128 → c < 128 → sget (fun _ => (0 : Dword)) t.acc (accKey i.frond b.bank l c) =
        BitVec.ofNat 64 (Fmt.w48.encode
          (sparseCell s0 i.frond b l c ((sparseBlocks g h x b i.upset l c (lane l)).map (·.1))))) ∧
      (∀ k, (∀ l c, l < 128 → c < 128 → k ≠ accKey i.frond b.bank l c) →
        sget (fun _ => (0 : Dword)) t.acc k = sget (fun _ => (0 : Dword)) s0.acc k) ∧
      t.reg 1 i.frond 0x1148 = s0.reg 1 i.frond 0x1148 + BitVec.ofNat 64 (((List.range 128).map fun l => (lane l).length).sum) ∧
      t.reg 1 i.frond 0x1158 = BitVec.ofNat 64 (((s0.reg 1 i.frond 0x1158).toNat +
        ((List.range 128).map fun l => (all.getD l []).length - (lane l).length).sum) % 2 ^ 32) ∧
      t.reg 1 i.frond 0x1160 = BitVec.ofNat 64 (thGen h) ∧ (t.frond i.frond).split = 0 ∧
      t.holdsJob s i pass (.sparse b.bank b.panel n half) ∧ 1 ≤ n ∧
      (i.upset = none → { t with acc := s0.acc, frondFlips := s0.frondFlips, fronds := s0.fronds, regs := s0.regs } = s0)) ∧
  (∀ (i : Issue) (b : SampledBody) (r : State) (p : Nat) (pass : Option PassRef) (head : Bool),
    let s := r.presented i
    let s0 := s.issued i p pass head
    let g := s0.bufTile i.frond b.tileAddr
    let h := tileHeader g
    let w := (tileLanes g h b.dir b.quarter).zipIdx.foldl (fun (a : List (Nat × Byte) × List (Nat × Dword)) l =>
      l.1.zipIdx.foldl (fun a e =>
        let o := s0.sampledResult i.frond b i.upset ((s0.frond i.frond).panel b.panel) l.2 e.2 e.1 a.2
        (a.1 ++ o.1, o.2)) a) ([], s0.gens)
    s.Issues i (isSampled b) p pass head → b.wf = true → i.seq = .execute →
    s.laneWait i.frond b.panel none i.served = none →
    s0.BufSound i.frond (rangeFrom b.tileAddr 64 ++ rangeFrom b.tileAddr (tileExtent h)) →
    checkHeader h (fun v => lanePair v b.fmtStat) = none →
    s0.loadCheck i.frond b.tileAddr b.panel b.dir b.quarter false (fun v => lanePair v b.fmtStat) = none →
    s0.BufSound i.frond ((List.range 128).flatMap fun j => rangeFrom (b.statAddr + j * b.statStride) (rowBytes b.fmtStat b.colsValid)) →
    s0.BufSound i.frond (w.1.map (·.1)) →
    ∃ t n half, exec (.sampledTile i b) r = .next t ∧ t.WroteBuf s0 i.frond w.1 ∧ t.gens = w.2 ∧
      t.reg 1 i.frond 0x1160 = BitVec.ofNat 64 (thGen h) ∧ t.holdsJob s i pass (.sampled b.panel n half) ∧ 1 ≤ n ∧
      (t.frond i.frond).split = 0 ∧ (∀ e, e ≠ i.frond → ∀ a, a < frondBytes → t.bufByte e a = s0.bufByte e a) ∧
      (i.upset = none → { t with fbuf := s0.fbuf, fbufBad := s0.fbufBad, frondFlips := s0.frondFlips, gens := s0.gens,
                                 fronds := s0.fronds, regs := s0.regs } = s0))

/-- R126, R155, R163, R200, R212, R217, R320, R321, R363, R502 and R503: what a descriptor's completion does. A tile, a GATHER, a
kernel, a collective and a build's edit leave their engine; DRAIN and MOVE count in their register, and a MOVE only as the
oldest; a streamed MULTICAST signals FILLED on each of its streams; a MASK_COMMIT's tiles count as committed. A completion of
no descriptor does nothing.
The model's own choices in it: log entry 90. -/
def Obligations.CompletionsEndTheirDescriptors : Prop :=
  ∀ (f id : Nat) (s : State), f < 128 → s.Canonical →
    ((s.frond f).job id = none → ∀ mk ∈ [Instr.moveComplete, .multicastComplete, .gatherComplete, .denseTileComplete,
        .sparseTileComplete, .sampledTileComplete, .drainComplete, .updateComplete, .maskPruneComplete, .maskRegrowComplete,
        .maskCommitComplete, .reduceSendComplete, .reduceRecvComplete], exec (mk f id) s = .next s) ∧
    (∀ j, (s.frond f).job id = some j →
      (∀ bk y n sb sp st, j.body = .dense bk y n sb sp st → exec (.denseTileComplete f id) s = .next (s.endJob f id)) ∧
      (∀ p, j.body = .gather p → exec (.gatherComplete f id) s = .next (s.endJob f id)) ∧
      (∀ bk p n h, j.body = .sparse bk p n h → exec (.sparseTileComplete f id) s = .next ((s.drainQueues f id).endJob f id)) ∧
      (∀ p n h, j.body = .sampled p n h → exec (.sampledTileComplete f id) s = .next ((s.drainQueues f id).endJob f id)) ∧
      (∀ bk y n, j.body = .drain bk y n → ∃ t, exec (.drainComplete f id) s = .next t ∧
        t.reg 1 f 0x112C = BitVec.ofNat 64 (((s.reg 1 f 0x112C).toNat + 1) % 2 ^ 32) ∧ { t with regs := s.regs } = s.endJob f id) ∧
      (j.body = .move →
        ((s.frond f).jobs.find? (fun x => x.body == .move) = some j → ∃ t, exec (.moveComplete f id) s = .next t ∧
          t.reg 1 f 0x11A8 = BitVec.ofNat 64 (((s.reg 1 f 0x11A8).toNat + 1) % 2 ^ 32) ∧ { t with regs := s.regs } = s.endJob f id) ∧
        (∀ x, (s.frond f).jobs.find? (fun x => x.body == .move) = some x → x.id ≠ j.id → exec (.moveComplete f id) s = .next s)) ∧
      (∀ b base, j.body = .multicast b base →
        (b.streamed = false → exec (.multicastComplete f id) s = .next (s.endJob f id)) ∧
        (b.streamed = true → ∀ p, s.ownerOf f = some p → ∃ t, exec (.multicastComplete f id) s = .next t ∧
          (t.frond f).jobs = (s.frond f).jobs.filter (fun x => x.id != id) ∧
          t.hyphae.signals = s.hyphae.signals ++ (List.range (destsOf b.destMask).length).map (fun k =>
            { id := s.hyphae.nextSignal + k, frond := f, seq := .fetch, jobId := id, target := .filled (base + k), count := 1
              partition := p, epoch := (s.part p).epoch }) ∧
          { t with fronds := s.fronds, hyphae := s.hyphae, streams := s.streams, ledgers := s.ledgers } = s)) ∧
      (∀ k, j.body = .prune k → exec (.maskPruneComplete f id) s = .next (s.endJob f id)) ∧
      (∀ k, j.body = .regrow k → exec (.maskRegrowComplete f id) s = .next (s.endJob f id)) ∧
      (∀ k first n m, j.body = .commit k first n → s.slot k = some m →
        ∃ t m', exec (.maskCommitComplete f id) s = .next t ∧ t.slot k = some m' ∧
          (∀ x, x ∈ m'.committed ↔ x ∈ m.committed ∨ (first ≤ x ∧ x < first + n)) ∧
          m'.state = (if m'.committed.length = polTiles m.policy then 3 else m.state) ∧
          { m' with committed := m.committed, state := m.state } = m ∧ { t with slots := s.slots } = s.endJob f id) ∧
      (∀ b n w, j.body = .send b true n w → sendPackets b ≤ n → exec (.reduceSendComplete f id) s = .next (s.endJob f id)) ∧
      (∀ b n w, j.body = .send b true n w → n < sendPackets b → exec (.reduceSendComplete f id) s = .next s) ∧
      (∀ b l h w, j.body = .recv b true l h w → b.length / 64 ≤ l.length → (b.withHealth = true → h = true) →
        exec (.reduceRecvComplete f id) s = .next (s.endJob f id))) ∧
    (∀ j, (s.frond f).vec.running = false → (s.frond f).jobs.find? (fun j => j.body == .vec) = some j →
      exec (.kernelComplete f) s = .next (s.endJob f j.id)) ∧
    ((s.frond f).vec.running = true → exec (.kernelComplete f) s = .next s)

/-! ### Copies, kernels, updates and masks -/

/-- R320 to R322, R332 to R364 and R163: a MOVE whose checks pass leaves at its destination the elements of its source, in
order, and every other byte as it was; a MULTICAST takes a credit of each destination stream and leaves its source bytes at
the same place of every destination's buffer; a VEC starts its kernel at its entry with its six arguments in s1 to s6.
The model's own choices in it: log entries 5, 22, 23, 90 and 132. -/
def Obligations.CopiesAndKernelsStart : Prop :=
  (∀ (i : Issue) (b : MoveBody) (r : State) (p : Nat) (pass : Option PassRef) (head : Bool) (h : CopyShape) (src dst : CopySide),
    let s := r.presented i
    let s0 := s.issued i p pass head
    let cells := s0.moveCells p i.frond b h src dst
    s.Issues i (isMove b) p pass head → b.wf = true → i.seq = .fetch → s.moveWait i.frond = none → s0.Moves i b p h src dst →
    (∀ g, dst.buf = some g → s0.BufSound g (cells.map (·.1)) → ∃ t, exec (.move i b) r = .next t ∧ t.WroteBuf s0 g cells ∧
      (∀ e, e ≠ g → ∀ a, a < frondBytes → t.bufByte e a = s0.bufByte e a) ∧ t.Wrote s0 p [] ∧
      (src.fmt = dst.fmt → t.gens = s0.gens ∧ t.reg 1 i.frond 0x11A0 = s0.reg 1 i.frond 0x11A0 + BitVec.ofNat 64 cells.length) ∧
      t.holdsJob s i pass .move ∧ t.frondsKept s0 i.frond ∧ (∀ q, t.partKept s0 q) ∧
      { t.butData s0 with fbuf := s0.fbuf, fbufBad := s0.fbufBad, frondFlips := s0.frondFlips, gens := s0.gens
                          fronds := s0.fronds } = s0) ∧
    (dst.buf = none → s0.Writable p (cells.map (·.1)) → ∃ t, exec (.move i b) r = .next t ∧ t.Wrote s0 p cells ∧
      (src.fmt = dst.fmt → t.gens = s0.gens ∧ t.reg 1 i.frond 0x11A0 = s0.reg 1 i.frond 0x11A0 + BitVec.ofNat 64 cells.length) ∧
      t.holdsJob s i pass .move ∧ t.frondsKept s0 i.frond ∧ (∀ q, t.partKept s0 q) ∧
      { t.butData s0 with gens := s0.gens, fronds := s0.fronds } = s0)) ∧
  (∀ (i : Issue) (b : MulticastBody) (r : State) (p : Nat) (pass : Option PassRef) (head : Bool),
    let s := (r.arrive i.arriving).presented i
    let s0 := s.issued i p pass head
    let n := (destsOf b.destMask).length
    let at_ := fun (d a : Nat) => ∃ j, (destsOf b.destMask)[j]? = some d ∧
      s0.multicastBase i b j ≤ a ∧ a < s0.multicastBase i b j + b.length
    s.Issues i (isMulticast b) p pass head → b.wf = true → i.seq = .fetch →
    (b.streamed = true → ∀ j, j < n → ∃ x, s.stream (i.streamId + j) = some x ∧ x.freed ≠ 0) →
    s0.Readable p (rangeFrom b.srcAddr b.length) →
    (∀ j d, (destsOf b.destMask)[j]? = some d → s0.BufSound d (rangeFrom (s0.multicastBase i b j) b.length)) →
    ∃ t, exec (.multicast i b) r = .next t ∧
      (∀ j d k, (destsOf b.destMask)[j]? = some d → k < b.length →
        t.bufByte d (s0.multicastBase i b j + k) = s0.devByte p (b.srcAddr + k)) ∧
      (∀ d a, a < frondBytes → ¬ at_ d a → t.bufByte d a = s0.bufByte d a) ∧ t.Wrote s0 p [] ∧
      (b.streamed = true → ∀ j x, j < n → s.stream (i.streamId + j) = some x →
        t.stream (i.streamId + j) = some { x with freed := x.freed - 1, claimed := x.claimed + 1 }) ∧
      (∀ k, (b.streamed = true → ∀ j, j < n → k ≠ i.streamId + j) → t.stream k = s.stream k) ∧
      t.holdsJob s i pass (.multicast b i.streamId) ∧ t.frondsKept s0 i.frond ∧ (∀ q, t.partKept s0 q) ∧
      { t.butData s0 with fbuf := s0.fbuf, fbufBad := s0.fbufBad, frondFlips := s0.frondFlips, fronds := s0.fronds
                          streams := s0.streams } = s0) ∧
  (∀ (i : Issue) (b : VecBody) (r : State) (p : Nat) (pass : Option PassRef) (head : Bool),
    let s := r.presented i
    let s0 := s.issued i p pass head
    s.Issues i (isVec b) p pass head → b.wf = true → i.seq = .execute → (∀ j ∈ (s.frond i.frond).jobs, j.body ≠ .vec) →
    ∃ t, exec (.vec i b) r = .next t ∧ (t.frond i.frond).vec.running = true ∧ (t.frond i.frond).vec.pc = b.entry ∧
      (t.frond i.frond).vec.numctl = b.numctl ∧ (t.frond i.frond).vec.jobId = (s.frond i.frond).nextId ∧
      ([0, 1, 2, 3, 4, 5, 6].map (t.frond i.frond).vec.sreg) = [0, b.arg1, b.arg2, b.arg3, b.arg4, b.arg5, b.arg6] ∧
      (∀ n, 7 ≤ n → n < 16 → (t.frond i.frond).vec.sreg n = 0) ∧
      (t.frond i.frond).vec.vregs = (s.frond i.frond).vec.vregs ∧ (t.frond i.frond).vec.preds = (s.frond i.frond).vec.preds ∧
      (t.frond i.frond).vec.flags = (s.frond i.frond).vec.flags ∧ t.holdsJob s i pass .vec ∧
      (∀ g, g ≠ i.frond → t.frond g = s0.frond g) ∧
      { t.frond i.frond with vec := (s0.frond i.frond).vec, jobs := (s0.frond i.frond).jobs } = s0.frond i.frond ∧
      { t with fronds := s0.fronds } = s0)

/-- R261 to R289: an UPDATE whose health word and shard record agree applies its rule to every position of its range and sets
the torn bit, which its completion clears with the new step; phase 1 writes the sums and phase 2 the statistics before it
applies; a range of no positions writes nothing; a verdict of skip or skew writes nothing, and a skew stops the partition; the
close of a step writes the loss-scale record.
The model's own choices in it: log entries 5, 90 and 102. -/
def Obligations.UpdatesApplyTheirRule : Prop :=
  (∀ (i : Issue) (b : UpdateBody) (r : State) (p : Nat) (pass : Option PassRef) (head : Bool) (word shard : Nat),
    let s := r.presented i
    let s0 := s.issued i p pass head
    let uc := uConst shard word
    let pos := s0.densePos p shard b
    let empty := b.dense && b.count == 0
    let verdict := (verdictOf word (if empty then none else some shard)).1
    let torn := [(b.shardAddr + 48, BitVec.ofNat 8 (bitsOf shard 384 8 % 32 + 32 + bitsOf shard 390 2 * 64))]
    let apart := fun (as : List Nat) => ∀ a ∈ as, s0.resolve (some p) a ≠ s0.resolve (some p) (b.shardAddr + 48)
    let kept := fun (t : State) => t.frondsKept s0 i.frond ∧ (∀ q, t.partKept s0 q) ∧
      { t.butData s0 with gens := s0.gens, fronds := s0.fronds } = s0
    let zero := fun (_ : UPos) => (⟨.zero, .zero, .zero⟩ : FactStat)
    let run := fun (stat : UPos → FactStat) => pos.foldl (updatePos uc (denseForm i p shard b) stat) (UAcc.start s0.gens)
    s.Issues i (isUpdate b) p pass head → b.wf = true → i.seq = .execute → s0.UpdateReads p b word shard →
    (b.dense = true → empty = false → verdict = .apply → s0.Readable p (denseReadsOf shard b) →
      (b.phase = 0 → apart (denseReadsOf shard b) → s0.Writable p (torn.map (·.1)) →
        s0.Writable p ((denseCells shard b (run zero)).map (·.1)) →
        ∃ t, exec (.update i b) r = .next t ∧ t.Wrote s0 p (torn ++ denseCells shard b (run zero)) ∧
          t.gens = (run zero).gens ∧ t.holdsJob s i pass (afterApply uc b shard) ∧ kept t) ∧
      (b.phase = 1 → s0.Writable p ((sumCells uc b.sumAddr (factDims b 1).1 (factDims b 1).2 pos).map (·.1)) →
        ∃ t, exec (.factSums i b) r = .next t ∧ t.Wrote s0 p (sumCells uc b.sumAddr (factDims b 1).1 (factDims b 1).2 pos) ∧
          t.gens = s0.gens ∧ t.holdsJob s i pass (.update b .apply 0 0 0) ∧ kept t) ∧
      (b.phase = 2 →
        let nr := (factDims b 1).1
        let nc := (factDims b 1).2
        let sums := rangeFrom b.sumAddr (sumSize nr nc) ++ rangeFrom (shStats shard) (statCol nr + 4 * nc)
        let st := newStats uc nr nc (fun o n => s0.devNat p (b.sumAddr + o) n) (fun o n => s0.devNat p (shStats shard + o) n)
        let stats := st.cells (shStats shard) nr
        apart (denseReadsOf shard b) → apart sums → s0.Readable p sums → s0.Writable p (torn.map (·.1)) → s0.Writable p (stats.map (·.1)) →
        (∀ a ∈ denseReadsOf shard b, ∀ c ∈ stats, s0.resolve (some p) a ≠ s0.resolve (some p) c.1) →
        s0.Writable p ((denseCells shard b (run st.of)).map (·.1)) →
        ∃ t, exec (.factApply i b) r = .next t ∧ t.Wrote s0 p (torn ++ stats ++ denseCells shard b (run st.of)) ∧
          t.gens = (run st.of).gens ∧ t.holdsJob s i pass (afterApply uc b shard) ∧ kept t)) ∧
    (∀ k m, b.dense = false → b.phase = 0 → b.rescale = false → b.tileCount = 1 → verdict = .apply →
      s0.slotOf p b.policy = some (k, m) → s0.doubleBuffers p b.policy = false →
      let x := s0.tileU p k m b b.firstTile
      let a := x.pos.foldl (updatePos uc (x.form m i p b) zero) (UAcc.start s0.gens)
      checkTile x.bytes true true false (fun _ => true) = none → tileExtent (tileHeader x.bytes) ≤ polTileBytes m.policy →
      s0.Readable p (x.headBytes m ++ x.partBytes m b) →
      apart (x.headBytes m ++ x.partBytes m b) → s0.Writable p (torn.map (·.1)) → s0.Writable p ((x.cells m b a).map (·.1)) →
      ∃ t, exec (.update i b) r = .next t ∧ t.Wrote s0 p (torn ++ x.cells m b a) ∧ t.gens = a.gens ∧
        t.holdsJob s i pass (afterApply uc b shard) ∧ kept t) ∧
    (∀ mk ∈ [(Instr.update, 0), (.factSums, 1), (.factApply, 2)], b.phase = mk.2 →
      (empty = true → verdict = .apply → ∃ t, exec (mk.1 i b) r = .next t ∧ t.Wrote s0 p [] ∧ t.gens = s0.gens ∧
        t.holdsJob s i pass (.update b .apply 0 0 0) ∧ kept t) ∧
      (verdict = .skip → ∃ t, exec (mk.1 i b) r = .next t ∧ t.Wrote s0 p [] ∧ t.gens = s0.gens ∧
        t.reg 9 (i.frond / 8) 0x110C = BitVec.ofNat 64 (((s0.reg 9 (i.frond / 8) 0x110C).toNat + 1) % 2 ^ 32) ∧
        t.holdsJob s i pass (.update b .skip 0 0 0) ∧ kept t) ∧
      (verdict = .skew → (s0.part p).faultCode = 0 → ∃ t, exec (mk.1 i b) r = .next t ∧ t.Wrote s0 p [] ∧ t.gens = s0.gens ∧
        (t.part p).faultCode = 0x0401 ∧ t.holdsJob s i pass (.update b .skew 0 0 0)))) ∧
  (∀ (f id p step : Nat) (b : UpdateBody) (v : Verdict) (pow1 pow2 : Word) (j : Job) (pl : Plan) (s : State),
    let steps := if writesStep b v then stepCells b step pow1 pow2 (s.devByte p (b.shardAddr + 48)) else []
    let record := cellsAt pl.lossScaleAddr (leBytes 32 (lossAfter (s.devNat p pl.lossScaleAddr 32) (s.devNat p b.healthAddr 32) v))
    s.Canonical → f < 128 → (s.frond f).job id = some j → j.body = .update b v step pow1 pow2 → s.ownerOf f = some p →
    s.Writable p (steps.map (·.1)) →
    (b.closeStep = false → ∃ t, exec (.updateComplete f id) s = .next t ∧ t.Wrote s p steps ∧
      (t.frond f).jobs = (s.frond f).jobs.filter (fun x => x.id != id) ∧ t.frondsKept s f ∧ (∀ q, t.partKept s q) ∧
      { t.butData s with fronds := s.fronds } = s) ∧
    (b.closeStep = true → (s.part p).plan = some pl → s.Readable p (rangeFrom pl.lossScaleAddr 32 ++ rangeFrom b.healthAddr 32) →
      (∀ a ∈ rangeFrom pl.lossScaleAddr 32 ++ rangeFrom b.healthAddr 32, ∀ c ∈ steps,
        s.resolve (some p) a ≠ s.resolve (some p) c.1) → s.Writable p (record.map (·.1)) →
      ∃ t, exec (.updateComplete f id) s = .next t ∧ t.Wrote s p (steps ++ record) ∧
        (t.frond f).jobs = (s.frond f).jobs.filter (fun x => x.id != id) ∧ t.frondsKept s f))

/-- R228, R236 to R248 and R253: a MASK_PRUNE puts the positions it chooses on the build's list of removals and counts them
in ledger 0x6, a MASK_REGROW those it regrows; no tile changes. A MASK_COMMIT writes the next generation of a tile to the
alternate region; a constant tensor's range with unlike counts stops the partition.
The model's own choices in it: log entries 14, 17, 18, 19, 90 and 101. -/
def Obligations.MaskDescriptorsBuildTheNextGeneration : Prop :=
  (∀ (i : Issue) (b : PruneBody) (r : State) (p k : Nat) (pass : Option PassRef) (head : Bool) (m0 : MaskSlot),
    let s := r.presented i
    let s0 := s.issued i p pass head
    let m := m0.building
    let ts := s0.tilesOf p m b.firstTile b.tileCount
    let choice := s0.pruneChoice p m b ts
    let l := s0.ledger (ledgerKey p 6 k)
    s.Issues i (isPrune b) p pass head → b.wf = true → i.seq = .execute → State.tensorWait i.frond b.policy p s = none →
    s.slotOf p b.policy = some (k, m0) →
    s0.TilesRead p m (fun base h => rangeFrom (base + slotMaster m.policy) (4 * thNnz h)) b.firstTile b.tileCount →
    (b.method = 2 → s0.Readable p (rangeFrom b.cutAddr (8192 * b.tileCount))) →
    ∃ t m', exec (.maskPrune i b) r = .next t ∧ t.slot k = some m' ∧
      (∀ x, x ∈ m'.prunes ↔ x ∈ m.prunes ∨ x ∈ choice.1) ∧
      { m' with prunes := m.prunes, prunedTiles := m.prunedTiles } = m ∧ (∀ q, q ≠ k → t.slot q = s.slot q) ∧
      t.ledger (ledgerKey p 6 k) = { l with completed := l.completed - BitVec.ofNat 64 choice.1.length
                                            inFlight := l.inFlight + BitVec.ofNat 64 choice.1.length } ∧
      t.reg 3 (i.frond / 8) 0x1120 = s0.reg 3 (i.frond / 8) 0x1120 + BitVec.ofNat 64 choice.1.length ∧
      t.reg 3 (i.frond / 8) 0x1140 = BitVec.ofNat 64 (((s0.reg 3 (i.frond / 8) 0x1140).toNat + choice.2) % 2 ^ 32) ∧
      (polEditBytes m.policy = 0 → t.Wrote s0 p []) ∧ t.holdsJob s i pass (.prune k) ∧ t.frondsKept s0 i.frond ∧
      { t.butData s0 with slots := s0.slots, fronds := s0.fronds } = s0) ∧
  (∀ (i : Issue) (b : RegrowBody) (r : State) (p k : Nat) (pass : Option PassRef) (head : Bool) (m0 : MaskSlot),
    let s := r.presented i
    let s0 := s.issued i p pass head
    let m := m0.building
    let x := s0.regrowChoice p m b (s0.tilesOf p m b.firstTile b.tileCount)
    let l := s0.ledger (ledgerKey p 6 k)
    s.Issues i (isRegrow b) p pass head → b.wf = true → i.seq = .execute → State.tensorWait i.frond b.policy p s = none →
    s.slotOf p b.policy = some (k, m0) → s0.TilesRead p m (fun _ _ => []) b.firstTile b.tileCount →
    s0.Readable p (rangeFrom b.scoreAddr (65536 * b.tileCount * (if b.scoreB32 then 4 else 2))) →
    ∃ t m', exec (.maskRegrow i b) r = .next t ∧ t.slot k = some m' ∧
      (∀ q, q ∈ m'.regrows ↔ q ∈ m.regrows ∨ q ∈ x.grown) ∧ { m' with regrows := m.regrows } = m ∧
      (∀ q, q ≠ k → t.slot q = s.slot q) ∧
      t.ledger (ledgerKey p 6 k) = { l with completed := l.completed + BitVec.ofNat 64 x.grown.length
                                            inFlight := l.inFlight - BitVec.ofNat 64 x.grown.length } ∧
      t.reg 3 (i.frond / 8) 0x1128 = s0.reg 3 (i.frond / 8) 0x1128 + BitVec.ofNat 64 x.grown.length ∧
      (polEditBytes m.policy = 0 → t.Wrote s0 p []) ∧ t.holdsJob s i pass (.regrow k) ∧ t.frondsKept s0 i.frond ∧
      { t.butData s0 with slots := s0.slots, fronds := s0.fronds } = s0) ∧
  (∀ (i : Issue) (b : CommitBody) (r : State) (p k : Nat) (pass : Option PassRef) (head : Bool) (m0 : MaskSlot),
    let s := r.presented i
    let s0 := s.issued i p pass head
    let m := m0.building
    let ts := s0.tilesOf p m b.firstTile b.tileCount
    let pruned := editsIn b.firstTile b.tileCount m.prunes
    let grown := editsIn b.firstTile b.tileCount m.regrows
    s.Issues i (isCommit b) p pass head → b.wf = true → i.seq = .execute → State.tensorWait i.frond b.policy p s = none →
    s.slotOf p b.policy = some (k, m0) → s0.TilesRead p m (commitMore m) b.firstTile b.tileCount →
    (polConstant m.policy = true → pruned.length ≠ grown.length → (s0.part p).faultCode = 0 →
      ∃ t, exec (.maskCommit i b) r = .next t ∧ (t.part p).faultCode = 0x0303 ∧ t.Wrote s0 p [] ∧ t.slot k = some m ∧
        (t.frond i.frond).jobs = (s.frond i.frond).jobs) ∧
    (polConstant m.policy = false ∨ pruned.length = grown.length →
      s0.Readable p ((if b.freezeOp = 0 then [] else rangeFrom b.freezeSrc (8192 * b.tileCount)) ++
        (if polInitUse m.policy then grown.flatMap fun q => rangeFrom (polInit m.policy + 4 * q) 4 else [])) →
      (∀ x, ts = [x] →
        let es := newEntries m x
        let src := if b.freezeOp = 0 then x.freeze else (rangeFrom b.freezeSrc 8192).map (s0.devByte p)
        let cells := s0.commitCells p m x es (s0.newTile p m b.fillAware x es) (newFreeze b.freezeOp x.freeze src)
        (∀ e ∈ cells, ∃ y, s0.resolve (some p) e.1 = some y ∧ (s0.checkUnit (y / 64)).cause = none) →
        ∃ t, exec (.maskCommit i b) r = .next t ∧
          (∀ y, t.readByte y = (lastAt (cells.filterMap fun e => (s0.resolve (some p) e.1).map fun a => (a, e.2)) y).getD
            (s0.readByte y)) ∧
          t.slot k = some { m with newNnz := m.newNnz + es.length } ∧ (∀ q, q ≠ k → t.slot q = s.slot q) ∧
          t.holdsJob s i pass (.commit k b.firstTile b.tileCount) ∧ t.frondsKept s0 i.frond ∧
          { t.butData s0 with slots := s0.slots, fronds := s0.fronds } = s0) ∧
      ∃ t, exec (.maskCommit i b) r = .next t ∧
        ((t.part p).faultCode ≠ 0 ∨ t.holdsJob s i pass (.commit k b.firstTile b.tileCount))))

/-! ### Semaphores, tickets and collectives -/

/-- R27, R299, R310 to R316, R381, R382 and R533: a SEM_WAIT takes its count at once or waits until its semaphore holds it, after the
signals that arrive in its cycle; a SEM_SIGNAL leaves when nothing earlier holds it, or queues; a signal that arrives, after
those sent before it to the same frond, adds to its semaphore and completes its descriptor, one that would pass the limit stops
its partition, one for another partition's semaphore takes no effect, and one of an old epoch is dropped and counted; a TICK_WAIT
waits for its tick.
The model's own choices in it: log entries 11 and 92. -/
def Obligations.SemaphoresAndTicksHoldSequencers : Prop :=
  (∀ (i : Issue) (b : SemWaitBody) (x : State) (p : Nat) (pass : Option PassRef) (head : Bool) (v lim : Nat),
    let s := (x.arrive i.arriving).presented i
    let s0 := s.issued i p pass head
    let r := semTarget b.target i.streamId i.frond b.plainSem
    s.Issues i (isSemWait b) p pass head → b.wf = true → s0.semaphore r = some (v, lim) →
    (b.count ≤ v → ∃ t, exec (.semWait i b) x = .next t ∧ t.semaphore r = some (v - b.count, lim) ∧
      t.ledger (ledgerKey p (semLedger r) (semObject r)) = (s0.ledger (ledgerKey p (semLedger r) (semObject r))).take b.count ∧
      { t with fronds := s0.fronds, streams := s0.streams, ledgers := s0.ledgers } = s0) ∧
    (v < b.count → ∃ t, exec (.semWait i b) x = .next t ∧ t.semaphore r = some (v, lim) ∧
      ((t.frond i.frond).sq i.seq).wait = some (.sem r b.count ((s0.frond i.frond).sq i.seq).ended i.addr) ∧
      ((t.frond i.frond).sq i.seq).ended = false ∧ { t with fronds := s0.fronds } = s0)) ∧
  (∀ (f : Nat) (q : SeqSel) (n p : Nat) (ns : List Nat) (r : SemRef) (k a v lim : Nat) (fe : Bool) (x : State),
    let s := x.arrive ns
    s.Canonical → (∀ g, (s.frond g).Canonical) → f < 128 → s.workOf f = some p →
    ((s.frond f).sq q).wait = some (.sem r k fe a) → s.semaphore r = some (v, lim) →
    (k ≤ v → ∃ t, exec (.semWaitComplete f q ⟨n, ns⟩) x = .next t ∧ t.semaphore r = some (v - k, lim) ∧
      ((t.frond f).sq q).wait = none ∧ ((t.frond f).sq q).ended = (((s.frond f).sq q).ended || fe) ∧
      t.reg 1 f 0x1188 = BitVec.ofNat 64 (((s.reg 1 f 0x1188).toNat + n) % 2 ^ 32) ∧
      { t with fronds := s.fronds, streams := s.streams, ledgers := s.ledgers, regs := s.regs } = s) ∧
    (v < k → exec (.semWaitComplete f q ⟨n, ns⟩) x = .next s)) ∧
  (∀ (i : Issue) (b : SemSignalBody) (r : State) (p : Nat) (pass : Option PassRef) (head : Bool),
    let s := r.presented i
    let s0 := s.issued i p pass head
    let id := (s.frond i.frond).nextId
    let h : HeldSignal := { jobId := id, target := semTarget b.target i.streamId b.destFrond b.plainSem, count := b.count
                            streamId := i.streamId, holdAll := b.holdAll || b.target == 2 }
    let queue := ((s0.frond i.frond).sq i.seq).sigq
    s.Issues i (isSemSignal b) p pass head → b.wf = true → ((s.frond i.frond).sq i.seq).sigq.length < 8 →
    (queue = [] → (s0.frond i.frond).mayLeave i.seq h = true →
      ∃ t, exec (.semSignal i b) r = .next t ∧
        t.hyphae.signals = s0.hyphae.signals ++ [{ id := s0.hyphae.nextSignal, frond := i.frond, seq := i.seq, jobId := id
                                                   target := h.target, count := b.count, partition := p
                                                   epoch := (s0.part p).epoch }] ∧
        t.hyphae.nextSignal = s0.hyphae.nextSignal + 1 ∧ t.semaphore h.target = s0.semaphore h.target ∧
        (∀ n y, h.target = .filled n → s0.stream n = some y →
          t.stream n = some { y with prodPos := y.prodPos + BitVec.ofNat 32 b.count, claimed := y.claimed - b.count }) ∧
        (∀ n y, h.target = .freed n → s0.stream n = some y →
          t.stream n = some { y with consPos := y.consPos + BitVec.ofNat 32 b.count }) ∧
        t.ledger (ledgerKey p (semLedger h.target) (semObject h.target)) =
          (s0.ledger (ledgerKey p (semLedger h.target) (semObject h.target))).make b.count ∧
        t.holdsJob s i pass .signal ∧ t.frondsKept s0 i.frond ∧
        { t with fronds := s0.fronds, streams := s0.streams, ledgers := s0.ledgers, hyphae := s0.hyphae } = s0) ∧
    (queue ≠ [] ∨ (s0.frond i.frond).mayLeave i.seq h = false →
      ∃ t, exec (.semSignal i b) r = .next t ∧ ((t.frond i.frond).sq i.seq).sigq = queue ++ [h] ∧
        t.holdsJob s i pass .signal ∧ { t with fronds := s0.fronds } = s0)) ∧
  (∀ (f : Nat) (q : SeqSel) (p : Nat) (h : HeldSignal) (rest : List HeldSignal) (s : State), s.Canonical → f < 128 →
    s.workOf f = some p → ((s.frond f).sq q).sigq = h :: rest →
    ((s.frond f).mayLeave q h = true → ∃ t, exec (.signalQueueLeave f q) s = .next t ∧ ((t.frond f).sq q).sigq = rest ∧
      t.hyphae.signals = s.hyphae.signals ++ [{ id := s.hyphae.nextSignal, frond := f, seq := q, jobId := h.jobId
                                                target := h.target, count := h.count, partition := p, epoch := (s.part p).epoch }] ∧
      t.hyphae.nextSignal = s.hyphae.nextSignal + 1 ∧
      { t with fronds := s.fronds, streams := s.streams, ledgers := s.ledgers, hyphae := s.hyphae } = s) ∧
    ((s.frond f).mayLeave q h = false → exec (.signalQueueLeave f q) s = .next s)) ∧
  (∀ (n : Nat) (g : Signal) (s : State),
    let gone : Hyphae := { s.hyphae with signals := s.hyphae.signals.filter fun e => e.id != n }
    s.Canonical → (∀ f, (s.frond f).Canonical) → s.hyphae.signals.find? (fun g => g.id == n) = some g →
    ((∃ e ∈ s.hyphae.signals, e.id < n ∧ e.frond = g.frond ∧ s.semFrond e.target = s.semFrond g.target) →
      exec (.semaphoreSignalApply n) s = .next s) ∧
    ((∀ e ∈ s.hyphae.signals, e.id < n → e.frond = g.frond → s.semFrond e.target ≠ s.semFrond g.target) →
      (∀ v lim, g.epoch = (s.part g.partition).epoch → s.semPartition g.target = some g.partition →
        s.semaphore g.target = some (v, lim) → lim < 2 ^ 16 →
        (v + g.count ≤ lim → ∃ t, exec (.semaphoreSignalApply n) s = .next t ∧ t.semaphore g.target = some (v + g.count, lim) ∧
          (t.frond g.frond).jobs = (s.frond g.frond).jobs.filter (fun j => j.id != g.jobId) ∧ t.hyphae = gone ∧
          { t with fronds := s.fronds, streams := s.streams, hyphae := s.hyphae } = s) ∧
        (lim < v + g.count → (s.part g.partition).faultCode = 0 → ∃ t, exec (.semaphoreSignalApply n) s = .next t ∧
          (t.part g.partition).faultCode = 0x0202 ∧ t.semaphore g.target = some (v, lim) ∧ t.hyphae = gone ∧
          (t.frond g.frond).jobs = (s.frond g.frond).jobs)) ∧
      (g.epoch = (s.part g.partition).epoch → s.semPartition g.target ≠ some g.partition →
        ∃ t, exec (.semaphoreSignalApply n) s = .next t ∧ t.hyphae = gone ∧
          { t with hyphae := s.hyphae, ledgers := s.ledgers } = s) ∧
      (g.epoch ≠ (s.part g.partition).epoch → ∃ t, exec (.semaphoreSignalApply n) s = .next t ∧
        t.reg 8 g.partition 0x1174 = BitVec.ofNat 64 (((s.reg 8 g.partition 0x1174).toNat + 1) % 2 ^ 32) ∧ t.hyphae = gone ∧
        { t with hyphae := s.hyphae, parts := s.parts, regs := s.regs } = s))) ∧
  (∀ (i : Issue) (tick : Nat) (r : State) (p : Nat) (pass : Option PassRef) (head : Bool),
    let s := r.presented i
    let s0 := s.issued i p pass head
    s.Issues i (isTickWait tick) p pass head → 1 ≤ tick → tick ≤ 255 →
    (tick ≤ (s.part p).frameTick → ∃ t, exec (.tickWait i tick) r = .next t ∧
      t.reg 8 p 0x1138 = BitVec.ofNat 64 (((s0.reg 8 p 0x1138).toNat + 1) % 2 ^ 32) ∧
      { t with regs := s0.regs, sporeOut := s0.sporeOut, freeCtr := s0.freeCtr } = s0) ∧
    ((s.part p).frameTick < tick → ∃ t, exec (.tickWait i tick) r = .next t ∧
      ((t.frond i.frond).sq i.seq).wait = some (.tick tick ((s0.frond i.frond).sq i.seq).ended i.addr) ∧
      ((t.frond i.frond).sq i.seq).ended = false ∧ { t with fronds := s0.fronds } = s0)) ∧
  (∀ (f : Nat) (q : SeqSel) (p n a : Nat) (fe : Bool) (s : State), s.Canonical → f < 128 → s.workOf f = some p →
    ((s.frond f).sq q).wait = some (.tick n fe a) →
    (n ≤ (s.part p).frameTick → ∃ t, exec (.tickWaitComplete f q) s = .next t ∧ ((t.frond f).sq q).wait = none ∧
      ((t.frond f).sq q).ended = (((s.frond f).sq q).ended || fe) ∧ { t with fronds := s.fronds } = s) ∧
    ((s.part p).frameTick < n → exec (.tickWaitComplete f q) s = .next s))

/-- R27, R60 and R323 to R328: a TICKET claims; a claim takes the record's next ticket, or the one it was given before, or none when
the tickets are gone; the reply begins a pass or leaves the loop, unless it is another partition's or of an old epoch; an
unanswered claim is sent again; and a finished pass sets its bit of the record's log once. Requests of other atomic units in the
same cycle change nothing of it.
The model's own choices in it: log entries 25 and 91. -/
def Obligations.TicketsAreClaimedAndLogged : Prop :=
  (∀ (i : Issue) (b : TicketBody) (r : State) (p : Nat) (pass : Option PassRef) (head : Bool),
    let s := r.presented i
    let s0 := s.issued i p pass head
    let x := s0.frond i.frond
    s.Issues i (isTicket b) p pass head → b.wf = true → i.seq = .fetch → (s.frond i.frond).loop = none →
    ∃ t, exec (.ticket i b) r = .next t ∧
      (t.frond i.frond).loop = some { jobId := (s.frond i.frond).nextId, counterAddr := b.counterAddr, stream := i.streamId
                                      bodyCount := b.bodyCount, current := none, issued := 0
                                      outstanding := some (requestId i.frond x.claimNo) } ∧
      (t.frond i.frond).claimNo = x.claimNo + 1 ∧ (t.frond i.frond).fetch.wait = some .ticket ∧
      t.hyphae = { s0.hyphae with claims := s0.hyphae.claims ++ [{ frond := i.frond, requestId := requestId i.frond x.claimNo
                                                                   addr := b.counterAddr, stream := i.streamId, partition := p
                                                                   epoch := (s0.part p).epoch }] } ∧
      t.reg 1 i.frond 0x118C = BitVec.ofNat 64 (((s0.reg 1 i.frond 0x118C).toNat + 1) % 2 ^ 32) ∧
      t.holdsJob s i pass .ticket ∧ { t with fronds := s0.fronds, regs := s0.regs, hyphae := s0.hyphae } = s0) ∧
  (∀ (f : Nat) (same : List AtomicReq) (c : Claim) (s : State),
    let p := c.partition
    let e := s.devNat p (c.addr + 64 + 8 * f) 8
    let h := s.devNat p c.addr 8
    let reply := fun (n : Option Nat) =>
      s.hyphae.replies ++ [{ frond := f, requestId := c.requestId, ticket := n, partition := p, epoch := c.epoch }]
    s.Canonical → f < 128 → s.hyphae.claims.find? (fun c => c.frond == f) = some c →
    (∀ a ∈ same, a = ⟨false, f⟩ ∨ s.atomicGroup a ≠ s.atomicGroup ⟨false, f⟩) →
    (c.epoch ≠ (s.part p).epoch → ∃ t, exec (.ticketClaim ⟨f, same⟩) s = .next t ∧ t.hyphae.replies = s.hyphae.replies ∧
      t.hyphae.claims = dropFirst (fun c => c.frond == f) s.hyphae.claims ∧
      t.reg 8 p 0x1174 = BitVec.ofNat 64 (((s.reg 8 p 0x1174).toNat + 1) % 2 ^ 32) ∧ t.mem = s.mem) ∧
    (c.epoch = (s.part p).epoch → s.Readable p (rangeFrom (c.addr + 64 + 8 * f) 8 ++ rangeFrom c.addr 8) →
      s.Writable p (rangeFrom (c.addr + 64 + 8 * f) 8 ++ rangeFrom c.addr 4) →
      (e % 2 ^ 32 = c.requestId → ∃ t, exec (.ticketClaim ⟨f, same⟩) s = .next t ∧ t.hyphae.replies = reply (some (e / 2 ^ 32)) ∧
        t.Wrote s p []) ∧
      (e % 2 ^ 32 ≠ c.requestId → h % 2 ^ 32 < h / 2 ^ 32 → ∃ t, exec (.ticketClaim ⟨f, same⟩) s = .next t ∧
        t.hyphae.replies = reply (some (h % 2 ^ 32)) ∧
        t.Wrote s p (cellsAt (c.addr + 64 + 8 * f) (leBytes 8 (c.requestId + h % 2 ^ 32 * 2 ^ 32)) ++ cellsAt c.addr (leBytes 4 (h % 2 ^ 32 + 1))) ∧
        t.ledger (ledgerKey p 4 c.stream) = (s.ledger (ledgerKey p 4 c.stream)).make 1) ∧
      (e % 2 ^ 32 ≠ c.requestId → h / 2 ^ 32 ≤ h % 2 ^ 32 → ∃ t, exec (.ticketClaim ⟨f, same⟩) s = .next t ∧
        t.hyphae.replies = reply none ∧ t.Wrote s p [] ∧ t.ledger (ledgerKey p 4 c.stream) = s.ledger (ledgerKey p 4 c.stream)))) ∧
  (∀ (f p : Nat) (r : ClaimReply) (l : TicketLoop) (s : State),
    let s1 : State := { s with hyphae := { s.hyphae with replies := dropFirst (fun r => r.frond == f) s.hyphae.replies } }
    s.Canonical → f < 128 → s.hyphae.replies.find? (fun r => r.frond == f) = some r →
    (r.epoch ≠ (s.part r.partition).epoch → ∃ t, exec (.ticketReply f) s = .next t ∧ t.hyphae = s1.hyphae ∧ t.fronds = s.fronds ∧
      t.reg 8 r.partition 0x1174 = BitVec.ofNat 64 (((s.reg 8 r.partition 0x1174).toNat + 1) % 2 ^ 32)) ∧
    (r.epoch = (s.part r.partition).epoch → s.workOf f ≠ some r.partition → exec (.ticketReply f) s = .next s1) ∧
    (r.epoch = (s.part r.partition).epoch → s.workOf f = some p → r.partition = p → (s.frond f).loop = some l →
      l.outstanding = some r.requestId →
      (∀ n, r.ticket = some n → ∃ t, exec (.ticketReply f) s = .next t ∧
        (t.frond f).loop = some { l with current := some n, issued := 0, outstanding := none } ∧ (t.frond f).fetch.wait = none ∧
        (l.stream, n) ∈ (t.frond f).arrayPos ∧ (∀ e ∈ (t.frond f).arrayPos, e.1 = l.stream → e.2 = n) ∧
        (t.frond f).prog = ((s1.seekLoop f p l 1).frond f).prog ∧
        { t with fronds := s.fronds } = { s1.seekLoop f p l 1 with fronds := s.fronds }) ∧
      (r.ticket = none → ∃ t, exec (.ticketReply f) s = .next t ∧ (t.frond f).loop = none ∧ (t.frond f).fetch.wait = none ∧
        ((∀ a ∈ (s.frond f).passes, a.jobId ≠ l.jobId) → (t.frond f).jobs = (s.frond f).jobs.filter (fun j => j.id != l.jobId)) ∧
        (t.frond f).prog = ((s1.seekLoop f p l (l.bodyCount + 1)).frond f).prog ∧
        { t with fronds := s.fronds } = { s1.seekLoop f p l (l.bodyCount + 1) with fronds := s.fronds }))) ∧
  (∀ (f p n : Nat) (l : TicketLoop) (s : State), f < 128 → s.workOf f = some p → (s.frond f).loop = some l → l.outstanding = some n →
    exec (.ticketClaimRetry f) s = .next { s with hyphae := { s.hyphae with claims := s.hyphae.claims ++
      [{ frond := f, requestId := n, addr := l.counterAddr, stream := l.stream, partition := p, epoch := (s.part p).epoch }] } }) ∧
  (∀ (f p : Nat) (same : List AtomicReq) (a : Pass) (s : State),
    let logAt := a.counterAddr + 1088 + a.ticket / 8
    let old := s.devNat p logAt 1
    s.Canonical → f < 128 → s.workOf f = some p → (s.frond f).passes.find? (s.frond f).passDone = some a →
    (∀ a ∈ same, a = ⟨true, f⟩ ∨ s.atomicGroup a ≠ s.atomicGroup ⟨true, f⟩) →
    s.Readable p (rangeFrom a.counterAddr 4 ++ rangeFrom logAt 1) → s.Writable p [logAt] →
    (a.ticket < s.devNat p a.counterAddr 4 → bitAt old (a.ticket % 8) = false → ∃ t, exec (.ticketCompletion ⟨f, same⟩) s = .next t ∧
      t.Wrote s p (cellsAt logAt (leBytes 1 (old + 2 ^ (a.ticket % 8)))) ∧
      t.ledger (ledgerKey p 4 a.stream) = (s.ledger (ledgerKey p 4 a.stream)).take 1 ∧
      (t.frond f).passes = dropFirst (· == a) (s.frond f).passes) ∧
    (a.ticket < s.devNat p a.counterAddr 4 → bitAt old (a.ticket % 8) = true → ∃ t, exec (.ticketCompletion ⟨f, same⟩) s = .next t ∧
      t.Wrote s p [] ∧ t.ledger (ledgerKey p 4 a.stream) = s.ledger (ledgerKey p 4 a.stream) ∧
      t.sporeOut.length = s.sporeOut.length + 1 ∧ (t.frond f).passes = dropFirst (· == a) (s.frond f).passes) ∧
    (s.devNat p a.counterAddr 4 ≤ a.ticket → ∃ t, exec (.ticketCompletion ⟨f, same⟩) s = .next t ∧ (t.part p).faultCode = 0x0103))

/-- R62 and R501 to R503: a REDUCE_SEND waits for its peer's ANNOUNCE and its CLEAR, then sends its bytes and its health word, at most
1,024 bytes a packet, which count in ledger 0x5 of its port; a CLEAR of another length stops its partition; a REDUCE_RECV sends
its CLEAR once its peer is announced.
The model's own choices in it: log entries 11, 90 and 107. -/
def Obligations.CollectivesStartWithTheirPeers : Prop :=
  (∀ (i : Issue) (b : SendBody) (r : State) (p : Nat) (pass : Option PassRef) (head : Bool),
    let s := r.presented i
    let s0 := s.issued i p pass head
    let own := fun (c : Nat × Nat × Nat × Nat × Nat) => c.1 = p ∧ c.2.1 = b.dstChip ∧ c.2.2.1 = b.dstPartition ∧ c.2.2.2.1 = b.channel
    let bytes := b.length + if b.withHealth then 64 else 0
    s.Issues i (isSend b) p pass head → s0.workOf i.frond = some p → s.NoCollectiveWaits p →
    (∀ j ∈ (s.frond i.frond).jobs, j.id < (s.frond i.frond).nextId) → b.wf = true → i.seq = .execute →
    (s.peerEpoch p b.dstChip b.dstPartition = none ∨ (∀ c ∈ s.clears, ¬ own c) →
      ∃ t, exec (.reduceSend i b) r = .next t ∧ t.holdsJob s i pass (.send b false 0 s.tickNow) ∧ { t with fronds := s0.fronds } = s0) ∧
    (∀ e n rest, s.peerEpoch p b.dstChip b.dstPartition = some e → s.clears = (p, b.dstChip, b.dstPartition, b.channel, n) :: rest →
      (64 * n = b.length → s0.BufSound i.frond (sendReads b) → ∃ t, exec (.reduceSend i b) r = .next t ∧ t.clears = rest ∧
        t.holdsJob s i pass (.send b true 0 s.tickNow) ∧
        (∀ x, s.ownId ≠ 0xFFFF → s.portTo b.dstChip = some x →
          (t.port x).replay.length + (t.port x).waiting.length = (s.port x).replay.length + (s.port x).waiting.length + sendPackets b) ∧
        (∀ x, s.ownId ≠ 0xFFFF → s.portTo b.dstChip = some x → (s.port x).waiting = [] →
          (s.port x).replay.length + sendPackets b ≤ replayFrames → (t.port x).waiting = [] ∧
          t.reg 7 x 0x1118 = s0.reg 7 x 0x1118 + BitVec.ofNat 64 bytes ∧
          t.ledger (ledgerKey p 5 (7 * 256 + x)) = (s0.ledger (ledgerKey p 5 (7 * 256 + x))).make bytes) ∧
        { t with fronds := s0.fronds, clears := s0.clears, ports := s0.ports, regs := s0.regs, ledgers := s0.ledgers
                 freeCtr := s0.freeCtr } = s0) ∧
      (64 * n ≠ b.length → ∃ t, exec (.reduceSend i b) r = .next t ∧ (t.part p).faultCode = 0x0202))) ∧
  (∀ (i : Issue) (b : RecvBody) (r : State) (p : Nat) (pass : Option PassRef) (head : Bool),
    let s := r.presented i
    let s0 := s.issued i p pass head
    s.Issues i (isRecv b) p pass head → s0.workOf i.frond = some p → s.NoCollectiveWaits p →
    (∀ j ∈ (s.frond i.frond).jobs, j.id < (s.frond i.frond).nextId) → b.wf = true → i.seq = .execute →
    (s.peerEpoch p b.srcChip b.srcPartition = none →
      ∃ t, exec (.reduceRecv i b) r = .next t ∧ t.holdsJob s i pass (.recv b false [] false s.tickNow) ∧
        { t with fronds := s0.fronds } = s0) ∧
    (∀ e, s.peerEpoch p b.srcChip b.srcPartition = some e → ∃ t, exec (.reduceRecv i b) r = .next t ∧
      t.holdsJob s i pass (.recv b true [] false s.tickNow) ∧
      (∀ x, s.ownId ≠ 0xFFFF → s.portTo b.srcChip = some x → ∃ pk : Packet,
        ((t.port x).replay.map (·.packet)) ++ ((t.port x).waiting.map (·.1)) =
          ((s.port x).replay.map (·.packet)) ++ ((s.port x).waiting.map (·.1)) ++ [pk] ∧ pk.kind = 2 ∧ pk.dstChip = b.srcChip ∧
        pk.dstPartition = b.srcPartition ∧ pk.dstEpoch = e ∧ pk.channel = b.channel ∧ pk.offset = b.length / 64 ∧ pk.payload = []) ∧
      { t with fronds := s0.fronds, ports := s0.ports, regs := s0.regs, freeCtr := s0.freeCtr } = s0))

/-! ### The vector engine -/

/-- R78 to R80, R91, R165, R169 and R170: floating arithmetic rounds each active lane's exact result once, under its rounding code, and its
flags stick.
The model's own choices in it: log entries 5, 7, 16 and 48. -/
def Obligations.VectorFloatsRoundOnce : Prop :=
  ∀ (f p : Nat) (v : VFields) (fm : Fmt) (r : State),
    let s := r.vecAt f v
    typeFmt v.t = some fm → v.rm ≤ 5 →
    ∀ row ∈ [(Instr.fma, 0x01, 1, 2, fun r a b c => fFma v.t fm r a b c), (.add, 0x02, 1, 3, fun r a b _ => fAdd v.t fm r a b),
        (.sub, 0x03, 1, 3, fun r a b _ => fSub v.t fm r a b), (.mul, 0x04, 1, 2, fun r a b _ => fMul v.t fm r a b),
        (.div, 0x05, 8, 1, fun r a b _ => fDiv v.t fm r a b), (.sqrt, 0x06, 8, 1, fun r a _ _ => fSqrt v.t fm r a),
        (.exp2, 0x0B, 16, 0, fun r a _ _ => fExp2 fm r a), (.log2, 0x0C, 16, 0, fun r a _ _ => fLog2 fm r a)],
      v.t ≤ row.2.2.2.1 → s.RunsKernel f p row.2.1 v → ∃ t, exec (row.1 f v) r = .next t ∧
        LaneStep s t f v row.2.2.1 (rmDraws (s.frond f).vec.numctl v.rm) fun l =>
          let o := row.2.2.2.2 (s.laneRound f v l) (s.lane f l v.a) (s.lane f l v.b) (s.lane f l v.c)
          { code := regForm v.t o.code, flags := o.flags }

/-- R91, R165 and R166: integer arithmetic keeps the low bits of the exact result under wrap and clamps it otherwise; the
bitwise operations and the shifts, whose counts are taken modulo the width, work on the low bits of the lane; no flag is
raised.
The model's own choices in it: log entry 16. -/
def Obligations.VectorIntegersWrapOrSaturate : Prop :=
  ∀ (f p w : Nat) (v : VFields) (r : State),
    let s := r.vecAt f v
    typeInt v.t = some w →
    (v.rm ≤ 2 → ∀ row ∈ [(Instr.add, 0x02, fun (a b : Int) => a + b), (.sub, 0x03, fun a b => a - b), (.mul, 0x04, fun a b => a * b),
        (.abs, 0x09, fun a _ => (a.natAbs : Int)), (.neg, 0x0A, fun a _ => -a)], s.RunsKernel f p row.2.1 v →
      ∃ t, exec (row.1 f v) r = .next t ∧ LaneStep s t f v 1 false fun l =>
        { code := regForm v.t (narrowInt w (if v.rm = 0 then ncWrap (s.frond f).vec.numctl else v.rm == 2)
            (row.2.2 (signed w (s.lane f l v.a)) (signed w (s.lane f l v.b)))), flags := 0 }) ∧
    (∀ row ∈ [(Instr.and, 0x10, fun (a b : Nat) => a &&& b), (.or, 0x11, fun a b => a ||| b), (.xor, 0x12, fun a b => a ^^^ b),
        (.shl, 0x13, fun a b => a * 2 ^ (b % w) % 2 ^ w), (.shr, 0x14, fun a b => a / 2 ^ (b % w)),
        (.shra, 0x15, fun a b => unsignedOf w (signed w a / 2 ^ (b % w)))], s.RunsKernel f p row.2.1 v →
      ∃ t, exec (row.1 f v) r = .next t ∧ LaneStep s t f v 1 false fun l =>
        { code := regForm v.t (row.2.2 (s.lane f l v.a % 2 ^ w) (s.lane f l v.b % 2 ^ w)), flags := 0 })

/-- R80, R91, R160 and R165: the moves, selections and conversions of the vector opcode table: the smaller and the larger value, the sign taken off
or turned, a choice by a predicate in every lane, an immediate, a scalar, the lane's number, another lane's register, the
lane's flags, and a value of another type.
The model's own choices in it: log entries 7 and 16. -/
def Obligations.VectorMovesSelectAndConvert : Prop :=
  ∀ (f p : Nat) (v : VFields) (r : State),
    let s := r.vecAt f v
    (v.t ≤ 6 → ∀ row ∈ [(Instr.min, 0x07, fun l => minMaxOf v.t false (s.lane f l v.a) (s.lane f l v.b)),
        (.max, 0x08, fun l => minMaxOf v.t true (s.lane f l v.a) (s.lane f l v.b)), (.movi, 0x19, fun _ => ⟨unsignedOf 64 v.imm, 0⟩),
        (.movs, 0x1A, fun _ => ⟨((s.frond f).vec.sreg v.a).toNat, 0⟩),
        (.xlane, 0x1D, fun l => ⟨s.lane f (l ^^^ immLow v 7) v.a, 0⟩)], s.RunsKernel f p row.2.1 v →
      ∃ t, exec (row.1 f v) r = .next t ∧
        LaneStep s t f v 1 false fun l => { code := regForm v.t (row.2.2 l).code, flags := (row.2.2 l).flags }) ∧
    (v.t ≤ 3 → v.rm ≤ 5 → ∀ row ∈ [(Instr.abs, 0x09, false), (.neg, 0x0A, true)], s.RunsKernel f p row.2.1 v →
      ∃ t, exec (row.1 f v) r = .next t ∧
        LaneStep s t f v 1 false fun l => { code := regForm v.t (signOf v.t (s.lane f l v.a) row.2.2), flags := 0 }) ∧
    (v.t ≤ 6 → s.RunsKernel f p 0x18 v → ∃ t, exec (.sel f v) r = .next t ∧
      LaneStep s t f { v with p := 0, pn := false } 1 false fun l =>
        { code := regForm v.t (if (s.frond f).vec.pred l v.c then s.lane f l v.a else s.lane f l v.b), flags := 0 }) ∧
    (v.t = 4 → s.RunsKernel f p 0x1B v → ∃ t, exec (.lane f v) r = .next t ∧
      LaneStep s t f v 1 false fun l => { code := l % 2 ^ 32, flags := 0 }) ∧
    (s.RunsKernel f p 0x34 v → ∃ t, exec (.rdflg f v) r = .next t ∧ LaneStep s t f v 1 false fun l =>
      { code := ((s.frond f).vec.flag l).toNat, flags := 0 }) ∧
    (v.t ≤ 6 → immLow v 3 ≤ 6 → v.rm ≤ (if isInt v.t && isInt (immLow v 3) then 2 else 5) → s.RunsKernel f p 0x0D v →
      ∃ t, exec (.cvt f v) r = .next t ∧
        LaneStep s t f v 1 (!widens (immLow v 3) v.t && rmDraws (s.frond f).vec.numctl v.rm) fun l =>
          let o := convert (immLow v 3) v.t (s.lane f l v.a)
            (if widens (immLow v 3) v.t then .nearest else s.laneRound f v l)
            (if isInt (immLow v 3) then vecWrap (s.frond f).vec.numctl v.rm else ncWrap (s.frond f).vec.numctl)
          { code := regForm v.t o.code, flags := o.flags })

/-- R160, R165, R168 to R170: comparisons and classes write predicates (p0 stays true); ANYP reads one into a scalar; CLRFLG clears
the flags of the active lanes; RNG takes each active lane's generator one step; a reduction combines the lanes in seven
levels, and an integer sum that wraps is the sum of the active lanes.
The model's own choices in it: log entries 7 and 16. -/
def Obligations.PredicatesAndReductionsCombineLanes : Prop :=
  ∀ (f p : Nat) (v : VFields) (r : State),
    let s := r.vecAt f v
    let x := (s.frond f).vec
    let sets := fun (c : Nat → VFields → Instr) (op : Nat) (o : Nat → Bool × BitVec 5) => s.RunsKernel f p op v →
      ∃ t, exec (c f v) r = .next t ∧ VecStep s t f 1 (s.nextPc f) ∧ t.gens = s.gens ∧
      (∀ l, l < 128 → x.active v l = true → (v.d % 8 ≠ 0 → (t.frond f).vec.pred l v.d = (o l).1) ∧
        (t.frond f).vec.flag l = x.flag l ||| (o l).2) ∧
      (∀ l, l < 128 → x.active v l = false → (t.frond f).vec.pred l v.d = x.pred l v.d ∧ (t.frond f).vec.flag l = x.flag l) ∧
      (∀ l n, l < 128 → n % 8 ≠ v.d % 8 ∨ v.d % 8 = 0 → (t.frond f).vec.pred l n = x.pred l n) ∧
      { (t.frond f).vec with preds := x.preds, flags := x.flags, pc := x.pc } = x
    (v.t ≤ 3 → immLow v 3 ≤ 6 → sets .cmp 0x0E fun l => fCmp v.t (immLow v 3) (s.lane f l v.a) (s.lane f l v.b)) ∧
    (∀ w, typeInt v.t = some w → immLow v 3 ≤ 6 → sets .cmp 0x0E fun l =>
      (intCmp (immLow v 3) (signed w (s.lane f l v.a)) (signed w (s.lane f l v.b)), 0)) ∧
    (v.t ≤ 3 → sets .classify 0x0F fun l => (fClass v.t (s.lane f l v.a) &&& immLow v 6 != 0, 0)) ∧
    (s.RunsKernel f p 0x33 v → ∃ t, exec (.anyp f v) r = .next t ∧
      ScalarStep s t f v.d 1 (if (List.range 128).any (fun l => x.pred l v.a) then 1 else 0)) ∧
    (s.RunsKernel f p 0x35 v → ∃ t, exec (.clrflg f v) r = .next t ∧ VecStep s t f 1 (s.nextPc f) ∧ t.gens = s.gens ∧
      (∀ l, l < 128 → (t.frond f).vec.flag l = if x.active v l then 0 else x.flag l) ∧
      { (t.frond f).vec with flags := x.flags, pc := x.pc } = x) ∧
    (s.RunsKernel f p 0x1C v → ∃ t, exec (.rng f v) r = .next t ∧ LaneStep s t f v 1 true fun l =>
      { code := (genStep (s.gen (f * 128 + l))).toNat, flags := 0 }) ∧
    (v.t ≤ 6 → v.rm ≤ (if isInt v.t then 2 else 5) → s.RunsKernel f p 0x1E v →
      let tree := redTree f v (redOp v.t (immLow v 2) (vecWrap x.numctl v.rm)) (immLow v 2 == 0 && isFloat v.t) 7
        { out := (List.range 128).map fun l => if x.active v l then (some l, x.vreg l v.a) else (none, redIdentity v.t (immLow v 2))
          gens := s.gens, vec := { x with pc := s.nextPc f } }
      ∃ t, exec (.red f v) r = .next t ∧ VecStep s t f 8 (s.nextPc f) ∧
      (v.d % 16 ≠ 0 → (t.frond f).vec.sreg v.d = BitVec.ofNat 64 (regForm v.t (tree.out.getD 0 (none, 0)).2)) ∧
      t.gens = tree.gens ∧ (t.frond f).vec.flags = tree.vec.flags ∧
      (∀ l, l < 128 → x.active v l = false → (t.frond f).vec.flag l = x.flag l ∧ t.gen (f * 128 + l) = s.gen (f * 128 + l)) ∧
      (∀ n, n % 16 ≠ v.d % 16 ∨ v.d % 16 = 0 → (t.frond f).vec.sreg n = x.sreg n) ∧
      { (t.frond f).vec with sregs := x.sregs, flags := x.flags, pc := x.pc } = x ∧
      (∀ w, typeInt v.t = some w → immLow v 2 = 0 → vecWrap x.numctl v.rm = true → v.d % 16 ≠ 0 →
        (t.frond f).vec.sreg v.d = BitVec.ofNat 64 (regForm v.t
          ((((List.range 128).filter (x.active v)).map fun l => x.vreg l v.a % 2 ^ w).sum % 2 ^ w))))

/-- R162, R166 and R167: a load brings each active lane's element from its address in the buffer, a store writes each active
lane's in lane order, and the scalar forms move 64 bits; an address outside the buffer or off its alignment stops the partition
and nothing is loaded or stored.
The model's own choices in it: log entries 6, 16 and 98. -/
def Obligations.VectorMemoryMovesElements : Prop :=
  ∀ (f p : Nat) (v : VFields) (r : State),
    let s := r.vecAt f v
    let x := (s.frond f).vec
    let n := typeBytes v.t
    let strided := fun (l : Nat) => vecAddr (x.sreg v.a) (v.imm + l * (if v.b = 0 then (n : Int) else ((x.sreg v.b).toNat : Int)))
    let indexed := fun (l : Nat) => vecAddr (x.sreg v.a) (signed 32 (x.vreg l v.b) * n)
    let lanes := (List.range 128).filter (x.active v)
    let scalarAt := vecAddr (x.sreg v.a) v.imm
    let good := fun (size : Nat) (at_ : Nat → Nat) => (∀ l ∈ lanes, at_ l % size = 0 ∧ at_ l + size ≤ frondBytes) ∧
      s.BufSound f (lanes.flatMap fun l => rangeFrom (at_ l) size)
    let stored := fun (t : State) (cycles : Nat) (cells : List (Nat × Byte)) => t.WroteBuf s f cells ∧
      (∀ g a, g ≠ f → a < frondBytes → t.bufByte g a = s.bufByte g a) ∧
      VecStep s { t with fbuf := s.fbuf, fbufBad := s.fbufBad, frondFlips := s.frondFlips } f cycles (s.nextPc f) ∧ t.gens = s.gens ∧
      { (t.frond f).vec with pc := x.pc } = x
    (v.t ≤ 6 → ∀ row ∈ [(Instr.ld, 0x20, ldCycles v, strided), (.ldx, 0x22, 8, indexed)], s.RunsKernel f p row.2.1 v →
      good n row.2.2.2 → ∃ t, exec (row.1 f v) r = .next t ∧
        LaneStep s t f v row.2.2.1 false fun l => { code := regForm v.t (s.bufNat f (row.2.2.2 l) n), flags := 0 }) ∧
    (v.t ≤ 6 → ∀ row ∈ [(Instr.st, 0x21, ldCycles v, strided), (.stx, 0x23, 8, indexed)], s.RunsKernel f p row.2.1 v →
      good n row.2.2.2 → ∃ t, exec (row.1 f v) r = .next t ∧
        stored t row.2.2.1 (lanes.flatMap fun l => cellsAt (row.2.2.2 l) (leBytes n (storeForm v.t (x.vreg l v.c))))) ∧
    (v.t ≤ 6 → ∀ row ∈ [(Instr.ld, 0x20, strided), (.st, 0x21, strided), (.ldx, 0x22, indexed), (.stx, 0x23, indexed)],
      s.RunsKernel f p row.2.1 v → ∀ l ∈ lanes, (∀ k ∈ lanes, k < l → row.2.2 k % n = 0 ∧ row.2.2 k + n ≤ frondBytes) →
      row.2.2 l % n ≠ 0 ∨ frondBytes < row.2.2 l + n → ∃ t, exec (row.1 f v) r = .next t ∧
        (t.part p).faultCode = (if frondBytes < row.2.2 l + n then 0x0202 else 0x0203) ∧
        t.fbuf = s.fbuf ∧ (t.frond f).vec.vregs = x.vregs) ∧
    (scalarAt % 8 = 0 → scalarAt + 8 ≤ frondBytes → s.BufSound f (rangeFrom scalarAt 8) →
      (s.RunsKernel f p 0x24 v → ∃ t, exec (.lds f v) r = .next t ∧ ScalarStep s t f v.d 1 (BitVec.ofNat 64 (s.bufNat f scalarAt 8))) ∧
      (s.RunsKernel f p 0x25 v → ∃ t, exec (.sts f v) r = .next t ∧ stored t 1 (cellsAt scalarAt (leBytes 8 (x.sreg v.c).toNat)))) ∧
    (scalarAt % 8 ≠ 0 ∨ frondBytes < scalarAt + 8 → ∀ c ∈ [(Instr.lds, 0x24), (.sts, 0x25)], s.RunsKernel f p c.2 v →
      ∃ t, exec (c.1 f v) r = .next t ∧
      (t.part p).faultCode = (if frondBytes < scalarAt + 8 then 0x0202 else 0x0203) ∧ t.fbuf = s.fbuf ∧
      (t.frond f).vec.sregs = x.sregs)

/-- R91, R160, R163, R164 and R169: scalar arithmetic on 64 bits, with s0 never written; branches go from their own index; HALT
ends the kernel and leaves the OR of the lanes' flags in VEC_FLAGS. Without a running kernel, and where the kernel's next
instruction is another one, a vector row does nothing; one with a reserved code is none of the engine's.
The model's own choices in it: log entries 16 and 113. -/
def Obligations.ScalarsBranchAndKernelsHalt : Prop :=
  (∀ (f p : Nat) (v : VFields) (r : State),
    let s := r.vecAt f v
    let x := (s.frond f).vec
    let y : Int := if v.b = 0 then v.imm else signed 64 (x.sreg v.b).toNat
    let target := (((x.pc : Int) + v.imm) % 8192).toNat
    let jumps := fun (c : Nat → VFields → Instr) (op pc : Nat) => s.RunsKernel f p op v → ∃ t, exec (c f v) r = .next t ∧
      VecStep s t f 1 pc ∧ t.gens = s.gens ∧ { (t.frond f).vec with pc := x.pc } = x
    (v.rm ≤ 2 → ∀ row ∈ [(Instr.sadd, 0x28, fun (a b : Int) => a + b), (.ssub, 0x29, fun a b => a - b), (.smul, 0x2A, fun a b => a * b)],
      s.RunsKernel f p row.2.1 v → ∃ t, exec (row.1 f v) r = .next t ∧ ScalarStep s t f v.d 1 (BitVec.ofNat 64
        (narrowInt 64 (if v.rm = 0 then ncWrap x.numctl else v.rm == 2) (row.2.2 (signed 64 (x.sreg v.a).toNat) y)))) ∧
    (s.RunsKernel f p 0x2B v → ∃ t, exec (.sshl f v) r = .next t ∧ ScalarStep s t f v.d 1 (x.sreg v.a <<< (y % 64).toNat)) ∧
    (s.RunsKernel f p 0x2C v → ∃ t, exec (.sshr f v) r = .next t ∧ ScalarStep s t f v.d 1 (x.sreg v.a >>> (y % 64).toNat)) ∧
    (s.RunsKernel f p 0x2D v → ∃ t, exec (.sli f v) r = .next t ∧ ScalarStep s t f v.d 1 (BitVec.ofInt 64 v.imm)) ∧
    jumps .br 0x30 target ∧ jumps .bnz 0x31 (if x.sreg v.a ≠ 0 then target else s.nextPc f) ∧
    jumps .bz 0x32 (if x.sreg v.a = 0 then target else s.nextPc f) ∧
    (s.RunsKernel f p 0x3F v → ∃ t, exec (.halt f v) r = .next t ∧ (t.frond f).vec.running = false ∧
      t.reg 1 f 0x1120 = s.reg 1 f 0x1120 ||| ((List.range 128).foldl (fun a l => a ||| x.flag l) 0).setWidth 64 ∧
      (∀ g, g ≠ f → t.frond g = s.frond g) ∧ { (t.frond f).vec with running := true, pc := x.pc } = x ∧
      { t with fronds := s.fronds, regs := s.regs } = s)) ∧
  (∀ (c : Instr) (f : Nat) (v : VFields) (ok : Bool) (r : State), kernelRow c = some (f, v, ok) →
    let s := r.strike v.strikes
    (128 ≤ f → exec c r = .fault .noSuchUnit) ∧ (f < 128 → (v.wf && ok) = false → exec c r = .fault .reservedCode) ∧
    (f < 128 → (v.wf && ok) = true →
      (s.workOf f = none ∨ (s.frond f).vec.running = false → exec c r = .next s) ∧
      (∀ p, s.workOf f = some p → s.vecUnread p f = none → (∀ op, s.vecNext f op v = false) → exec c r = .next s) ∧
      (∀ p t, s.workOf f = some p → s.vecUnread p f = some t → exec c r = .next t)))
end

