-- ==== Sys2Proof/Laws/Sparse.lean ====
section
/-! SUPPORT. The laws of the sparse maps: reads after writes, and that every operation keeps the canonical form. -/

namespace Sys2Proof.Machine

variable {α : Type} [DecidableEq α] {d : Nat → α}

omit [DecidableEq α] in
@[simp] theorem sget_nil (k : Nat) : sget d [] k = d k := rfl

@[simp] theorem swf_nil : swf d ([] : List (Nat × α)) = true := rfl

/-- The canonical form from a bound, as three facts about the first entry. -/
theorem swfFrom_cons {lo : Option Nat} {k : Nat} {v : α} {m : List (Nat × α)} :
    swfFrom d lo ((k, v) :: m) = true ↔ (∀ l, lo = some l → l < k) ∧ v ≠ d k ∧ swfFrom d (some k) m = true := by
  cases lo <;> simp [swfFrom, and_assoc]

/-- A lower bound may be lowered. -/
theorem swfFrom_mono {a b : Nat} (h : a ≤ b) {m : List (Nat × α)} (w : swfFrom d (some b) m = true) :
    swfFrom d (some a) m = true := by
  cases m with
  | nil => rfl
  | cons e m =>
    obtain ⟨h1, h2, h3⟩ := swfFrom_cons.mp w
    exact swfFrom_cons.mpr ⟨fun l hl => by have := h1 b rfl; cases hl; omega, h2, h3⟩

theorem swfFrom_none {a : Nat} {m : List (Nat × α)} (w : swfFrom d (some a) m = true) : swf d m = true := by
  cases m with
  | nil => rfl
  | cons e m =>
    obtain ⟨_, h2, h3⟩ := swfFrom_cons.mp w
    exact swfFrom_cons.mpr ⟨fun l hl => by simp at hl, h2, h3⟩

/-- Below its first key a canonical map reads as its default. -/
theorem sget_below {a k : Nat} {m : List (Nat × α)} (w : swfFrom d (some a) m = true) (h : k ≤ a) : sget d m k = d k := by
  cases m with
  | nil => rfl
  | cons e m =>
    obtain ⟨h1, _, _⟩ := swfFrom_cons.mp w
    have := h1 a rfl
    simp [sget, show k < e.1 by omega]

theorem swf_tail {e : Nat × α} {m : List (Nat × α)} (w : swf d (e :: m) = true) : swf d m = true :=
  swfFrom_none (swfFrom_cons.mp w).2.2

/-- A read after a write at the same key gives what was written. -/
theorem sget_sput_same {m : List (Nat × α)} (k : Nat) (v : α) (w : swf d m = true) : sget d (sput d m k v) k = v := by
  induction m with
  | nil => by_cases h : v = d k <;> simp [sput, sget, h]
  | cons e m ih =>
    obtain ⟨k', v'⟩ := e
    obtain ⟨_, _, h3⟩ := swfFrom_cons.mp w
    by_cases h1 : k < k'
    · by_cases h : v = d k <;> simp [sput, sget, h1, h]
    · by_cases h2 : k = k'
      · subst h2
        by_cases h : v = d k
        · simp [sput, h, sget_below h3 (Nat.le_refl k)]
        · simp [sput, sget, h]
      · simp [sput, sget, h1, h2, ih (swfFrom_none h3)]

/-- A write leaves every other key alone. -/
theorem sget_sput_ne {m : List (Nat × α)} {j k : Nat} (v : α) (w : swf d m = true) (hj : j ≠ k) :
    sget d (sput d m k v) j = sget d m j := by
  induction m with
  | nil =>
    by_cases h : v = d k
    · simp [sput, h]
    · simp [sput, sget, h, hj]
  | cons e m ih =>
    obtain ⟨k', v'⟩ := e
    obtain ⟨_, _, h3⟩ := swfFrom_cons.mp w
    by_cases h1 : k < k'
    · by_cases h : v = d k
      · simp [sput, h1, h]
      · by_cases hjk : j < k
        · simp [sput, sget, h1, h, hjk, show j < k' by omega]
        · simp [sput, sget, h1, h, hjk, hj]
    · by_cases h2 : k = k'
      · subst h2
        by_cases h : v = d k
        · by_cases hjk : j < k
          · simp [sput, sget, h, hjk, sget_below h3 (show j ≤ k by omega)]
          · simp [sput, sget, h, hjk, hj]
        · simp [sput, sget, h, hj]
      · simp only [sput, h1, h2, if_false, sget]
        rw [ih (swfFrom_none h3)]

/-- Both readings of a map after a write. -/
theorem sget_sput {m : List (Nat × α)} (j k : Nat) (v : α) (w : swf d m = true) :
    sget d (sput d m k v) j = if j = k then v else sget d m j := by
  by_cases h : j = k
  · simp [h, sget_sput_same k v w]
  · simp [h, sget_sput_ne v w h]

/-- Writing keeps the canonical form above a bound that the key respects. -/
theorem swfFrom_sput {m : List (Nat × α)} {lo : Option Nat} {k : Nat} (v : α) (w : swfFrom d lo m = true)
    (h : ∀ l, lo = some l → l < k) : swfFrom d lo (sput d m k v) = true := by
  induction m generalizing lo with
  | nil =>
    by_cases hv : v = d k
    · simp [sput, hv, swfFrom]
    · simpa [sput, hv] using swfFrom_cons.mpr ⟨h, hv, rfl⟩
  | cons e m ih =>
    obtain ⟨k', v'⟩ := e
    obtain ⟨h1, h2, h3⟩ := swfFrom_cons.mp w
    by_cases a : k < k'
    · by_cases hv : v = d k
      · simpa [sput, a, hv] using w
      · simp only [sput, a, hv, if_true, if_false]
        exact swfFrom_cons.mpr ⟨h, hv, swfFrom_cons.mpr ⟨fun l hl => by cases hl; exact a, h2, h3⟩⟩
    · by_cases b : k = k'
      · subst b
        by_cases hv : v = d k
        · simp only [sput, hv, if_true, Nat.lt_irrefl, if_false]
          cases lo with
          | none => exact swfFrom_none h3
          | some l => exact swfFrom_mono (Nat.le_of_lt (h1 l rfl)) h3
        · simp only [sput, hv, if_true, Nat.lt_irrefl, if_false]
          exact swfFrom_cons.mpr ⟨h1, hv, h3⟩
      · simp only [sput, a, b, if_false]
        exact swfFrom_cons.mpr ⟨h1, h2, ih h3 fun l hl => by cases hl; omega⟩

theorem swf_sput {m : List (Nat × α)} (k : Nat) (v : α) (w : swf d m = true) : swf d (sput d m k v) = true :=
  swfFrom_sput v w fun _ h => by simp at h

theorem swf_sputs {m : List (Nat × α)} (k : Nat) (vs : List α) (w : swf d m = true) : swf d (sputs d m k vs) = true := by
  induction vs generalizing m k with
  | nil => exact w
  | cons v vs ih => exact ih (k + 1) (swf_sput k v w)

/-- Consecutive writes reach exactly their own keys. -/
theorem sget_sputs {m : List (Nat × α)} (j k : Nat) (vs : List α) (w : swf d m = true) :
    sget d (sputs d m k vs) j = if h : k ≤ j ∧ j - k < vs.length then vs[j - k] else sget d m j := by
  induction vs generalizing m k with
  | nil => simp [sputs]
  | cons v vs ih =>
    rw [sputs, ih (k + 1) (swf_sput k v w)]
    by_cases h1 : j = k
    · subst h1
      rw [dif_neg (by omega), dif_pos ⟨Nat.le_refl j, by simp⟩, sget_sput_same j v w]
      simp
    · by_cases h2 : k + 1 ≤ j ∧ j - (k + 1) < vs.length
      · have h3 : k ≤ j ∧ j - k < (v :: vs).length := by simp; omega
        rw [dif_pos h2, dif_pos h3]
        have : j - k = (j - (k + 1)) + 1 := by omega
        simp [this]
      · have h3 : ¬ (k ≤ j ∧ j - k < (v :: vs).length) := by simp; omega
        rw [dif_neg h2, dif_neg h3, sget_sput_ne v w h1]

/-- Any filter keeps the canonical form. -/
theorem swfFrom_filter {m : List (Nat × α)} {lo : Option Nat} (p : Nat × α → Bool) (w : swfFrom d lo m = true) :
    swfFrom d lo (m.filter p) = true := by
  induction m generalizing lo with
  | nil => exact w
  | cons e m ih =>
    obtain ⟨h1, h2, h3⟩ := swfFrom_cons.mp w
    by_cases hp : p e
    · simp only [List.filter, hp]
      exact swfFrom_cons.mpr ⟨h1, h2, ih h3⟩
    · simp only [List.filter, hp]
      cases lo with
      | none => exact swfFrom_none (ih h3)
      | some l => exact swfFrom_mono (Nat.le_of_lt (h1 l rfl)) (ih h3)

theorem swf_filter {m : List (Nat × α)} (p : Nat × α → Bool) (w : swf d m = true) : swf d (m.filter p) = true :=
  swfFrom_filter p w

theorem swf_sclear {m : List (Nat × α)} (f : Nat → Bool) (w : swf d m = true) : swf d (sclear f m) = true :=
  swf_filter _ w

/-- After a clear the keys cleared read as their default, and the others as before. -/
theorem sget_sclear {m : List (Nat × α)} (f : Nat → Bool) (k : Nat) (w : swf d m = true) :
    sget d (sclear f m) k = if f k then d k else sget d m k := by
  suffices H : ∀ lo, swfFrom d lo m = true → sget d (sclear f m) k = if f k then d k else sget d m k from H none w
  induction m with
  | nil => intro lo _; by_cases h : f k <;> simp [sclear, h]
  | cons e m ih =>
    intro lo w'
    obtain ⟨k', v'⟩ := e
    obtain ⟨_, _, h3⟩ := swfFrom_cons.mp w'
    have ih' := ih (swfFrom_none h3) (some k') h3
    by_cases hf : f k'
    · have hs : sclear f ((k', v') :: m) = sclear f m := by simp [sclear, hf]
      rw [hs, ih']
      by_cases hk : f k
      · simp [hk]
      · simp only [hk, sget]
        by_cases h1 : k < k'
        · simp [h1, sget_below h3 (Nat.le_of_lt h1)]
        · by_cases h2 : k = k'
          · subst h2; exact absurd hf hk
          · simp [h1, h2]
    · have hs : sclear f ((k', v') :: m) = (k', v') :: sclear f m := by simp [sclear, hf]
      rw [hs]
      simp only [sget]
      by_cases h1 : k < k'
      · simp [h1]
      · by_cases h2 : k = k'
        · subst h2; simp [hf]
        · simp [h1, h2, ih']

/-- A fold of writes keeps the canonical form. -/
theorem swf_foldl {β : Type} (f : List (Nat × α) → β → List (Nat × α)) (h : ∀ m b, swf d m = true → swf d (f m b) = true)
    (l : List β) {m : List (Nat × α)} (w : swf d m = true) : swf d (l.foldl f m) = true := by
  induction l generalizing m with
  | nil => exact w
  | cons b l ih => exact ih (h m b w)

end Sys2Proof.Machine
end

