-- ==== Sys2Proof/Laws/State.lean ====
section
/-! SUPPORT. What each update of the state does to each field: one lemma per field per update, true by rfl, so that no
proof unfolds a record update; then the reads after the writes. -/

namespace Sys2Proof.Machine

variable (s : State)

/-! ### setFrond -/

@[simp] theorem State.setFrond_pending (f : Nat) (x : Frond) : (s.setFrond f x).pending = s.pending := rfl
@[simp] theorem State.setFrond_freeCtr (f : Nat) (x : Frond) : (s.setFrond f x).freeCtr = s.freeCtr := rfl
@[simp] theorem State.setFrond_regs (f : Nat) (x : Frond) : (s.setFrond f x).regs = s.regs := rfl
@[simp] theorem State.setFrond_shadow (f : Nat) (x : Frond) : (s.setFrond f x).shadow = s.shadow := rfl
@[simp] theorem State.setFrond_snap (f : Nat) (x : Frond) : (s.setFrond f x).snap = s.snap := rfl
@[simp] theorem State.setFrond_tick (f : Nat) (x : Frond) : (s.setFrond f x).tick = s.tick := rfl
@[simp] theorem State.setFrond_mem (f : Nat) (x : Frond) : (s.setFrond f x).mem = s.mem := rfl
@[simp] theorem State.setFrond_poison (f : Nat) (x : Frond) : (s.setFrond f x).poison = s.poison := rfl
@[simp] theorem State.setFrond_flips (f : Nat) (x : Frond) : (s.setFrond f x).flips = s.flips := rfl
@[simp] theorem State.setFrond_devErr (f : Nat) (x : Frond) : (s.setFrond f x).devErr = s.devErr := rfl
@[simp] theorem State.setFrond_writebacks (f : Nat) (x : Frond) : (s.setFrond f x).writebacks = s.writebacks := rfl
@[simp] theorem State.setFrond_scrub (f : Nat) (x : Frond) : (s.setFrond f x).scrub = s.scrub := rfl
@[simp] theorem State.setFrond_blockTag (f : Nat) (x : Frond) : (s.setFrond f x).blockTag = s.blockTag := rfl
@[simp] theorem State.setFrond_hostMem (f : Nat) (x : Frond) : (s.setFrond f x).hostMem = s.hostMem := rfl
@[simp] theorem State.setFrond_hostBad (f : Nat) (x : Frond) : (s.setFrond f x).hostBad = s.hostBad := rfl
@[simp] theorem State.setFrond_fbuf (f : Nat) (x : Frond) : (s.setFrond f x).fbuf = s.fbuf := rfl
@[simp] theorem State.setFrond_fbufBad (f : Nat) (x : Frond) : (s.setFrond f x).fbufBad = s.fbufBad := rfl
@[simp] theorem State.setFrond_frondFlips (f : Nat) (x : Frond) : (s.setFrond f x).frondFlips = s.frondFlips := rfl
@[simp] theorem State.setFrond_acc (f : Nat) (x : Frond) : (s.setFrond f x).acc = s.acc := rfl
@[simp] theorem State.setFrond_imem (f : Nat) (x : Frond) : (s.setFrond f x).imem = s.imem := rfl
@[simp] theorem State.setFrond_shapeTab (f : Nat) (x : Frond) : (s.setFrond f x).shapeTab = s.shapeTab := rfl
@[simp] theorem State.setFrond_gens (f : Nat) (x : Frond) : (s.setFrond f x).gens = s.gens := rfl
@[simp] theorem State.setFrond_fronds (f : Nat) (x : Frond) : (s.setFrond f x).fronds = sput (fun _ => Frond.reset) s.fronds f x := rfl
@[simp] theorem State.setFrond_parts (f : Nat) (x : Frond) : (s.setFrond f x).parts = s.parts := rfl
@[simp] theorem State.setFrond_streams (f : Nat) (x : Frond) : (s.setFrond f x).streams = s.streams := rfl
@[simp] theorem State.setFrond_slots (f : Nat) (x : Frond) : (s.setFrond f x).slots = s.slots := rfl
@[simp] theorem State.setFrond_ledgers (f : Nat) (x : Frond) : (s.setFrond f x).ledgers = s.ledgers := rfl
@[simp] theorem State.setFrond_wheels (f : Nat) (x : Frond) : (s.setFrond f x).wheels = s.wheels := rfl
@[simp] theorem State.setFrond_mailboxes (f : Nat) (x : Frond) : (s.setFrond f x).mailboxes = s.mailboxes := rfl
@[simp] theorem State.setFrond_mbTaken (f : Nat) (x : Frond) : (s.setFrond f x).mbTaken = s.mbTaken := rfl
@[simp] theorem State.setFrond_mbArea (f : Nat) (x : Frond) : (s.setFrond f x).mbArea = s.mbArea := rfl
@[simp] theorem State.setFrond_component (f : Nat) (x : Frond) : (s.setFrond f x).component = s.component := rfl
@[simp] theorem State.setFrond_msixTable (f : Nat) (x : Frond) : (s.setFrond f x).msixTable = s.msixTable := rfl
@[simp] theorem State.setFrond_msixPending (f : Nat) (x : Frond) : (s.setFrond f x).msixPending = s.msixPending := rfl
@[simp] theorem State.setFrond_spore (f : Nat) (x : Frond) : (s.setFrond f x).spore = s.spore := rfl
@[simp] theorem State.setFrond_sporeOut (f : Nat) (x : Frond) : (s.setFrond f x).sporeOut = s.sporeOut := rfl
@[simp] theorem State.setFrond_stopMsgs (f : Nat) (x : Frond) : (s.setFrond f x).stopMsgs = s.stopMsgs := rfl
@[simp] theorem State.setFrond_hyphae (f : Nat) (x : Frond) : (s.setFrond f x).hyphae = s.hyphae := rfl
@[simp] theorem State.setFrond_waits (f : Nat) (x : Frond) : (s.setFrond f x).waits = s.waits := rfl
@[simp] theorem State.setFrond_lastScan (f : Nat) (x : Frond) : (s.setFrond f x).lastScan = s.lastScan := rfl
@[simp] theorem State.setFrond_routes (f : Nat) (x : Frond) : (s.setFrond f x).routes = s.routes := rfl
@[simp] theorem State.setFrond_pendingRoutes (f : Nat) (x : Frond) : (s.setFrond f x).pendingRoutes = s.pendingRoutes := rfl
@[simp] theorem State.setFrond_clears (f : Nat) (x : Frond) : (s.setFrond f x).clears = s.clears := rfl
@[simp] theorem State.setFrond_ports (f : Nat) (x : Frond) : (s.setFrond f x).ports = s.ports := rfl
@[simp] theorem State.setFrond_pair (f : Nat) (x : Frond) : (s.setFrond f x).pair = s.pair := rfl
@[simp] theorem State.setFrond_held (f : Nat) (x : Frond) : (s.setFrond f x).held = s.held := rfl
@[simp] theorem State.setFrond_livePosted (f : Nat) (x : Frond) : (s.setFrond f x).livePosted = s.livePosted := rfl
@[simp] theorem State.setFrond_power (f : Nat) (x : Frond) : (s.setFrond f x).power = s.power := rfl
@[simp] theorem State.setFrond_pkg (f : Nat) (x : Frond) : (s.setFrond f x).pkg = s.pkg := rfl
@[simp] theorem State.setFrond_indus (f : Nat) (x : Frond) : (s.setFrond f x).indus = s.indus := rfl
@[simp] theorem State.setFrond_test (f : Nat) (x : Frond) : (s.setFrond f x).test = s.test := rfl
@[simp] theorem State.setFrond_host (f : Nat) (x : Frond) : (s.setFrond f x).host = s.host := rfl

/-! ### setPart -/

@[simp] theorem State.setPart_pending (p : Nat) (x : Partition) : (s.setPart p x).pending = s.pending := rfl
@[simp] theorem State.setPart_freeCtr (p : Nat) (x : Partition) : (s.setPart p x).freeCtr = s.freeCtr := rfl
@[simp] theorem State.setPart_regs (p : Nat) (x : Partition) : (s.setPart p x).regs = s.regs := rfl
@[simp] theorem State.setPart_shadow (p : Nat) (x : Partition) : (s.setPart p x).shadow = s.shadow := rfl
@[simp] theorem State.setPart_snap (p : Nat) (x : Partition) : (s.setPart p x).snap = s.snap := rfl
@[simp] theorem State.setPart_tick (p : Nat) (x : Partition) : (s.setPart p x).tick = s.tick := rfl
@[simp] theorem State.setPart_mem (p : Nat) (x : Partition) : (s.setPart p x).mem = s.mem := rfl
@[simp] theorem State.setPart_poison (p : Nat) (x : Partition) : (s.setPart p x).poison = s.poison := rfl
@[simp] theorem State.setPart_flips (p : Nat) (x : Partition) : (s.setPart p x).flips = s.flips := rfl
@[simp] theorem State.setPart_devErr (p : Nat) (x : Partition) : (s.setPart p x).devErr = s.devErr := rfl
@[simp] theorem State.setPart_writebacks (p : Nat) (x : Partition) : (s.setPart p x).writebacks = s.writebacks := rfl
@[simp] theorem State.setPart_scrub (p : Nat) (x : Partition) : (s.setPart p x).scrub = s.scrub := rfl
@[simp] theorem State.setPart_blockTag (p : Nat) (x : Partition) : (s.setPart p x).blockTag = s.blockTag := rfl
@[simp] theorem State.setPart_hostMem (p : Nat) (x : Partition) : (s.setPart p x).hostMem = s.hostMem := rfl
@[simp] theorem State.setPart_hostBad (p : Nat) (x : Partition) : (s.setPart p x).hostBad = s.hostBad := rfl
@[simp] theorem State.setPart_fbuf (p : Nat) (x : Partition) : (s.setPart p x).fbuf = s.fbuf := rfl
@[simp] theorem State.setPart_fbufBad (p : Nat) (x : Partition) : (s.setPart p x).fbufBad = s.fbufBad := rfl
@[simp] theorem State.setPart_frondFlips (p : Nat) (x : Partition) : (s.setPart p x).frondFlips = s.frondFlips := rfl
@[simp] theorem State.setPart_acc (p : Nat) (x : Partition) : (s.setPart p x).acc = s.acc := rfl
@[simp] theorem State.setPart_imem (p : Nat) (x : Partition) : (s.setPart p x).imem = s.imem := rfl
@[simp] theorem State.setPart_shapeTab (p : Nat) (x : Partition) : (s.setPart p x).shapeTab = s.shapeTab := rfl
@[simp] theorem State.setPart_gens (p : Nat) (x : Partition) : (s.setPart p x).gens = s.gens := rfl
@[simp] theorem State.setPart_fronds (p : Nat) (x : Partition) : (s.setPart p x).fronds = s.fronds := rfl
@[simp] theorem State.setPart_parts (p : Nat) (x : Partition) : (s.setPart p x).parts = sput (fun _ => Partition.reset) s.parts p x := rfl
@[simp] theorem State.setPart_streams (p : Nat) (x : Partition) : (s.setPart p x).streams = s.streams := rfl
@[simp] theorem State.setPart_slots (p : Nat) (x : Partition) : (s.setPart p x).slots = s.slots := rfl
@[simp] theorem State.setPart_ledgers (p : Nat) (x : Partition) : (s.setPart p x).ledgers = s.ledgers := rfl
@[simp] theorem State.setPart_wheels (p : Nat) (x : Partition) : (s.setPart p x).wheels = s.wheels := rfl
@[simp] theorem State.setPart_mailboxes (p : Nat) (x : Partition) : (s.setPart p x).mailboxes = s.mailboxes := rfl
@[simp] theorem State.setPart_mbTaken (p : Nat) (x : Partition) : (s.setPart p x).mbTaken = s.mbTaken := rfl
@[simp] theorem State.setPart_mbArea (p : Nat) (x : Partition) : (s.setPart p x).mbArea = s.mbArea := rfl
@[simp] theorem State.setPart_component (p : Nat) (x : Partition) : (s.setPart p x).component = s.component := rfl
@[simp] theorem State.setPart_msixTable (p : Nat) (x : Partition) : (s.setPart p x).msixTable = s.msixTable := rfl
@[simp] theorem State.setPart_msixPending (p : Nat) (x : Partition) : (s.setPart p x).msixPending = s.msixPending := rfl
@[simp] theorem State.setPart_spore (p : Nat) (x : Partition) : (s.setPart p x).spore = s.spore := rfl
@[simp] theorem State.setPart_sporeOut (p : Nat) (x : Partition) : (s.setPart p x).sporeOut = s.sporeOut := rfl
@[simp] theorem State.setPart_stopMsgs (p : Nat) (x : Partition) : (s.setPart p x).stopMsgs = s.stopMsgs := rfl
@[simp] theorem State.setPart_hyphae (p : Nat) (x : Partition) : (s.setPart p x).hyphae = s.hyphae := rfl
@[simp] theorem State.setPart_waits (p : Nat) (x : Partition) : (s.setPart p x).waits = s.waits := rfl
@[simp] theorem State.setPart_lastScan (p : Nat) (x : Partition) : (s.setPart p x).lastScan = s.lastScan := rfl
@[simp] theorem State.setPart_routes (p : Nat) (x : Partition) : (s.setPart p x).routes = s.routes := rfl
@[simp] theorem State.setPart_pendingRoutes (p : Nat) (x : Partition) : (s.setPart p x).pendingRoutes = s.pendingRoutes := rfl
@[simp] theorem State.setPart_clears (p : Nat) (x : Partition) : (s.setPart p x).clears = s.clears := rfl
@[simp] theorem State.setPart_ports (p : Nat) (x : Partition) : (s.setPart p x).ports = s.ports := rfl
@[simp] theorem State.setPart_pair (p : Nat) (x : Partition) : (s.setPart p x).pair = s.pair := rfl
@[simp] theorem State.setPart_held (p : Nat) (x : Partition) : (s.setPart p x).held = s.held := rfl
@[simp] theorem State.setPart_livePosted (p : Nat) (x : Partition) : (s.setPart p x).livePosted = s.livePosted := rfl
@[simp] theorem State.setPart_power (p : Nat) (x : Partition) : (s.setPart p x).power = s.power := rfl
@[simp] theorem State.setPart_pkg (p : Nat) (x : Partition) : (s.setPart p x).pkg = s.pkg := rfl
@[simp] theorem State.setPart_indus (p : Nat) (x : Partition) : (s.setPart p x).indus = s.indus := rfl
@[simp] theorem State.setPart_test (p : Nat) (x : Partition) : (s.setPart p x).test = s.test := rfl
@[simp] theorem State.setPart_host (p : Nat) (x : Partition) : (s.setPart p x).host = s.host := rfl

/-! ### setStream -/

@[simp] theorem State.setStream_pending (i : Nat) (x : Option Stream) : (s.setStream i x).pending = s.pending := rfl
@[simp] theorem State.setStream_freeCtr (i : Nat) (x : Option Stream) : (s.setStream i x).freeCtr = s.freeCtr := rfl
@[simp] theorem State.setStream_regs (i : Nat) (x : Option Stream) : (s.setStream i x).regs = s.regs := rfl
@[simp] theorem State.setStream_shadow (i : Nat) (x : Option Stream) : (s.setStream i x).shadow = s.shadow := rfl
@[simp] theorem State.setStream_snap (i : Nat) (x : Option Stream) : (s.setStream i x).snap = s.snap := rfl
@[simp] theorem State.setStream_tick (i : Nat) (x : Option Stream) : (s.setStream i x).tick = s.tick := rfl
@[simp] theorem State.setStream_mem (i : Nat) (x : Option Stream) : (s.setStream i x).mem = s.mem := rfl
@[simp] theorem State.setStream_poison (i : Nat) (x : Option Stream) : (s.setStream i x).poison = s.poison := rfl
@[simp] theorem State.setStream_flips (i : Nat) (x : Option Stream) : (s.setStream i x).flips = s.flips := rfl
@[simp] theorem State.setStream_devErr (i : Nat) (x : Option Stream) : (s.setStream i x).devErr = s.devErr := rfl
@[simp] theorem State.setStream_writebacks (i : Nat) (x : Option Stream) : (s.setStream i x).writebacks = s.writebacks := rfl
@[simp] theorem State.setStream_scrub (i : Nat) (x : Option Stream) : (s.setStream i x).scrub = s.scrub := rfl
@[simp] theorem State.setStream_blockTag (i : Nat) (x : Option Stream) : (s.setStream i x).blockTag = s.blockTag := rfl
@[simp] theorem State.setStream_hostMem (i : Nat) (x : Option Stream) : (s.setStream i x).hostMem = s.hostMem := rfl
@[simp] theorem State.setStream_hostBad (i : Nat) (x : Option Stream) : (s.setStream i x).hostBad = s.hostBad := rfl
@[simp] theorem State.setStream_fbuf (i : Nat) (x : Option Stream) : (s.setStream i x).fbuf = s.fbuf := rfl
@[simp] theorem State.setStream_fbufBad (i : Nat) (x : Option Stream) : (s.setStream i x).fbufBad = s.fbufBad := rfl
@[simp] theorem State.setStream_frondFlips (i : Nat) (x : Option Stream) : (s.setStream i x).frondFlips = s.frondFlips := rfl
@[simp] theorem State.setStream_acc (i : Nat) (x : Option Stream) : (s.setStream i x).acc = s.acc := rfl
@[simp] theorem State.setStream_imem (i : Nat) (x : Option Stream) : (s.setStream i x).imem = s.imem := rfl
@[simp] theorem State.setStream_shapeTab (i : Nat) (x : Option Stream) : (s.setStream i x).shapeTab = s.shapeTab := rfl
@[simp] theorem State.setStream_gens (i : Nat) (x : Option Stream) : (s.setStream i x).gens = s.gens := rfl
@[simp] theorem State.setStream_fronds (i : Nat) (x : Option Stream) : (s.setStream i x).fronds = s.fronds := rfl
@[simp] theorem State.setStream_parts (i : Nat) (x : Option Stream) : (s.setStream i x).parts = s.parts := rfl
@[simp] theorem State.setStream_streams (i : Nat) (x : Option Stream) : (s.setStream i x).streams = sput (fun _ => none) s.streams i x := rfl
@[simp] theorem State.setStream_slots (i : Nat) (x : Option Stream) : (s.setStream i x).slots = s.slots := rfl
@[simp] theorem State.setStream_ledgers (i : Nat) (x : Option Stream) : (s.setStream i x).ledgers = s.ledgers := rfl
@[simp] theorem State.setStream_wheels (i : Nat) (x : Option Stream) : (s.setStream i x).wheels = s.wheels := rfl
@[simp] theorem State.setStream_mailboxes (i : Nat) (x : Option Stream) : (s.setStream i x).mailboxes = s.mailboxes := rfl
@[simp] theorem State.setStream_mbTaken (i : Nat) (x : Option Stream) : (s.setStream i x).mbTaken = s.mbTaken := rfl
@[simp] theorem State.setStream_mbArea (i : Nat) (x : Option Stream) : (s.setStream i x).mbArea = s.mbArea := rfl
@[simp] theorem State.setStream_component (i : Nat) (x : Option Stream) : (s.setStream i x).component = s.component := rfl
@[simp] theorem State.setStream_msixTable (i : Nat) (x : Option Stream) : (s.setStream i x).msixTable = s.msixTable := rfl
@[simp] theorem State.setStream_msixPending (i : Nat) (x : Option Stream) : (s.setStream i x).msixPending = s.msixPending := rfl
@[simp] theorem State.setStream_spore (i : Nat) (x : Option Stream) : (s.setStream i x).spore = s.spore := rfl
@[simp] theorem State.setStream_sporeOut (i : Nat) (x : Option Stream) : (s.setStream i x).sporeOut = s.sporeOut := rfl
@[simp] theorem State.setStream_stopMsgs (i : Nat) (x : Option Stream) : (s.setStream i x).stopMsgs = s.stopMsgs := rfl
@[simp] theorem State.setStream_hyphae (i : Nat) (x : Option Stream) : (s.setStream i x).hyphae = s.hyphae := rfl
@[simp] theorem State.setStream_waits (i : Nat) (x : Option Stream) : (s.setStream i x).waits = s.waits := rfl
@[simp] theorem State.setStream_lastScan (i : Nat) (x : Option Stream) : (s.setStream i x).lastScan = s.lastScan := rfl
@[simp] theorem State.setStream_routes (i : Nat) (x : Option Stream) : (s.setStream i x).routes = s.routes := rfl
@[simp] theorem State.setStream_pendingRoutes (i : Nat) (x : Option Stream) : (s.setStream i x).pendingRoutes = s.pendingRoutes := rfl
@[simp] theorem State.setStream_clears (i : Nat) (x : Option Stream) : (s.setStream i x).clears = s.clears := rfl
@[simp] theorem State.setStream_ports (i : Nat) (x : Option Stream) : (s.setStream i x).ports = s.ports := rfl
@[simp] theorem State.setStream_pair (i : Nat) (x : Option Stream) : (s.setStream i x).pair = s.pair := rfl
@[simp] theorem State.setStream_held (i : Nat) (x : Option Stream) : (s.setStream i x).held = s.held := rfl
@[simp] theorem State.setStream_livePosted (i : Nat) (x : Option Stream) : (s.setStream i x).livePosted = s.livePosted := rfl
@[simp] theorem State.setStream_power (i : Nat) (x : Option Stream) : (s.setStream i x).power = s.power := rfl
@[simp] theorem State.setStream_pkg (i : Nat) (x : Option Stream) : (s.setStream i x).pkg = s.pkg := rfl
@[simp] theorem State.setStream_indus (i : Nat) (x : Option Stream) : (s.setStream i x).indus = s.indus := rfl
@[simp] theorem State.setStream_test (i : Nat) (x : Option Stream) : (s.setStream i x).test = s.test := rfl
@[simp] theorem State.setStream_host (i : Nat) (x : Option Stream) : (s.setStream i x).host = s.host := rfl

/-! ### setSlot -/

@[simp] theorem State.setSlot_pending (m : Nat) (x : Option MaskSlot) : (s.setSlot m x).pending = s.pending := rfl
@[simp] theorem State.setSlot_freeCtr (m : Nat) (x : Option MaskSlot) : (s.setSlot m x).freeCtr = s.freeCtr := rfl
@[simp] theorem State.setSlot_regs (m : Nat) (x : Option MaskSlot) : (s.setSlot m x).regs = s.regs := rfl
@[simp] theorem State.setSlot_shadow (m : Nat) (x : Option MaskSlot) : (s.setSlot m x).shadow = s.shadow := rfl
@[simp] theorem State.setSlot_snap (m : Nat) (x : Option MaskSlot) : (s.setSlot m x).snap = s.snap := rfl
@[simp] theorem State.setSlot_tick (m : Nat) (x : Option MaskSlot) : (s.setSlot m x).tick = s.tick := rfl
@[simp] theorem State.setSlot_mem (m : Nat) (x : Option MaskSlot) : (s.setSlot m x).mem = s.mem := rfl
@[simp] theorem State.setSlot_poison (m : Nat) (x : Option MaskSlot) : (s.setSlot m x).poison = s.poison := rfl
@[simp] theorem State.setSlot_flips (m : Nat) (x : Option MaskSlot) : (s.setSlot m x).flips = s.flips := rfl
@[simp] theorem State.setSlot_devErr (m : Nat) (x : Option MaskSlot) : (s.setSlot m x).devErr = s.devErr := rfl
@[simp] theorem State.setSlot_writebacks (m : Nat) (x : Option MaskSlot) : (s.setSlot m x).writebacks = s.writebacks := rfl
@[simp] theorem State.setSlot_scrub (m : Nat) (x : Option MaskSlot) : (s.setSlot m x).scrub = s.scrub := rfl
@[simp] theorem State.setSlot_blockTag (m : Nat) (x : Option MaskSlot) : (s.setSlot m x).blockTag = s.blockTag := rfl
@[simp] theorem State.setSlot_hostMem (m : Nat) (x : Option MaskSlot) : (s.setSlot m x).hostMem = s.hostMem := rfl
@[simp] theorem State.setSlot_hostBad (m : Nat) (x : Option MaskSlot) : (s.setSlot m x).hostBad = s.hostBad := rfl
@[simp] theorem State.setSlot_fbuf (m : Nat) (x : Option MaskSlot) : (s.setSlot m x).fbuf = s.fbuf := rfl
@[simp] theorem State.setSlot_fbufBad (m : Nat) (x : Option MaskSlot) : (s.setSlot m x).fbufBad = s.fbufBad := rfl
@[simp] theorem State.setSlot_frondFlips (m : Nat) (x : Option MaskSlot) : (s.setSlot m x).frondFlips = s.frondFlips := rfl
@[simp] theorem State.setSlot_acc (m : Nat) (x : Option MaskSlot) : (s.setSlot m x).acc = s.acc := rfl
@[simp] theorem State.setSlot_imem (m : Nat) (x : Option MaskSlot) : (s.setSlot m x).imem = s.imem := rfl
@[simp] theorem State.setSlot_shapeTab (m : Nat) (x : Option MaskSlot) : (s.setSlot m x).shapeTab = s.shapeTab := rfl
@[simp] theorem State.setSlot_gens (m : Nat) (x : Option MaskSlot) : (s.setSlot m x).gens = s.gens := rfl
@[simp] theorem State.setSlot_fronds (m : Nat) (x : Option MaskSlot) : (s.setSlot m x).fronds = s.fronds := rfl
@[simp] theorem State.setSlot_parts (m : Nat) (x : Option MaskSlot) : (s.setSlot m x).parts = s.parts := rfl
@[simp] theorem State.setSlot_streams (m : Nat) (x : Option MaskSlot) : (s.setSlot m x).streams = s.streams := rfl
@[simp] theorem State.setSlot_slots (m : Nat) (x : Option MaskSlot) : (s.setSlot m x).slots = sput (fun _ => none) s.slots m x := rfl
@[simp] theorem State.setSlot_ledgers (m : Nat) (x : Option MaskSlot) : (s.setSlot m x).ledgers = s.ledgers := rfl
@[simp] theorem State.setSlot_wheels (m : Nat) (x : Option MaskSlot) : (s.setSlot m x).wheels = s.wheels := rfl
@[simp] theorem State.setSlot_mailboxes (m : Nat) (x : Option MaskSlot) : (s.setSlot m x).mailboxes = s.mailboxes := rfl
@[simp] theorem State.setSlot_mbTaken (m : Nat) (x : Option MaskSlot) : (s.setSlot m x).mbTaken = s.mbTaken := rfl
@[simp] theorem State.setSlot_mbArea (m : Nat) (x : Option MaskSlot) : (s.setSlot m x).mbArea = s.mbArea := rfl
@[simp] theorem State.setSlot_component (m : Nat) (x : Option MaskSlot) : (s.setSlot m x).component = s.component := rfl
@[simp] theorem State.setSlot_msixTable (m : Nat) (x : Option MaskSlot) : (s.setSlot m x).msixTable = s.msixTable := rfl
@[simp] theorem State.setSlot_msixPending (m : Nat) (x : Option MaskSlot) : (s.setSlot m x).msixPending = s.msixPending := rfl
@[simp] theorem State.setSlot_spore (m : Nat) (x : Option MaskSlot) : (s.setSlot m x).spore = s.spore := rfl
@[simp] theorem State.setSlot_sporeOut (m : Nat) (x : Option MaskSlot) : (s.setSlot m x).sporeOut = s.sporeOut := rfl
@[simp] theorem State.setSlot_stopMsgs (m : Nat) (x : Option MaskSlot) : (s.setSlot m x).stopMsgs = s.stopMsgs := rfl
@[simp] theorem State.setSlot_hyphae (m : Nat) (x : Option MaskSlot) : (s.setSlot m x).hyphae = s.hyphae := rfl
@[simp] theorem State.setSlot_waits (m : Nat) (x : Option MaskSlot) : (s.setSlot m x).waits = s.waits := rfl
@[simp] theorem State.setSlot_lastScan (m : Nat) (x : Option MaskSlot) : (s.setSlot m x).lastScan = s.lastScan := rfl
@[simp] theorem State.setSlot_routes (m : Nat) (x : Option MaskSlot) : (s.setSlot m x).routes = s.routes := rfl
@[simp] theorem State.setSlot_pendingRoutes (m : Nat) (x : Option MaskSlot) : (s.setSlot m x).pendingRoutes = s.pendingRoutes := rfl
@[simp] theorem State.setSlot_clears (m : Nat) (x : Option MaskSlot) : (s.setSlot m x).clears = s.clears := rfl
@[simp] theorem State.setSlot_ports (m : Nat) (x : Option MaskSlot) : (s.setSlot m x).ports = s.ports := rfl
@[simp] theorem State.setSlot_pair (m : Nat) (x : Option MaskSlot) : (s.setSlot m x).pair = s.pair := rfl
@[simp] theorem State.setSlot_held (m : Nat) (x : Option MaskSlot) : (s.setSlot m x).held = s.held := rfl
@[simp] theorem State.setSlot_livePosted (m : Nat) (x : Option MaskSlot) : (s.setSlot m x).livePosted = s.livePosted := rfl
@[simp] theorem State.setSlot_power (m : Nat) (x : Option MaskSlot) : (s.setSlot m x).power = s.power := rfl
@[simp] theorem State.setSlot_pkg (m : Nat) (x : Option MaskSlot) : (s.setSlot m x).pkg = s.pkg := rfl
@[simp] theorem State.setSlot_indus (m : Nat) (x : Option MaskSlot) : (s.setSlot m x).indus = s.indus := rfl
@[simp] theorem State.setSlot_test (m : Nat) (x : Option MaskSlot) : (s.setSlot m x).test = s.test := rfl
@[simp] theorem State.setSlot_host (m : Nat) (x : Option MaskSlot) : (s.setSlot m x).host = s.host := rfl

/-! ### setMailbox -/

@[simp] theorem State.setMailbox_pending (m : Nat) (x : Mailbox) : (s.setMailbox m x).pending = s.pending := rfl
@[simp] theorem State.setMailbox_freeCtr (m : Nat) (x : Mailbox) : (s.setMailbox m x).freeCtr = s.freeCtr := rfl
@[simp] theorem State.setMailbox_regs (m : Nat) (x : Mailbox) : (s.setMailbox m x).regs = s.regs := rfl
@[simp] theorem State.setMailbox_shadow (m : Nat) (x : Mailbox) : (s.setMailbox m x).shadow = s.shadow := rfl
@[simp] theorem State.setMailbox_snap (m : Nat) (x : Mailbox) : (s.setMailbox m x).snap = s.snap := rfl
@[simp] theorem State.setMailbox_tick (m : Nat) (x : Mailbox) : (s.setMailbox m x).tick = s.tick := rfl
@[simp] theorem State.setMailbox_mem (m : Nat) (x : Mailbox) : (s.setMailbox m x).mem = s.mem := rfl
@[simp] theorem State.setMailbox_poison (m : Nat) (x : Mailbox) : (s.setMailbox m x).poison = s.poison := rfl
@[simp] theorem State.setMailbox_flips (m : Nat) (x : Mailbox) : (s.setMailbox m x).flips = s.flips := rfl
@[simp] theorem State.setMailbox_devErr (m : Nat) (x : Mailbox) : (s.setMailbox m x).devErr = s.devErr := rfl
@[simp] theorem State.setMailbox_writebacks (m : Nat) (x : Mailbox) : (s.setMailbox m x).writebacks = s.writebacks := rfl
@[simp] theorem State.setMailbox_scrub (m : Nat) (x : Mailbox) : (s.setMailbox m x).scrub = s.scrub := rfl
@[simp] theorem State.setMailbox_blockTag (m : Nat) (x : Mailbox) : (s.setMailbox m x).blockTag = s.blockTag := rfl
@[simp] theorem State.setMailbox_hostMem (m : Nat) (x : Mailbox) : (s.setMailbox m x).hostMem = s.hostMem := rfl
@[simp] theorem State.setMailbox_hostBad (m : Nat) (x : Mailbox) : (s.setMailbox m x).hostBad = s.hostBad := rfl
@[simp] theorem State.setMailbox_fbuf (m : Nat) (x : Mailbox) : (s.setMailbox m x).fbuf = s.fbuf := rfl
@[simp] theorem State.setMailbox_fbufBad (m : Nat) (x : Mailbox) : (s.setMailbox m x).fbufBad = s.fbufBad := rfl
@[simp] theorem State.setMailbox_frondFlips (m : Nat) (x : Mailbox) : (s.setMailbox m x).frondFlips = s.frondFlips := rfl
@[simp] theorem State.setMailbox_acc (m : Nat) (x : Mailbox) : (s.setMailbox m x).acc = s.acc := rfl
@[simp] theorem State.setMailbox_imem (m : Nat) (x : Mailbox) : (s.setMailbox m x).imem = s.imem := rfl
@[simp] theorem State.setMailbox_shapeTab (m : Nat) (x : Mailbox) : (s.setMailbox m x).shapeTab = s.shapeTab := rfl
@[simp] theorem State.setMailbox_gens (m : Nat) (x : Mailbox) : (s.setMailbox m x).gens = s.gens := rfl
@[simp] theorem State.setMailbox_fronds (m : Nat) (x : Mailbox) : (s.setMailbox m x).fronds = s.fronds := rfl
@[simp] theorem State.setMailbox_parts (m : Nat) (x : Mailbox) : (s.setMailbox m x).parts = s.parts := rfl
@[simp] theorem State.setMailbox_streams (m : Nat) (x : Mailbox) : (s.setMailbox m x).streams = s.streams := rfl
@[simp] theorem State.setMailbox_slots (m : Nat) (x : Mailbox) : (s.setMailbox m x).slots = s.slots := rfl
@[simp] theorem State.setMailbox_ledgers (m : Nat) (x : Mailbox) : (s.setMailbox m x).ledgers = s.ledgers := rfl
@[simp] theorem State.setMailbox_wheels (m : Nat) (x : Mailbox) : (s.setMailbox m x).wheels = s.wheels := rfl
@[simp] theorem State.setMailbox_mailboxes (m : Nat) (x : Mailbox) : (s.setMailbox m x).mailboxes = sput (fun _ => Mailbox.reset) s.mailboxes m x := rfl
@[simp] theorem State.setMailbox_mbTaken (m : Nat) (x : Mailbox) : (s.setMailbox m x).mbTaken = s.mbTaken := rfl
@[simp] theorem State.setMailbox_mbArea (m : Nat) (x : Mailbox) : (s.setMailbox m x).mbArea = s.mbArea := rfl
@[simp] theorem State.setMailbox_component (m : Nat) (x : Mailbox) : (s.setMailbox m x).component = s.component := rfl
@[simp] theorem State.setMailbox_msixTable (m : Nat) (x : Mailbox) : (s.setMailbox m x).msixTable = s.msixTable := rfl
@[simp] theorem State.setMailbox_msixPending (m : Nat) (x : Mailbox) : (s.setMailbox m x).msixPending = s.msixPending := rfl
@[simp] theorem State.setMailbox_spore (m : Nat) (x : Mailbox) : (s.setMailbox m x).spore = s.spore := rfl
@[simp] theorem State.setMailbox_sporeOut (m : Nat) (x : Mailbox) : (s.setMailbox m x).sporeOut = s.sporeOut := rfl
@[simp] theorem State.setMailbox_stopMsgs (m : Nat) (x : Mailbox) : (s.setMailbox m x).stopMsgs = s.stopMsgs := rfl
@[simp] theorem State.setMailbox_hyphae (m : Nat) (x : Mailbox) : (s.setMailbox m x).hyphae = s.hyphae := rfl
@[simp] theorem State.setMailbox_waits (m : Nat) (x : Mailbox) : (s.setMailbox m x).waits = s.waits := rfl
@[simp] theorem State.setMailbox_lastScan (m : Nat) (x : Mailbox) : (s.setMailbox m x).lastScan = s.lastScan := rfl
@[simp] theorem State.setMailbox_routes (m : Nat) (x : Mailbox) : (s.setMailbox m x).routes = s.routes := rfl
@[simp] theorem State.setMailbox_pendingRoutes (m : Nat) (x : Mailbox) : (s.setMailbox m x).pendingRoutes = s.pendingRoutes := rfl
@[simp] theorem State.setMailbox_clears (m : Nat) (x : Mailbox) : (s.setMailbox m x).clears = s.clears := rfl
@[simp] theorem State.setMailbox_ports (m : Nat) (x : Mailbox) : (s.setMailbox m x).ports = s.ports := rfl
@[simp] theorem State.setMailbox_pair (m : Nat) (x : Mailbox) : (s.setMailbox m x).pair = s.pair := rfl
@[simp] theorem State.setMailbox_held (m : Nat) (x : Mailbox) : (s.setMailbox m x).held = s.held := rfl
@[simp] theorem State.setMailbox_livePosted (m : Nat) (x : Mailbox) : (s.setMailbox m x).livePosted = s.livePosted := rfl
@[simp] theorem State.setMailbox_power (m : Nat) (x : Mailbox) : (s.setMailbox m x).power = s.power := rfl
@[simp] theorem State.setMailbox_pkg (m : Nat) (x : Mailbox) : (s.setMailbox m x).pkg = s.pkg := rfl
@[simp] theorem State.setMailbox_indus (m : Nat) (x : Mailbox) : (s.setMailbox m x).indus = s.indus := rfl
@[simp] theorem State.setMailbox_test (m : Nat) (x : Mailbox) : (s.setMailbox m x).test = s.test := rfl
@[simp] theorem State.setMailbox_host (m : Nat) (x : Mailbox) : (s.setMailbox m x).host = s.host := rfl

/-! ### setPort -/

@[simp] theorem State.setPort_pending (i : Nat) (x : Port) : (s.setPort i x).pending = s.pending := rfl
@[simp] theorem State.setPort_freeCtr (i : Nat) (x : Port) : (s.setPort i x).freeCtr = s.freeCtr := rfl
@[simp] theorem State.setPort_regs (i : Nat) (x : Port) : (s.setPort i x).regs = s.regs := rfl
@[simp] theorem State.setPort_shadow (i : Nat) (x : Port) : (s.setPort i x).shadow = s.shadow := rfl
@[simp] theorem State.setPort_snap (i : Nat) (x : Port) : (s.setPort i x).snap = s.snap := rfl
@[simp] theorem State.setPort_tick (i : Nat) (x : Port) : (s.setPort i x).tick = s.tick := rfl
@[simp] theorem State.setPort_mem (i : Nat) (x : Port) : (s.setPort i x).mem = s.mem := rfl
@[simp] theorem State.setPort_poison (i : Nat) (x : Port) : (s.setPort i x).poison = s.poison := rfl
@[simp] theorem State.setPort_flips (i : Nat) (x : Port) : (s.setPort i x).flips = s.flips := rfl
@[simp] theorem State.setPort_devErr (i : Nat) (x : Port) : (s.setPort i x).devErr = s.devErr := rfl
@[simp] theorem State.setPort_writebacks (i : Nat) (x : Port) : (s.setPort i x).writebacks = s.writebacks := rfl
@[simp] theorem State.setPort_scrub (i : Nat) (x : Port) : (s.setPort i x).scrub = s.scrub := rfl
@[simp] theorem State.setPort_blockTag (i : Nat) (x : Port) : (s.setPort i x).blockTag = s.blockTag := rfl
@[simp] theorem State.setPort_hostMem (i : Nat) (x : Port) : (s.setPort i x).hostMem = s.hostMem := rfl
@[simp] theorem State.setPort_hostBad (i : Nat) (x : Port) : (s.setPort i x).hostBad = s.hostBad := rfl
@[simp] theorem State.setPort_fbuf (i : Nat) (x : Port) : (s.setPort i x).fbuf = s.fbuf := rfl
@[simp] theorem State.setPort_fbufBad (i : Nat) (x : Port) : (s.setPort i x).fbufBad = s.fbufBad := rfl
@[simp] theorem State.setPort_frondFlips (i : Nat) (x : Port) : (s.setPort i x).frondFlips = s.frondFlips := rfl
@[simp] theorem State.setPort_acc (i : Nat) (x : Port) : (s.setPort i x).acc = s.acc := rfl
@[simp] theorem State.setPort_imem (i : Nat) (x : Port) : (s.setPort i x).imem = s.imem := rfl
@[simp] theorem State.setPort_shapeTab (i : Nat) (x : Port) : (s.setPort i x).shapeTab = s.shapeTab := rfl
@[simp] theorem State.setPort_gens (i : Nat) (x : Port) : (s.setPort i x).gens = s.gens := rfl
@[simp] theorem State.setPort_fronds (i : Nat) (x : Port) : (s.setPort i x).fronds = s.fronds := rfl
@[simp] theorem State.setPort_parts (i : Nat) (x : Port) : (s.setPort i x).parts = s.parts := rfl
@[simp] theorem State.setPort_streams (i : Nat) (x : Port) : (s.setPort i x).streams = s.streams := rfl
@[simp] theorem State.setPort_slots (i : Nat) (x : Port) : (s.setPort i x).slots = s.slots := rfl
@[simp] theorem State.setPort_ledgers (i : Nat) (x : Port) : (s.setPort i x).ledgers = s.ledgers := rfl
@[simp] theorem State.setPort_wheels (i : Nat) (x : Port) : (s.setPort i x).wheels = s.wheels := rfl
@[simp] theorem State.setPort_mailboxes (i : Nat) (x : Port) : (s.setPort i x).mailboxes = s.mailboxes := rfl
@[simp] theorem State.setPort_mbTaken (i : Nat) (x : Port) : (s.setPort i x).mbTaken = s.mbTaken := rfl
@[simp] theorem State.setPort_mbArea (i : Nat) (x : Port) : (s.setPort i x).mbArea = s.mbArea := rfl
@[simp] theorem State.setPort_component (i : Nat) (x : Port) : (s.setPort i x).component = s.component := rfl
@[simp] theorem State.setPort_msixTable (i : Nat) (x : Port) : (s.setPort i x).msixTable = s.msixTable := rfl
@[simp] theorem State.setPort_msixPending (i : Nat) (x : Port) : (s.setPort i x).msixPending = s.msixPending := rfl
@[simp] theorem State.setPort_spore (i : Nat) (x : Port) : (s.setPort i x).spore = s.spore := rfl
@[simp] theorem State.setPort_sporeOut (i : Nat) (x : Port) : (s.setPort i x).sporeOut = s.sporeOut := rfl
@[simp] theorem State.setPort_stopMsgs (i : Nat) (x : Port) : (s.setPort i x).stopMsgs = s.stopMsgs := rfl
@[simp] theorem State.setPort_hyphae (i : Nat) (x : Port) : (s.setPort i x).hyphae = s.hyphae := rfl
@[simp] theorem State.setPort_waits (i : Nat) (x : Port) : (s.setPort i x).waits = s.waits := rfl
@[simp] theorem State.setPort_lastScan (i : Nat) (x : Port) : (s.setPort i x).lastScan = s.lastScan := rfl
@[simp] theorem State.setPort_routes (i : Nat) (x : Port) : (s.setPort i x).routes = s.routes := rfl
@[simp] theorem State.setPort_pendingRoutes (i : Nat) (x : Port) : (s.setPort i x).pendingRoutes = s.pendingRoutes := rfl
@[simp] theorem State.setPort_clears (i : Nat) (x : Port) : (s.setPort i x).clears = s.clears := rfl
@[simp] theorem State.setPort_ports (i : Nat) (x : Port) : (s.setPort i x).ports = sput (fun _ => Port.reset) s.ports i x := rfl
@[simp] theorem State.setPort_pair (i : Nat) (x : Port) : (s.setPort i x).pair = s.pair := rfl
@[simp] theorem State.setPort_held (i : Nat) (x : Port) : (s.setPort i x).held = s.held := rfl
@[simp] theorem State.setPort_livePosted (i : Nat) (x : Port) : (s.setPort i x).livePosted = s.livePosted := rfl
@[simp] theorem State.setPort_power (i : Nat) (x : Port) : (s.setPort i x).power = s.power := rfl
@[simp] theorem State.setPort_pkg (i : Nat) (x : Port) : (s.setPort i x).pkg = s.pkg := rfl
@[simp] theorem State.setPort_indus (i : Nat) (x : Port) : (s.setPort i x).indus = s.indus := rfl
@[simp] theorem State.setPort_test (i : Nat) (x : Port) : (s.setPort i x).test = s.test := rfl
@[simp] theorem State.setPort_host (i : Nat) (x : Port) : (s.setPort i x).host = s.host := rfl

/-! ### setGen -/

@[simp] theorem State.setGen_pending (i : Nat) (v : Dword) : (s.setGen i v).pending = s.pending := rfl
@[simp] theorem State.setGen_freeCtr (i : Nat) (v : Dword) : (s.setGen i v).freeCtr = s.freeCtr := rfl
@[simp] theorem State.setGen_regs (i : Nat) (v : Dword) : (s.setGen i v).regs = s.regs := rfl
@[simp] theorem State.setGen_shadow (i : Nat) (v : Dword) : (s.setGen i v).shadow = s.shadow := rfl
@[simp] theorem State.setGen_snap (i : Nat) (v : Dword) : (s.setGen i v).snap = s.snap := rfl
@[simp] theorem State.setGen_tick (i : Nat) (v : Dword) : (s.setGen i v).tick = s.tick := rfl
@[simp] theorem State.setGen_mem (i : Nat) (v : Dword) : (s.setGen i v).mem = s.mem := rfl
@[simp] theorem State.setGen_poison (i : Nat) (v : Dword) : (s.setGen i v).poison = s.poison := rfl
@[simp] theorem State.setGen_flips (i : Nat) (v : Dword) : (s.setGen i v).flips = s.flips := rfl
@[simp] theorem State.setGen_devErr (i : Nat) (v : Dword) : (s.setGen i v).devErr = s.devErr := rfl
@[simp] theorem State.setGen_writebacks (i : Nat) (v : Dword) : (s.setGen i v).writebacks = s.writebacks := rfl
@[simp] theorem State.setGen_scrub (i : Nat) (v : Dword) : (s.setGen i v).scrub = s.scrub := rfl
@[simp] theorem State.setGen_blockTag (i : Nat) (v : Dword) : (s.setGen i v).blockTag = s.blockTag := rfl
@[simp] theorem State.setGen_hostMem (i : Nat) (v : Dword) : (s.setGen i v).hostMem = s.hostMem := rfl
@[simp] theorem State.setGen_hostBad (i : Nat) (v : Dword) : (s.setGen i v).hostBad = s.hostBad := rfl
@[simp] theorem State.setGen_fbuf (i : Nat) (v : Dword) : (s.setGen i v).fbuf = s.fbuf := rfl
@[simp] theorem State.setGen_fbufBad (i : Nat) (v : Dword) : (s.setGen i v).fbufBad = s.fbufBad := rfl
@[simp] theorem State.setGen_frondFlips (i : Nat) (v : Dword) : (s.setGen i v).frondFlips = s.frondFlips := rfl
@[simp] theorem State.setGen_acc (i : Nat) (v : Dword) : (s.setGen i v).acc = s.acc := rfl
@[simp] theorem State.setGen_imem (i : Nat) (v : Dword) : (s.setGen i v).imem = s.imem := rfl
@[simp] theorem State.setGen_shapeTab (i : Nat) (v : Dword) : (s.setGen i v).shapeTab = s.shapeTab := rfl
@[simp] theorem State.setGen_gens (i : Nat) (v : Dword) : (s.setGen i v).gens = sput (fun _ => genReset) s.gens i v := rfl
@[simp] theorem State.setGen_fronds (i : Nat) (v : Dword) : (s.setGen i v).fronds = s.fronds := rfl
@[simp] theorem State.setGen_parts (i : Nat) (v : Dword) : (s.setGen i v).parts = s.parts := rfl
@[simp] theorem State.setGen_streams (i : Nat) (v : Dword) : (s.setGen i v).streams = s.streams := rfl
@[simp] theorem State.setGen_slots (i : Nat) (v : Dword) : (s.setGen i v).slots = s.slots := rfl
@[simp] theorem State.setGen_ledgers (i : Nat) (v : Dword) : (s.setGen i v).ledgers = s.ledgers := rfl
@[simp] theorem State.setGen_wheels (i : Nat) (v : Dword) : (s.setGen i v).wheels = s.wheels := rfl
@[simp] theorem State.setGen_mailboxes (i : Nat) (v : Dword) : (s.setGen i v).mailboxes = s.mailboxes := rfl
@[simp] theorem State.setGen_mbTaken (i : Nat) (v : Dword) : (s.setGen i v).mbTaken = s.mbTaken := rfl
@[simp] theorem State.setGen_mbArea (i : Nat) (v : Dword) : (s.setGen i v).mbArea = s.mbArea := rfl
@[simp] theorem State.setGen_component (i : Nat) (v : Dword) : (s.setGen i v).component = s.component := rfl
@[simp] theorem State.setGen_msixTable (i : Nat) (v : Dword) : (s.setGen i v).msixTable = s.msixTable := rfl
@[simp] theorem State.setGen_msixPending (i : Nat) (v : Dword) : (s.setGen i v).msixPending = s.msixPending := rfl
@[simp] theorem State.setGen_spore (i : Nat) (v : Dword) : (s.setGen i v).spore = s.spore := rfl
@[simp] theorem State.setGen_sporeOut (i : Nat) (v : Dword) : (s.setGen i v).sporeOut = s.sporeOut := rfl
@[simp] theorem State.setGen_stopMsgs (i : Nat) (v : Dword) : (s.setGen i v).stopMsgs = s.stopMsgs := rfl
@[simp] theorem State.setGen_hyphae (i : Nat) (v : Dword) : (s.setGen i v).hyphae = s.hyphae := rfl
@[simp] theorem State.setGen_waits (i : Nat) (v : Dword) : (s.setGen i v).waits = s.waits := rfl
@[simp] theorem State.setGen_lastScan (i : Nat) (v : Dword) : (s.setGen i v).lastScan = s.lastScan := rfl
@[simp] theorem State.setGen_routes (i : Nat) (v : Dword) : (s.setGen i v).routes = s.routes := rfl
@[simp] theorem State.setGen_pendingRoutes (i : Nat) (v : Dword) : (s.setGen i v).pendingRoutes = s.pendingRoutes := rfl
@[simp] theorem State.setGen_clears (i : Nat) (v : Dword) : (s.setGen i v).clears = s.clears := rfl
@[simp] theorem State.setGen_ports (i : Nat) (v : Dword) : (s.setGen i v).ports = s.ports := rfl
@[simp] theorem State.setGen_pair (i : Nat) (v : Dword) : (s.setGen i v).pair = s.pair := rfl
@[simp] theorem State.setGen_held (i : Nat) (v : Dword) : (s.setGen i v).held = s.held := rfl
@[simp] theorem State.setGen_livePosted (i : Nat) (v : Dword) : (s.setGen i v).livePosted = s.livePosted := rfl
@[simp] theorem State.setGen_power (i : Nat) (v : Dword) : (s.setGen i v).power = s.power := rfl
@[simp] theorem State.setGen_pkg (i : Nat) (v : Dword) : (s.setGen i v).pkg = s.pkg := rfl
@[simp] theorem State.setGen_indus (i : Nat) (v : Dword) : (s.setGen i v).indus = s.indus := rfl
@[simp] theorem State.setGen_test (i : Nat) (v : Dword) : (s.setGen i v).test = s.test := rfl
@[simp] theorem State.setGen_host (i : Nat) (v : Dword) : (s.setGen i v).host = s.host := rfl

/-! ### setReg -/

@[simp] theorem State.setReg_pending (c i o : Nat) (v : Dword) : (s.setReg c i o v).pending = s.pending := rfl
@[simp] theorem State.setReg_freeCtr (c i o : Nat) (v : Dword) : (s.setReg c i o v).freeCtr = s.freeCtr := rfl
@[simp] theorem State.setReg_regs (c i o : Nat) (v : Dword) : (s.setReg c i o v).regs = sput regReset s.regs (regKey c i o) v := rfl
@[simp] theorem State.setReg_shadow (c i o : Nat) (v : Dword) : (s.setReg c i o v).shadow = s.shadow := rfl
@[simp] theorem State.setReg_snap (c i o : Nat) (v : Dword) : (s.setReg c i o v).snap = s.snap := rfl
@[simp] theorem State.setReg_tick (c i o : Nat) (v : Dword) : (s.setReg c i o v).tick = s.tick := rfl
@[simp] theorem State.setReg_mem (c i o : Nat) (v : Dword) : (s.setReg c i o v).mem = s.mem := rfl
@[simp] theorem State.setReg_poison (c i o : Nat) (v : Dword) : (s.setReg c i o v).poison = s.poison := rfl
@[simp] theorem State.setReg_flips (c i o : Nat) (v : Dword) : (s.setReg c i o v).flips = s.flips := rfl
@[simp] theorem State.setReg_devErr (c i o : Nat) (v : Dword) : (s.setReg c i o v).devErr = s.devErr := rfl
@[simp] theorem State.setReg_writebacks (c i o : Nat) (v : Dword) : (s.setReg c i o v).writebacks = s.writebacks := rfl
@[simp] theorem State.setReg_scrub (c i o : Nat) (v : Dword) : (s.setReg c i o v).scrub = s.scrub := rfl
@[simp] theorem State.setReg_blockTag (c i o : Nat) (v : Dword) : (s.setReg c i o v).blockTag = s.blockTag := rfl
@[simp] theorem State.setReg_hostMem (c i o : Nat) (v : Dword) : (s.setReg c i o v).hostMem = s.hostMem := rfl
@[simp] theorem State.setReg_hostBad (c i o : Nat) (v : Dword) : (s.setReg c i o v).hostBad = s.hostBad := rfl
@[simp] theorem State.setReg_fbuf (c i o : Nat) (v : Dword) : (s.setReg c i o v).fbuf = s.fbuf := rfl
@[simp] theorem State.setReg_fbufBad (c i o : Nat) (v : Dword) : (s.setReg c i o v).fbufBad = s.fbufBad := rfl
@[simp] theorem State.setReg_frondFlips (c i o : Nat) (v : Dword) : (s.setReg c i o v).frondFlips = s.frondFlips := rfl
@[simp] theorem State.setReg_acc (c i o : Nat) (v : Dword) : (s.setReg c i o v).acc = s.acc := rfl
@[simp] theorem State.setReg_imem (c i o : Nat) (v : Dword) : (s.setReg c i o v).imem = s.imem := rfl
@[simp] theorem State.setReg_shapeTab (c i o : Nat) (v : Dword) : (s.setReg c i o v).shapeTab = s.shapeTab := rfl
@[simp] theorem State.setReg_gens (c i o : Nat) (v : Dword) : (s.setReg c i o v).gens = s.gens := rfl
@[simp] theorem State.setReg_fronds (c i o : Nat) (v : Dword) : (s.setReg c i o v).fronds = s.fronds := rfl
@[simp] theorem State.setReg_parts (c i o : Nat) (v : Dword) : (s.setReg c i o v).parts = s.parts := rfl
@[simp] theorem State.setReg_streams (c i o : Nat) (v : Dword) : (s.setReg c i o v).streams = s.streams := rfl
@[simp] theorem State.setReg_slots (c i o : Nat) (v : Dword) : (s.setReg c i o v).slots = s.slots := rfl
@[simp] theorem State.setReg_ledgers (c i o : Nat) (v : Dword) : (s.setReg c i o v).ledgers = s.ledgers := rfl
@[simp] theorem State.setReg_wheels (c i o : Nat) (v : Dword) : (s.setReg c i o v).wheels = s.wheels := rfl
@[simp] theorem State.setReg_mailboxes (c i o : Nat) (v : Dword) : (s.setReg c i o v).mailboxes = s.mailboxes := rfl
@[simp] theorem State.setReg_mbTaken (c i o : Nat) (v : Dword) : (s.setReg c i o v).mbTaken = s.mbTaken := rfl
@[simp] theorem State.setReg_mbArea (c i o : Nat) (v : Dword) : (s.setReg c i o v).mbArea = s.mbArea := rfl
@[simp] theorem State.setReg_component (c i o : Nat) (v : Dword) : (s.setReg c i o v).component = s.component := rfl
@[simp] theorem State.setReg_msixTable (c i o : Nat) (v : Dword) : (s.setReg c i o v).msixTable = s.msixTable := rfl
@[simp] theorem State.setReg_msixPending (c i o : Nat) (v : Dword) : (s.setReg c i o v).msixPending = s.msixPending := rfl
@[simp] theorem State.setReg_spore (c i o : Nat) (v : Dword) : (s.setReg c i o v).spore = s.spore := rfl
@[simp] theorem State.setReg_sporeOut (c i o : Nat) (v : Dword) : (s.setReg c i o v).sporeOut = s.sporeOut := rfl
@[simp] theorem State.setReg_stopMsgs (c i o : Nat) (v : Dword) : (s.setReg c i o v).stopMsgs = s.stopMsgs := rfl
@[simp] theorem State.setReg_hyphae (c i o : Nat) (v : Dword) : (s.setReg c i o v).hyphae = s.hyphae := rfl
@[simp] theorem State.setReg_waits (c i o : Nat) (v : Dword) : (s.setReg c i o v).waits = s.waits := rfl
@[simp] theorem State.setReg_lastScan (c i o : Nat) (v : Dword) : (s.setReg c i o v).lastScan = s.lastScan := rfl
@[simp] theorem State.setReg_routes (c i o : Nat) (v : Dword) : (s.setReg c i o v).routes = s.routes := rfl
@[simp] theorem State.setReg_pendingRoutes (c i o : Nat) (v : Dword) : (s.setReg c i o v).pendingRoutes = s.pendingRoutes := rfl
@[simp] theorem State.setReg_clears (c i o : Nat) (v : Dword) : (s.setReg c i o v).clears = s.clears := rfl
@[simp] theorem State.setReg_ports (c i o : Nat) (v : Dword) : (s.setReg c i o v).ports = s.ports := rfl
@[simp] theorem State.setReg_pair (c i o : Nat) (v : Dword) : (s.setReg c i o v).pair = s.pair := rfl
@[simp] theorem State.setReg_held (c i o : Nat) (v : Dword) : (s.setReg c i o v).held = s.held := rfl
@[simp] theorem State.setReg_livePosted (c i o : Nat) (v : Dword) : (s.setReg c i o v).livePosted = s.livePosted := rfl
@[simp] theorem State.setReg_power (c i o : Nat) (v : Dword) : (s.setReg c i o v).power = s.power := rfl
@[simp] theorem State.setReg_pkg (c i o : Nat) (v : Dword) : (s.setReg c i o v).pkg = s.pkg := rfl
@[simp] theorem State.setReg_indus (c i o : Nat) (v : Dword) : (s.setReg c i o v).indus = s.indus := rfl
@[simp] theorem State.setReg_test (c i o : Nat) (v : Dword) : (s.setReg c i o v).test = s.test := rfl
@[simp] theorem State.setReg_host (c i o : Nat) (v : Dword) : (s.setReg c i o v).host = s.host := rfl

/-! ### setLedger -/

@[simp] theorem State.setLedger_pending (k : Nat) (l : Ledger) : (s.setLedger k l).pending = s.pending := rfl
@[simp] theorem State.setLedger_freeCtr (k : Nat) (l : Ledger) : (s.setLedger k l).freeCtr = s.freeCtr := rfl
@[simp] theorem State.setLedger_regs (k : Nat) (l : Ledger) : (s.setLedger k l).regs = s.regs := rfl
@[simp] theorem State.setLedger_shadow (k : Nat) (l : Ledger) : (s.setLedger k l).shadow = s.shadow := rfl
@[simp] theorem State.setLedger_snap (k : Nat) (l : Ledger) : (s.setLedger k l).snap = s.snap := rfl
@[simp] theorem State.setLedger_tick (k : Nat) (l : Ledger) : (s.setLedger k l).tick = s.tick := rfl
@[simp] theorem State.setLedger_mem (k : Nat) (l : Ledger) : (s.setLedger k l).mem = s.mem := rfl
@[simp] theorem State.setLedger_poison (k : Nat) (l : Ledger) : (s.setLedger k l).poison = s.poison := rfl
@[simp] theorem State.setLedger_flips (k : Nat) (l : Ledger) : (s.setLedger k l).flips = s.flips := rfl
@[simp] theorem State.setLedger_devErr (k : Nat) (l : Ledger) : (s.setLedger k l).devErr = s.devErr := rfl
@[simp] theorem State.setLedger_writebacks (k : Nat) (l : Ledger) : (s.setLedger k l).writebacks = s.writebacks := rfl
@[simp] theorem State.setLedger_scrub (k : Nat) (l : Ledger) : (s.setLedger k l).scrub = s.scrub := rfl
@[simp] theorem State.setLedger_blockTag (k : Nat) (l : Ledger) : (s.setLedger k l).blockTag = s.blockTag := rfl
@[simp] theorem State.setLedger_hostMem (k : Nat) (l : Ledger) : (s.setLedger k l).hostMem = s.hostMem := rfl
@[simp] theorem State.setLedger_hostBad (k : Nat) (l : Ledger) : (s.setLedger k l).hostBad = s.hostBad := rfl
@[simp] theorem State.setLedger_fbuf (k : Nat) (l : Ledger) : (s.setLedger k l).fbuf = s.fbuf := rfl
@[simp] theorem State.setLedger_fbufBad (k : Nat) (l : Ledger) : (s.setLedger k l).fbufBad = s.fbufBad := rfl
@[simp] theorem State.setLedger_frondFlips (k : Nat) (l : Ledger) : (s.setLedger k l).frondFlips = s.frondFlips := rfl
@[simp] theorem State.setLedger_acc (k : Nat) (l : Ledger) : (s.setLedger k l).acc = s.acc := rfl
@[simp] theorem State.setLedger_imem (k : Nat) (l : Ledger) : (s.setLedger k l).imem = s.imem := rfl
@[simp] theorem State.setLedger_shapeTab (k : Nat) (l : Ledger) : (s.setLedger k l).shapeTab = s.shapeTab := rfl
@[simp] theorem State.setLedger_gens (k : Nat) (l : Ledger) : (s.setLedger k l).gens = s.gens := rfl
@[simp] theorem State.setLedger_fronds (k : Nat) (l : Ledger) : (s.setLedger k l).fronds = s.fronds := rfl
@[simp] theorem State.setLedger_parts (k : Nat) (l : Ledger) : (s.setLedger k l).parts = s.parts := rfl
@[simp] theorem State.setLedger_streams (k : Nat) (l : Ledger) : (s.setLedger k l).streams = s.streams := rfl
@[simp] theorem State.setLedger_slots (k : Nat) (l : Ledger) : (s.setLedger k l).slots = s.slots := rfl
@[simp] theorem State.setLedger_ledgers (k : Nat) (l : Ledger) : (s.setLedger k l).ledgers = sput (fun _ => Ledger.zero) s.ledgers k l := rfl
@[simp] theorem State.setLedger_wheels (k : Nat) (l : Ledger) : (s.setLedger k l).wheels = s.wheels := rfl
@[simp] theorem State.setLedger_mailboxes (k : Nat) (l : Ledger) : (s.setLedger k l).mailboxes = s.mailboxes := rfl
@[simp] theorem State.setLedger_mbTaken (k : Nat) (l : Ledger) : (s.setLedger k l).mbTaken = s.mbTaken := rfl
@[simp] theorem State.setLedger_mbArea (k : Nat) (l : Ledger) : (s.setLedger k l).mbArea = s.mbArea := rfl
@[simp] theorem State.setLedger_component (k : Nat) (l : Ledger) : (s.setLedger k l).component = s.component := rfl
@[simp] theorem State.setLedger_msixTable (k : Nat) (l : Ledger) : (s.setLedger k l).msixTable = s.msixTable := rfl
@[simp] theorem State.setLedger_msixPending (k : Nat) (l : Ledger) : (s.setLedger k l).msixPending = s.msixPending := rfl
@[simp] theorem State.setLedger_spore (k : Nat) (l : Ledger) : (s.setLedger k l).spore = s.spore := rfl
@[simp] theorem State.setLedger_sporeOut (k : Nat) (l : Ledger) : (s.setLedger k l).sporeOut = s.sporeOut := rfl
@[simp] theorem State.setLedger_stopMsgs (k : Nat) (l : Ledger) : (s.setLedger k l).stopMsgs = s.stopMsgs := rfl
@[simp] theorem State.setLedger_hyphae (k : Nat) (l : Ledger) : (s.setLedger k l).hyphae = s.hyphae := rfl
@[simp] theorem State.setLedger_waits (k : Nat) (l : Ledger) : (s.setLedger k l).waits = s.waits := rfl
@[simp] theorem State.setLedger_lastScan (k : Nat) (l : Ledger) : (s.setLedger k l).lastScan = s.lastScan := rfl
@[simp] theorem State.setLedger_routes (k : Nat) (l : Ledger) : (s.setLedger k l).routes = s.routes := rfl
@[simp] theorem State.setLedger_pendingRoutes (k : Nat) (l : Ledger) : (s.setLedger k l).pendingRoutes = s.pendingRoutes := rfl
@[simp] theorem State.setLedger_clears (k : Nat) (l : Ledger) : (s.setLedger k l).clears = s.clears := rfl
@[simp] theorem State.setLedger_ports (k : Nat) (l : Ledger) : (s.setLedger k l).ports = s.ports := rfl
@[simp] theorem State.setLedger_pair (k : Nat) (l : Ledger) : (s.setLedger k l).pair = s.pair := rfl
@[simp] theorem State.setLedger_held (k : Nat) (l : Ledger) : (s.setLedger k l).held = s.held := rfl
@[simp] theorem State.setLedger_livePosted (k : Nat) (l : Ledger) : (s.setLedger k l).livePosted = s.livePosted := rfl
@[simp] theorem State.setLedger_power (k : Nat) (l : Ledger) : (s.setLedger k l).power = s.power := rfl
@[simp] theorem State.setLedger_pkg (k : Nat) (l : Ledger) : (s.setLedger k l).pkg = s.pkg := rfl
@[simp] theorem State.setLedger_indus (k : Nat) (l : Ledger) : (s.setLedger k l).indus = s.indus := rfl
@[simp] theorem State.setLedger_test (k : Nat) (l : Ledger) : (s.setLedger k l).test = s.test := rfl
@[simp] theorem State.setLedger_host (k : Nat) (l : Ledger) : (s.setLedger k l).host = s.host := rfl

/-! ### putByte -/

@[simp] theorem State.putByte_pending (a : Nat) (b : Byte) : (s.putByte a b).pending = s.pending := rfl
@[simp] theorem State.putByte_freeCtr (a : Nat) (b : Byte) : (s.putByte a b).freeCtr = s.freeCtr := rfl
@[simp] theorem State.putByte_regs (a : Nat) (b : Byte) : (s.putByte a b).regs = s.regs := rfl
@[simp] theorem State.putByte_shadow (a : Nat) (b : Byte) : (s.putByte a b).shadow = s.shadow := rfl
@[simp] theorem State.putByte_snap (a : Nat) (b : Byte) : (s.putByte a b).snap = s.snap := rfl
@[simp] theorem State.putByte_tick (a : Nat) (b : Byte) : (s.putByte a b).tick = s.tick := rfl
@[simp] theorem State.putByte_mem (a : Nat) (b : Byte) : (s.putByte a b).mem = sput (fun _ => 0) s.mem a b := rfl
@[simp] theorem State.putByte_poison (a : Nat) (b : Byte) : (s.putByte a b).poison = s.poison := rfl
@[simp] theorem State.putByte_flips (a : Nat) (b : Byte) : (s.putByte a b).flips = s.flips := rfl
@[simp] theorem State.putByte_devErr (a : Nat) (b : Byte) : (s.putByte a b).devErr = s.devErr := rfl
@[simp] theorem State.putByte_writebacks (a : Nat) (b : Byte) : (s.putByte a b).writebacks = s.writebacks := rfl
@[simp] theorem State.putByte_scrub (a : Nat) (b : Byte) : (s.putByte a b).scrub = s.scrub := rfl
@[simp] theorem State.putByte_blockTag (a : Nat) (b : Byte) : (s.putByte a b).blockTag = s.blockTag := rfl
@[simp] theorem State.putByte_hostMem (a : Nat) (b : Byte) : (s.putByte a b).hostMem = s.hostMem := rfl
@[simp] theorem State.putByte_hostBad (a : Nat) (b : Byte) : (s.putByte a b).hostBad = s.hostBad := rfl
@[simp] theorem State.putByte_fbuf (a : Nat) (b : Byte) : (s.putByte a b).fbuf = s.fbuf := rfl
@[simp] theorem State.putByte_fbufBad (a : Nat) (b : Byte) : (s.putByte a b).fbufBad = s.fbufBad := rfl
@[simp] theorem State.putByte_frondFlips (a : Nat) (b : Byte) : (s.putByte a b).frondFlips = s.frondFlips := rfl
@[simp] theorem State.putByte_acc (a : Nat) (b : Byte) : (s.putByte a b).acc = s.acc := rfl
@[simp] theorem State.putByte_imem (a : Nat) (b : Byte) : (s.putByte a b).imem = s.imem := rfl
@[simp] theorem State.putByte_shapeTab (a : Nat) (b : Byte) : (s.putByte a b).shapeTab = s.shapeTab := rfl
@[simp] theorem State.putByte_gens (a : Nat) (b : Byte) : (s.putByte a b).gens = s.gens := rfl
@[simp] theorem State.putByte_fronds (a : Nat) (b : Byte) : (s.putByte a b).fronds = s.fronds := rfl
@[simp] theorem State.putByte_parts (a : Nat) (b : Byte) : (s.putByte a b).parts = s.parts := rfl
@[simp] theorem State.putByte_streams (a : Nat) (b : Byte) : (s.putByte a b).streams = s.streams := rfl
@[simp] theorem State.putByte_slots (a : Nat) (b : Byte) : (s.putByte a b).slots = s.slots := rfl
@[simp] theorem State.putByte_ledgers (a : Nat) (b : Byte) : (s.putByte a b).ledgers = s.ledgers := rfl
@[simp] theorem State.putByte_wheels (a : Nat) (b : Byte) : (s.putByte a b).wheels = s.wheels := rfl
@[simp] theorem State.putByte_mailboxes (a : Nat) (b : Byte) : (s.putByte a b).mailboxes = s.mailboxes := rfl
@[simp] theorem State.putByte_mbTaken (a : Nat) (b : Byte) : (s.putByte a b).mbTaken = s.mbTaken := rfl
@[simp] theorem State.putByte_mbArea (a : Nat) (b : Byte) : (s.putByte a b).mbArea = s.mbArea := rfl
@[simp] theorem State.putByte_component (a : Nat) (b : Byte) : (s.putByte a b).component = s.component := rfl
@[simp] theorem State.putByte_msixTable (a : Nat) (b : Byte) : (s.putByte a b).msixTable = s.msixTable := rfl
@[simp] theorem State.putByte_msixPending (a : Nat) (b : Byte) : (s.putByte a b).msixPending = s.msixPending := rfl
@[simp] theorem State.putByte_spore (a : Nat) (b : Byte) : (s.putByte a b).spore = s.spore := rfl
@[simp] theorem State.putByte_sporeOut (a : Nat) (b : Byte) : (s.putByte a b).sporeOut = s.sporeOut := rfl
@[simp] theorem State.putByte_stopMsgs (a : Nat) (b : Byte) : (s.putByte a b).stopMsgs = s.stopMsgs := rfl
@[simp] theorem State.putByte_hyphae (a : Nat) (b : Byte) : (s.putByte a b).hyphae = s.hyphae := rfl
@[simp] theorem State.putByte_waits (a : Nat) (b : Byte) : (s.putByte a b).waits = s.waits := rfl
@[simp] theorem State.putByte_lastScan (a : Nat) (b : Byte) : (s.putByte a b).lastScan = s.lastScan := rfl
@[simp] theorem State.putByte_routes (a : Nat) (b : Byte) : (s.putByte a b).routes = s.routes := rfl
@[simp] theorem State.putByte_pendingRoutes (a : Nat) (b : Byte) : (s.putByte a b).pendingRoutes = s.pendingRoutes := rfl
@[simp] theorem State.putByte_clears (a : Nat) (b : Byte) : (s.putByte a b).clears = s.clears := rfl
@[simp] theorem State.putByte_ports (a : Nat) (b : Byte) : (s.putByte a b).ports = s.ports := rfl
@[simp] theorem State.putByte_pair (a : Nat) (b : Byte) : (s.putByte a b).pair = s.pair := rfl
@[simp] theorem State.putByte_held (a : Nat) (b : Byte) : (s.putByte a b).held = s.held := rfl
@[simp] theorem State.putByte_livePosted (a : Nat) (b : Byte) : (s.putByte a b).livePosted = s.livePosted := rfl
@[simp] theorem State.putByte_power (a : Nat) (b : Byte) : (s.putByte a b).power = s.power := rfl
@[simp] theorem State.putByte_pkg (a : Nat) (b : Byte) : (s.putByte a b).pkg = s.pkg := rfl
@[simp] theorem State.putByte_indus (a : Nat) (b : Byte) : (s.putByte a b).indus = s.indus := rfl
@[simp] theorem State.putByte_test (a : Nat) (b : Byte) : (s.putByte a b).test = s.test := rfl
@[simp] theorem State.putByte_host (a : Nat) (b : Byte) : (s.putByte a b).host = s.host := rfl

/-! ### areaWrite -/

@[simp] theorem State.areaWrite_pending (o : Nat) (bs : List Byte) : (s.areaWrite o bs).pending = s.pending := rfl
@[simp] theorem State.areaWrite_freeCtr (o : Nat) (bs : List Byte) : (s.areaWrite o bs).freeCtr = s.freeCtr := rfl
@[simp] theorem State.areaWrite_regs (o : Nat) (bs : List Byte) : (s.areaWrite o bs).regs = s.regs := rfl
@[simp] theorem State.areaWrite_shadow (o : Nat) (bs : List Byte) : (s.areaWrite o bs).shadow = s.shadow := rfl
@[simp] theorem State.areaWrite_snap (o : Nat) (bs : List Byte) : (s.areaWrite o bs).snap = s.snap := rfl
@[simp] theorem State.areaWrite_tick (o : Nat) (bs : List Byte) : (s.areaWrite o bs).tick = s.tick := rfl
@[simp] theorem State.areaWrite_mem (o : Nat) (bs : List Byte) : (s.areaWrite o bs).mem = s.mem := rfl
@[simp] theorem State.areaWrite_poison (o : Nat) (bs : List Byte) : (s.areaWrite o bs).poison = s.poison := rfl
@[simp] theorem State.areaWrite_flips (o : Nat) (bs : List Byte) : (s.areaWrite o bs).flips = s.flips := rfl
@[simp] theorem State.areaWrite_devErr (o : Nat) (bs : List Byte) : (s.areaWrite o bs).devErr = s.devErr := rfl
@[simp] theorem State.areaWrite_writebacks (o : Nat) (bs : List Byte) : (s.areaWrite o bs).writebacks = s.writebacks := rfl
@[simp] theorem State.areaWrite_scrub (o : Nat) (bs : List Byte) : (s.areaWrite o bs).scrub = s.scrub := rfl
@[simp] theorem State.areaWrite_blockTag (o : Nat) (bs : List Byte) : (s.areaWrite o bs).blockTag = s.blockTag := rfl
@[simp] theorem State.areaWrite_hostMem (o : Nat) (bs : List Byte) : (s.areaWrite o bs).hostMem = s.hostMem := rfl
@[simp] theorem State.areaWrite_hostBad (o : Nat) (bs : List Byte) : (s.areaWrite o bs).hostBad = s.hostBad := rfl
@[simp] theorem State.areaWrite_fbuf (o : Nat) (bs : List Byte) : (s.areaWrite o bs).fbuf = s.fbuf := rfl
@[simp] theorem State.areaWrite_fbufBad (o : Nat) (bs : List Byte) : (s.areaWrite o bs).fbufBad = s.fbufBad := rfl
@[simp] theorem State.areaWrite_frondFlips (o : Nat) (bs : List Byte) : (s.areaWrite o bs).frondFlips = s.frondFlips := rfl
@[simp] theorem State.areaWrite_acc (o : Nat) (bs : List Byte) : (s.areaWrite o bs).acc = s.acc := rfl
@[simp] theorem State.areaWrite_imem (o : Nat) (bs : List Byte) : (s.areaWrite o bs).imem = s.imem := rfl
@[simp] theorem State.areaWrite_shapeTab (o : Nat) (bs : List Byte) : (s.areaWrite o bs).shapeTab = s.shapeTab := rfl
@[simp] theorem State.areaWrite_gens (o : Nat) (bs : List Byte) : (s.areaWrite o bs).gens = s.gens := rfl
@[simp] theorem State.areaWrite_fronds (o : Nat) (bs : List Byte) : (s.areaWrite o bs).fronds = s.fronds := rfl
@[simp] theorem State.areaWrite_parts (o : Nat) (bs : List Byte) : (s.areaWrite o bs).parts = s.parts := rfl
@[simp] theorem State.areaWrite_streams (o : Nat) (bs : List Byte) : (s.areaWrite o bs).streams = s.streams := rfl
@[simp] theorem State.areaWrite_slots (o : Nat) (bs : List Byte) : (s.areaWrite o bs).slots = s.slots := rfl
@[simp] theorem State.areaWrite_ledgers (o : Nat) (bs : List Byte) : (s.areaWrite o bs).ledgers = s.ledgers := rfl
@[simp] theorem State.areaWrite_wheels (o : Nat) (bs : List Byte) : (s.areaWrite o bs).wheels = s.wheels := rfl
@[simp] theorem State.areaWrite_mailboxes (o : Nat) (bs : List Byte) : (s.areaWrite o bs).mailboxes = s.mailboxes := rfl
@[simp] theorem State.areaWrite_mbTaken (o : Nat) (bs : List Byte) : (s.areaWrite o bs).mbTaken = s.mbTaken := rfl
@[simp] theorem State.areaWrite_mbArea (o : Nat) (bs : List Byte) : (s.areaWrite o bs).mbArea = sputs (fun _ => (0 : Byte)) s.mbArea o bs := rfl
@[simp] theorem State.areaWrite_component (o : Nat) (bs : List Byte) : (s.areaWrite o bs).component = s.component := rfl
@[simp] theorem State.areaWrite_msixTable (o : Nat) (bs : List Byte) : (s.areaWrite o bs).msixTable = s.msixTable := rfl
@[simp] theorem State.areaWrite_msixPending (o : Nat) (bs : List Byte) : (s.areaWrite o bs).msixPending = s.msixPending := rfl
@[simp] theorem State.areaWrite_spore (o : Nat) (bs : List Byte) : (s.areaWrite o bs).spore = s.spore := rfl
@[simp] theorem State.areaWrite_sporeOut (o : Nat) (bs : List Byte) : (s.areaWrite o bs).sporeOut = s.sporeOut := rfl
@[simp] theorem State.areaWrite_stopMsgs (o : Nat) (bs : List Byte) : (s.areaWrite o bs).stopMsgs = s.stopMsgs := rfl
@[simp] theorem State.areaWrite_hyphae (o : Nat) (bs : List Byte) : (s.areaWrite o bs).hyphae = s.hyphae := rfl
@[simp] theorem State.areaWrite_waits (o : Nat) (bs : List Byte) : (s.areaWrite o bs).waits = s.waits := rfl
@[simp] theorem State.areaWrite_lastScan (o : Nat) (bs : List Byte) : (s.areaWrite o bs).lastScan = s.lastScan := rfl
@[simp] theorem State.areaWrite_routes (o : Nat) (bs : List Byte) : (s.areaWrite o bs).routes = s.routes := rfl
@[simp] theorem State.areaWrite_pendingRoutes (o : Nat) (bs : List Byte) : (s.areaWrite o bs).pendingRoutes = s.pendingRoutes := rfl
@[simp] theorem State.areaWrite_clears (o : Nat) (bs : List Byte) : (s.areaWrite o bs).clears = s.clears := rfl
@[simp] theorem State.areaWrite_ports (o : Nat) (bs : List Byte) : (s.areaWrite o bs).ports = s.ports := rfl
@[simp] theorem State.areaWrite_pair (o : Nat) (bs : List Byte) : (s.areaWrite o bs).pair = s.pair := rfl
@[simp] theorem State.areaWrite_held (o : Nat) (bs : List Byte) : (s.areaWrite o bs).held = s.held := rfl
@[simp] theorem State.areaWrite_livePosted (o : Nat) (bs : List Byte) : (s.areaWrite o bs).livePosted = s.livePosted := rfl
@[simp] theorem State.areaWrite_power (o : Nat) (bs : List Byte) : (s.areaWrite o bs).power = s.power := rfl
@[simp] theorem State.areaWrite_pkg (o : Nat) (bs : List Byte) : (s.areaWrite o bs).pkg = s.pkg := rfl
@[simp] theorem State.areaWrite_indus (o : Nat) (bs : List Byte) : (s.areaWrite o bs).indus = s.indus := rfl
@[simp] theorem State.areaWrite_test (o : Nat) (bs : List Byte) : (s.areaWrite o bs).test = s.test := rfl
@[simp] theorem State.areaWrite_host (o : Nat) (bs : List Byte) : (s.areaWrite o bs).host = s.host := rfl

/-! ### Updates that are one of these -/

@[simp] theorem State.modFrond_eq (f : Nat) (g : Frond → Frond) : s.modFrond f g = s.setFrond f (g (s.frond f)) := rfl
@[simp] theorem State.modPart_eq (p : Nat) (g : Partition → Partition) : s.modPart p g = s.setPart p (g (s.part p)) := rfl
@[simp] theorem State.modPort_eq (i : Nat) (g : Port → Port) : s.modPort i g = s.setPort i (g (s.port i)) := rfl
@[simp] theorem State.setBit_eq (c i o b : Nat) : s.setBit c i o b = s.setReg c i o (s.reg c i o ||| (1#64 <<< b)) := rfl
@[simp] theorem State.count32_eq (c i o n : Nat) :
    s.count32 c i o n = s.setReg c i o (BitVec.ofNat 64 (((s.reg c i o).toNat + n) % 2 ^ 32)) := rfl
@[simp] theorem State.count64_eq (c i o n : Nat) :
    s.count64 c i o n = s.setReg c i o (s.reg c i o + BitVec.ofNat 64 n) := rfl
@[simp] theorem State.freeNat_fst : s.freeNat.1 = Config.freeNat s.freeCtr := rfl
@[simp] theorem State.freeNat_snd : s.freeNat.2 = { s with freeCtr := s.freeCtr + 1 } := rfl
@[simp] theorem State.freeBool_fst : s.freeBool.1 = Config.freeBool s.freeCtr := rfl
@[simp] theorem State.freeBool_snd : s.freeBool.2 = { s with freeCtr := s.freeCtr + 1 } := rfl
@[simp] theorem State.freeBits_fst (w : Nat) : (s.freeBits w).1 = Config.freeBits w s.freeCtr := rfl
@[simp] theorem State.freeBits_snd (w : Nat) : (s.freeBits w).2 = { s with freeCtr := s.freeCtr + 1 } := rfl

/-! ### Reads after writes -/

variable {s}

theorem State.frond_setFrond (f g : Nat) (x : Frond) (h : swf (fun _ => Frond.reset) s.fronds = true) :
    (s.setFrond f x).frond g = if g = f then x else s.frond g := sget_sput g f x h

theorem State.part_setPart (p q : Nat) (x : Partition) (h : swf (fun _ => Partition.reset) s.parts = true) :
    (s.setPart p x).part q = if q = p then x else s.part q := sget_sput q p x h

theorem State.stream_setStream (i j : Nat) (x : Option Stream) (h : swf (fun _ => none) s.streams = true) :
    (s.setStream i x).stream j = if j = i then x else s.stream j := sget_sput j i x h

theorem State.slot_setSlot (i j : Nat) (x : Option MaskSlot) (h : swf (fun _ => none) s.slots = true) :
    (s.setSlot i x).slot j = if j = i then x else s.slot j := sget_sput j i x h

theorem State.mailbox_setMailbox (m n : Nat) (x : Mailbox) (h : swf (fun _ => Mailbox.reset) s.mailboxes = true) :
    (s.setMailbox m x).mailbox n = if n = m then x else s.mailbox n := sget_sput n m x h

theorem State.port_setPort (i j : Nat) (x : Port) (h : swf (fun _ => Port.reset) s.ports = true) :
    (s.setPort i x).port j = if j = i then x else s.port j := sget_sput j i x h

theorem State.gen_setGen (i j : Nat) (v : Dword) (h : swf (fun _ => genReset) s.gens = true) :
    (s.setGen i v).gen j = if j = i then v else s.gen j := sget_sput j i v h

theorem State.ledger_setLedger (i j : Nat) (l : Ledger) (h : swf (fun _ => Ledger.zero) s.ledgers = true) :
    (s.setLedger i l).ledger j = if j = i then l else s.ledger j := sget_sput j i l h

theorem State.byteAt_putByte (a b : Nat) (v : Byte) (h : swf (fun _ => (0 : Byte)) s.mem = true) :
    (s.putByte a v).byteAt b = if b = a then v else s.byteAt b := sget_sput b a v h

/-- Registers at different keys do not share storage. -/
theorem State.reg_setReg (c i o c' i' o' : Nat) (v : Dword) (h : swf regReset s.regs = true) :
    (s.setReg c i o v).reg c' i' o' = if regKey c' i' o' = regKey c i o then v else s.reg c' i' o' :=
  sget_sput _ _ v h

/-- Inside the windows two registers have the same key only if they are the same register. -/
theorem regKey_inj {c i o c' i' o' : Nat} (hi : i < 256) (hi' : i' < 256) (ho : o < 0x100000) (ho' : o' < 0x100000) :
    regKey c i o = regKey c' i' o' ↔ c = c' ∧ i = i' ∧ o = o' := by
  unfold regKey; omega

end Sys2Proof.Machine
end

