-- ==== Sys2Proof/Laws/Memory.lean ====
section
/-! SUPPORT. Device memory: that counting, reporting and reading leave it alone, that every write keeps its canonical
form, and that a write reaches only the 64-byte units it names. -/

namespace Sys2Proof.Machine

variable (s : State)

/-! ### Operations that change no memory -/

@[simp] theorem State.post_mem (p : Option Nat) (k c i : Nat) (d : List Item) : (s.post p k c i d).mem = s.mem := rfl

@[simp] theorem State.cleanUnit_mem (u : Nat) : (s.cleanUnit u).mem = s.mem := rfl

@[simp] theorem State.poisonUnit_mem (u : Nat) : (s.poisonUnit u).mem = s.mem := rfl

@[simp] theorem State.countFlag_mem (c i o n b : Nat) : (s.countFlag c i o n b).mem = s.mem := by
  unfold State.countFlag; split <;> simp

@[simp] theorem State.ledMake_mem (p c o n : Nat) : (s.ledMake p c o n).mem = s.mem := rfl

@[simp] theorem State.ledTake_mem (p c o n : Nat) : (s.ledTake p c o n).mem = s.mem := rfl

@[simp] theorem State.logRecord_mem (p : Nat) (r : BitVec 256) : (s.logRecord p r).mem = s.mem := by
  unfold State.logRecord; split <;> simp

@[simp] theorem State.suspect_mem (p : Nat) (r : Report) : (s.suspect p r).mem = s.mem := by
  unfold State.suspect; split <;> simp

@[simp] theorem State.postRecord_mem (r : Report) (b : Bool) : (s.postRecord r b).mem = s.mem := by
  unfold State.postRecord; dsimp only; split <;> simp

@[simp] theorem State.markUnit_mem (c i k : Nat) : (s.markUnit c i k).mem = s.mem := by
  unfold State.markUnit; split
  · rfl
  · dsimp only; split <;> simp

@[simp] theorem State.raiseReport_mem (r : Report) : (s.raiseReport r).mem = s.mem := by simp [State.raiseReport]

@[simp] theorem State.raiseVector_mem (v : Nat) : (s.raiseVector v).mem = s.mem := by
  unfold State.raiseVector; split <;> rfl

@[simp] theorem State.setGlobalFault_mem (b : Nat) : (s.setGlobalFault b).mem = s.mem := by
  unfold State.setGlobalFault; dsimp only; split <;> simp

@[simp] theorem State.raiseStop_mem (p : Nat) (r : Report) (e : Bool) : (s.raiseStop p r e).mem = s.mem := by
  unfold State.raiseStop; dsimp only
  split
  · simp
  · split <;> simp

@[simp] theorem State.descFault_mem (p a b c d e f : Nat) : (s.descFault p a b c d e f).mem = s.mem := by
  simp [State.descFault]

@[simp] theorem State.raiseUnc_mem (p c i d : Nat) (b : Nat × Nat) : (s.raiseUnc p c i d b).mem = s.mem := by
  simp [State.raiseUnc]

@[simp] theorem State.raiseOverflow_mem (p k a c i d : Nat) : (s.raiseOverflow p k a c i d).mem = s.mem := by
  simp [State.raiseOverflow]

@[simp] theorem State.noteUnit_mem (u : Nat) (c : UnitCheck) : (s.noteUnit u c).mem = s.mem := by
  unfold State.noteUnit
  dsimp only
  repeat' split
  all_goals simp

@[simp] theorem State.countUnit_mem (p : Option Nat) (w h : Bool) (u n : Nat) : (s.countUnit p w h u n).mem = s.mem := by
  unfold State.countUnit
  dsimp only
  repeat' split
  all_goals simp

theorem foldl_mem {β : Type} (f : State → β → State) (h : ∀ s b, (f s b).mem = s.mem) (l : List β) (s : State) :
    (l.foldl f s).mem = s.mem := by
  induction l generalizing s with
  | nil => rfl
  | cons b l ih => rw [List.foldl, ih, h]

@[simp] theorem State.protectWriteOf_mem (p a : Nat) : (s.protectWriteOf p a).mem = s.mem := by
  unfold State.protectWriteOf
  split
  · rfl
  · refine foldl_mem _ (fun s b => ?_) _ _
    dsimp only
    repeat' split
    all_goals simp

@[simp] theorem State.protectWrite_mem (a : Nat) : (s.protectWrite a).mem = s.mem := by
  refine foldl_mem _ (fun s e => ?_) _ _
  split <;> simp

/-- A read changes no memory. -/
@[simp] theorem State.readPhys_mem (p : Option Nat) (as : List Nat) : (s.readPhys p as).state.mem = s.mem := by
  refine foldl_mem _ (fun s c => ?_) _ _
  simp

@[simp] theorem State.readFor_mem (p c i d : Nat) (as : List Nat) : (s.readFor p c i d as).1.mem = s.mem := by
  unfold State.readFor
  split
  · simp
  · dsimp only; split <;> simp

/-! ### Writes -/

theorem putCells_wf (cs : List (Nat × Byte)) {m : List Host.Cell} (w : Memory.wf m = true) : Memory.wf (putCells m cs) = true := by
  induction cs generalizing m with
  | nil => exact w
  | cons c cs ih => exact ih (swf_sput c.1 c.2 w)

/-- Cells reach only their own addresses. -/
theorem putCells_other (cs : List (Nat × Byte)) {m : List Host.Cell} {a : Nat} (w : Memory.wf m = true)
    (h : ∀ c ∈ cs, c.1 ≠ a) : sget (fun _ => (0 : Byte)) (putCells m cs) a = sget (fun _ => 0) m a := by
  induction cs generalizing m with
  | nil => rfl
  | cons c cs ih =>
    rw [putCells, ih (swf_sput c.1 c.2 w) (fun x hx => h x (List.mem_cons_of_mem _ hx)),
      sget_sput_ne c.2 w (fun e => h c List.mem_cons_self e.symm)]

/-- Whatever keeps memory canonical at every step of a fold keeps it canonical. -/
theorem foldl_mem_wf {β : Type} (f : State → β → State) (h : ∀ s b, Memory.wf s.mem = true → Memory.wf (f s b).mem = true)
    (l : List β) (s : State) (w : Memory.wf s.mem = true) : Memory.wf (l.foldl f s).mem = true := by
  induction l generalizing s with
  | nil => exact w
  | cons b l ih => exact ih _ (h s b w)

theorem State.mendWord_wf (k : Nat) (w : Memory.wf s.mem = true) : Memory.wf (s.mendWord k).mem = true := by
  unfold State.mendWord
  dsimp only
  split
  · next d _ _ =>
    show Memory.wf (if d = 0 then s.mem else _) = true
    split
    · exact w
    · have H : ∀ (l : List Nat) (m : List Host.Cell), Memory.wf m = true → Memory.wf (l.foldl (fun m b =>
          sput (fun _ => (0 : Byte)) m (4 * k + b) (sget (fun _ => (0 : Byte)) m (4 * k + b) ^^^ (d >>> (8 * b)).setWidth 8)) m) = true := by
        intro l
        induction l with
        | nil => intro m w; exact w
        | cons b l ih => intro m w; exact ih _ (swf_sput _ _ w)
      exact H _ _ w
  · exact w

/-- A write-back of corrected words keeps memory canonical. -/
theorem State.writeBack_wf (u : Nat) (w : Memory.wf s.mem = true) : Memory.wf (s.writeBack u).mem = true := by
  have h := foldl_mem_wf (fun s i => s.mendWord (16 * u + i)) (fun s b w => s.mendWord_wf _ w) (List.range 16) s w
  unfold State.writeBack
  dsimp only
  split <;> exact h

/-- What writing one unit does to memory: its cells are written, alone or over the corrected unit, or it is refused. -/
theorem State.writeUnit_cases (p : Option Nat) (h : Bool) (u : Nat) (cells : List (Nat × Byte)) :
    (s.writeUnit p h u cells).1.mem = putCells s.mem cells ∨ (s.writeUnit p h u cells).1.mem = s.mem ∨
      ∃ x : State, x.mem = s.mem ∧ (s.writeUnit p h u cells).1.mem = putCells (x.writeBack u).mem cells := by
  unfold State.writeUnit
  dsimp only
  split
  · left; simp
  · split
    · right; left; split <;> simp
    · right; right
      refine ⟨_, ?_, rfl⟩
      split <;> simp

theorem State.writeUnit_wf (p : Option Nat) (h : Bool) (u : Nat) (cells : List (Nat × Byte)) (w : Memory.wf s.mem = true) :
    Memory.wf (s.writeUnit p h u cells).1.mem = true := by
  rcases s.writeUnit_cases p h u cells with e | e | ⟨x, hx, e⟩ <;> rw [e]
  · exact putCells_wf _ w
  · exact w
  · exact putCells_wf _ (x.writeBack_wf u (hx ▸ w))

/-- Every write of the machine's ports keeps memory canonical. -/
theorem State.writePhys_wf (p : Option Nat) (cells : List (Nat × Byte)) (w : Memory.wf s.mem = true) :
    Memory.wf (s.writePhys p cells).state.mem = true := by
  have H : ∀ (us : List Nat) (r : WriteResult) (f : Nat → List (Nat × Byte)) (g : Nat → Bool), Memory.wf r.state.mem = true →
      Memory.wf (us.foldl (fun r u =>
        let (s', bad) := r.state.writeUnit p (g u) u (f u)
        { state := s', refused := r.refused.orElse fun _ => bad.map fun k => (u, k) }) r).state.mem = true := by
    intro us
    induction us with
    | nil => intro r f g hr; exact hr
    | cons u us ih => intro r f g hr; exact ih _ f g (r.state.writeUnit_wf p _ u _ hr)
  exact H _ _ (fun u => cells.filter fun c => c.1 / 64 == u) _ w

theorem State.writeFor_wf (p c i d : Nat) (cells : List (Nat × Byte)) (w : Memory.wf s.mem = true) :
    Memory.wf (s.writeFor p c i d cells).1.mem = true := by
  unfold State.writeFor
  dsimp only
  split <;> split <;> simp [State.writePhys_wf, w]

theorem State.putByte_wf (a : Nat) (b : Byte) (w : Memory.wf s.mem = true) : Memory.wf (s.putByte a b).mem = true :=
  swf_sput a b w

/-- Memory is canonical at reset. -/
theorem reset_mem_wf : Memory.wf State.reset.mem = true := rfl

end Sys2Proof.Machine
end

