-- ==== Sys2Proof/Laws/Rows.lean ====
section
/-! SUPPORT. What each shape of row can answer, said once: a row over a numbered unit, a descriptor, a completion, a
vector instruction, a mailbox command. The statements about single commands cite these and unfold none. -/

namespace Sys2Proof.Machine

variable {s t : State}

/-- A row over a unit runs exactly on units of the numbering. -/
@[simp] theorem onUnit_next {b : Bool} {u : State} : onUnit b u = .next t ↔ b = true ∧ u = t := by
  cases b <;> simp [onUnit]

theorem onUnit_refused {b : Bool} {u : State} {r : Refusal} : onUnit b u ≠ .refused r := by
  cases b <;> simp [onUnit]

/-- A descriptor row runs exactly on a frond that exists, with fields inside their maps. -/
theorem issueRowWith_next {i : Issue} {is : Nat → Bool} {wf : Bool} {ready : Nat → State → Option Wait} {skip run : Run} :
    issueRowWith s i is wf ready skip run = .next t ↔
      i.frond < 128 ∧ i.wf = true ∧ wf = true ∧ ((s.strike i.strikes).showAll i.reports).issueWith i is ready skip run = t := by
  unfold issueRowWith
  by_cases h1 : i.frond < 128 <;> by_cases h2 : i.wf = true <;> by_cases h3 : wf = true <;> simp [h1, h2, h3]

theorem issueRow_next {i : Issue} {is : Nat → Bool} {wf : Bool} {ready : Nat → State → Option Wait} {run : Run} :
    issueRow s i is wf ready run = .next t ↔ i.frond < 128 ∧ i.wf = true ∧ wf = true ∧
      ((s.strike i.strikes).showAll i.reports).issueWith i is ready skipNow run = t := issueRowWith_next

/-- Everything that presenting a descriptor can do: nothing, a wait recorded, a place in the queue taken, a hold behind
what it waits for, or its issue, skipped or run, with its engine holding it or not. -/
theorem State.issueWith_cases {i : Issue} {is : Nat → Bool} {ready : Nat → State → Option Wait} {skip run : Run}
    (h : s.issueWith i is ready skip run = t) :
    (s.workOf i.frond = none ∧ t = s) ∨
    ∃ p, s.workOf i.frond = some p ∧
      (((s.frond i.frond).gate i is = .stay ∧ t = s) ∨
       (∃ w, (s.frond i.frond).gate i is = .hold w ∧ t = s.waitOn i.frond i.seq w) ∨
       ((s.frond i.frond).gate i is = .place ∧ t = s.place i p) ∨
       (∃ w, (s.frond i.frond).gate i is = .fetchWaits w ∧ t = s.waitOn i.frond .fetch w) ∨
       ∃ pass head, (s.frond i.frond).gate i is = .go pass head ∧
         ((∃ w, ready p s = some w ∧ t = s.holdIssue i p head w) ∨
          (ready p s = none ∧ ∃ r : State × Option JobBody,
            (let u := (s.took i p pass head).modFrond i.frond fun x => { x with nextId := x.nextId + 1 }
             r = if (u.part p).skips i then skip p pass (s.frond i.frond).nextId (u.countSkip p)
                 else run p pass (s.frond i.frond).nextId u) ∧
            ((r.2 = none ∧ t = r.1) ∨ ∃ b, r.2 = some b ∧ t = r.1.addJob i pass (s.frond i.frond).nextId b)))) := by
  unfold State.issueWith at h
  split at h
  · next hw => exact .inl ⟨hw, h.symm⟩
  · next p hw =>
    refine .inr ⟨p, hw, ?_⟩
    split at h
    · next hg => exact .inl ⟨hg, h.symm⟩
    · next w hg => exact .inr (.inl ⟨w, hg, h.symm⟩)
    · next hg => exact .inr (.inr (.inl ⟨hg, h.symm⟩))
    · next w hg => exact .inr (.inr (.inr (.inl ⟨w, hg, h.symm⟩)))
    · next pass head hg =>
      refine .inr (.inr (.inr (.inr ⟨pass, head, hg, ?_⟩)))
      split at h
      · next w hr => exact .inl ⟨w, hr, h.symm⟩
      · next hr =>
        refine .inr ⟨hr, _, rfl, ?_⟩
        dsimp only at h
        split at h
        · next hn => exact .inl ⟨hn, h.symm⟩
        · next b hb => exact .inr ⟨b, hb, h.symm⟩

/-- A completion row: nothing without its job; otherwise what completion does, and the job is dropped. -/
theorem completeRow_next {f id : Nat} {done : Job → State → Option State} :
    completeRow s f id done = .next t ↔ f < 128 ∧
      (((s.frond f).job id = none ∧ t = s) ∨
       ∃ j, (s.frond f).job id = some j ∧
         ((done j s = none ∧ t = s) ∨ ∃ u, done j s = some u ∧ t = u.endJob f id)) := by
  unfold completeRow
  rw [onUnit_next, decide_eq_true_eq]
  refine and_congr_right fun _ => ?_
  cases hj : (s.frond f).job id with
  | none => exact ⟨fun h => .inl ⟨rfl, h.symm⟩, fun h => h.elim (·.2.symm) fun ⟨_, h, _⟩ => by cases h⟩
  | some j =>
    dsimp only
    cases hd : done j s with
    | none =>
      refine ⟨fun h => .inr ⟨j, rfl, .inl ⟨hd, h.symm⟩⟩, fun h => ?_⟩
      rcases h with ⟨h, _⟩ | ⟨k, h, ⟨_, e⟩ | ⟨u, h', _⟩⟩
      · cases h
      · exact e.symm
      · cases h; simp [hd] at h'
    | some u =>
      refine ⟨fun h => .inr ⟨j, rfl, .inr ⟨u, hd, h.symm⟩⟩, fun h => ?_⟩
      rcases h with ⟨h, _⟩ | ⟨k, h, ⟨h', _⟩ | ⟨v, h', e⟩⟩
      · cases h
      · cases h; simp [hd] at h'
      · cases h; rw [hd, Option.some.injEq] at h'; subst h'; exact e.symm

/-- A mailbox row: nothing unless its command waits in the mailbox; ACCEPTED when it is held back; otherwise its answer. -/
theorem linsoRow_next {m op : Nat} {form : Taken → Bool} {run : Taken → State → State} :
    linsoRow m op form run s = .next t ↔ m < 17 ∧
      (((s.mailbox m).outstanding = none ∧ t = s) ∨
       ∃ c, (s.mailbox m).outstanding = some c ∧
         t = if c.opcode == op && form c && !c.begun then (if s.heldBehind m c then s.acceptHeld m c else run c s)
             else s) := by
  unfold linsoRow
  rw [onUnit_next, decide_eq_true_eq]
  refine and_congr_right fun _ => ?_
  cases hm : (s.mailbox m).outstanding with
  | none => exact ⟨fun h => .inl ⟨rfl, h.symm⟩, fun h => h.elim (·.2.symm) fun ⟨_, h, _⟩ => by cases h⟩
  | some c => exact ⟨fun h => .inr ⟨c, rfl, h.symm⟩, fun h => h.elim (fun ⟨h, _⟩ => by cases h) fun ⟨d, hd, e⟩ => by
      cases hd; exact e.symm⟩

/-- A vector row: it faults on a frond outside the numbering and on reserved codes; without a partition, or when it is not
the next instruction of a kernel that runs, only the errors of its stores come up; an instruction that cannot be read stops
it; otherwise the engine counts its cycles, steps to the next instruction and has its effect. -/
theorem vrow_next {f op n : Nat} {v : VFields} {ok : Bool} {body : Nat → State → State} :
    vrow f op v n ok s body = .next t ↔ f < 128 ∧ v.wf = true ∧ ok = true ∧
      (let s := s.strike v.strikes
       (s.workOf f = none ∧ s = t) ∨ ∃ p, s.workOf f = some p ∧
        (s.vecUnread p f = some t ∨ s.vecUnread p f = none ∧
          ((s.vecNext f op v = false ∧ s = t) ∨
           (s.vecNext f op v = true ∧
             body p (((s.countStalls (ownBank f .vector) v.contests).count64 clsFrond f 0x1118 n).modFrond f fun x =>
               { x with vec := { x.vec with pc := (x.vec.pc + 1) % 8192 } }) = t)))) := by
  unfold vrow
  dsimp only
  by_cases hf : f < 128 <;> cases v.wf <;> cases ok <;> simp [hf]
  cases (s.strike v.strikes).workOf f with
  | none => simp
  | some p =>
    cases hu : (s.strike v.strikes).vecUnread p f <;> cases hn : (s.strike v.strikes).vecNext f op v <;> simp [hu]

end Sys2Proof.Machine
end

