-- ==== Sys2Proof/Tests/Slice0.lean ====
section
/-! SUPPORT. Tests on fixed values: the well-formedness checks, single commands against values worked out by hand from the
manual, and for each obligation states and operands that meet its hypotheses. -/

namespace Sys2Proof.Machine.Tests

open Sys2Proof Sys2Proof.Machine

set_option Elab.async false

/-! ### Small states -/

/-- The canonical form of every store as one test. -/
def canonB (s : State) : Bool :=
  Memory.wf s.mem && swf (fun _ => false) s.poison && swf (fun _ => (0 : BitVec 40)) s.flips &&
  swf (fun _ => (0 : Byte)) s.hostMem && swf (fun _ => (0 : Byte)) s.fbuf && swf (fun _ => (0 : Dword)) s.acc &&
  swf regReset s.regs && swf (fun _ => genReset) s.gens && swf (fun _ => Frond.reset) s.fronds &&
  swf (fun _ => Partition.reset) s.parts && swf (fun _ => none) s.streams && swf (fun _ => none) s.slots &&
  swf (fun _ => Ledger.zero) s.ledgers && swf (fun _ => Mailbox.reset) s.mailboxes && swf (fun _ => (0 : Byte)) s.mbArea &&
  swf (fun _ => Port.reset) s.ports && swf (fun _ => 0) s.power.current && swf (fun _ => 0) s.power.temps &&
  swf (fun _ => 0) s.scrub && swf (fun _ => 0) s.devErr && swf (fun _ => false) s.hostBad && swf (fun _ => false) s.fbufBad &&
  swf (fun _ => (0 : BitVec 40)) s.frondFlips && swf (fun _ => (0 : Dword)) s.imem && swf (fun _ => (0 : BitVec 512)) s.shapeTab &&
  swf (fun _ => (0 : Byte)) s.component

theorem canon_of {s : State} (h : canonB s = true) : s.Canonical := by
  simp only [canonB, Bool.and_eq_true] at h
  obtain ⟨⟨⟨⟨⟨⟨⟨⟨⟨⟨⟨⟨⟨⟨⟨⟨⟨⟨⟨⟨⟨⟨⟨⟨⟨a, b⟩, c⟩, d⟩, e⟩, f⟩, g⟩, i⟩, j⟩, k⟩, l⟩, m⟩, n⟩, o⟩, p⟩, q⟩, r⟩, t⟩, u⟩, v⟩, w⟩, x⟩, y⟩, z⟩, a'⟩, b'⟩ := h
  exact ⟨a, b, c, d, e, f, g, i, j, k, l, m, n, o, p, q, r, t, u, v, w, x, y, z, a', b'⟩

theorem bufSound_of {s : State} {f : Nat} {as : List Nat} (hb : s.fbufBad = []) (hf : s.frondFlips = [])
    (h : ∀ a ∈ as, a < frondBytes) : s.BufSound f as :=
  fun a ha => ⟨h a ha, by simp [State.bufCause, hb, hf]⟩

theorem range_lt {lo n b : Nat} (h : lo + n ≤ b) : ∀ a ∈ rangeFrom lo n, a < b := by
  intro a ha
  have := List.mem_range'_1.mp ha
  omega

theorem checkUnit_clean {s : State} (hp : s.poison = []) (hf : s.flips = []) (hd : s.devErr = []) (u : Nat) : (s.checkUnit u).cause = none := by
  unfold State.checkUnit
  have h : ∀ d : Bool, readWord d 0 = .data 0 false false := by decide
  simp only [hp, hf, State.devErrOf, hd, sget, h]
  generalize ((storeOf (u * 64)).1 == clsChannel) = d
  cases d <;> rfl

theorem readByte_clean {s : State} (hf : s.flips = []) (y : Nat) : s.readByte y = sget (fun _ => (0 : Byte)) s.mem y := by
  unfold State.readByte
  rw [hf]
  generalize hd : ((storeOf y).1 == clsChannel) = d
  have h : ∀ d : Bool, readWord d 0 = .data 0 false false := by decide
  simp only [sget, h, State.byteAt]
  simp

/-- Cells of a little-endian number from an address, its zero bytes left out. -/
def word (a n v : Nat) : List Host.Cell := ((rangeFrom a n).zip (leBytes n v)).filter fun c => c.2 != 0

/-- A plan whose resume area lies at the start of memory; the protection table there has one dense entry of 64 bytes at
0x4000, mirrored and in the snapshot, which goes to host memory at 0x10000. -/
def planP : Plan := { (default : Plan) with resumeAddr := 0, resumable := true, programHash := 5, frameTicks := 1, framesPerStep := 1 }

/-- A plan of frond 0 with a loss-scale record and two shard records. -/
def planS : Plan := { planP with fronds := 1, tickPeriod := State.reset.tick.period.toNat, lossScaleAddr := 0x2000, shards := [0x3000, 0x3040] }

/-- A command taken from a mailbox, with argument byte 0 naming `b`. -/
def cmd (op b : Nat) (args : List Byte) : Taken :=
  { opcode := op, irq := false, seq := 1, tag := 0, args := leBytes 8 b ++ args, begun := false }

/-- The state with a command outstanding in mailbox 0. -/
def posted (c : Taken) (s : State) : State :=
  { s with mailboxes := sput (fun _ => Mailbox.reset) s.mailboxes 0 { Mailbox.reset with outstanding := some c }, mbTaken := [0] }

/-- The state with partition 0 in a state, holding frond 0. -/
def within0 (st : PState) (s : State) : State :=
  s.setPart 0 { Partition.reset with state := st, fronds := 1, ownerTag := 7 }

/-- A package that has booted: firmware running, link up, memory on. -/
def booted : State :=
  { State.reset with pkg := { State.reset.pkg with fwState := 3, coldBoot := false, half0Ready := true, half1Ready := true
                                                   linkUp := true, memActive := true, perst := false } }

/-! ### Well-formedness: each check refuses a term that is ill-formed in that one field -/

/-- A fetch header of frond 0. -/
def hd : Issue :=
  { frond := 0, seq := .fetch, streamId := 0, fence := false, frameEnd := false, addr := 0x1000, cls := 0xF, dim := 0,
    origin := 0, contests := [], cycles := 0, upset := none, served := 0 }

/-- An execute header of frond 0. -/
def hx : Issue := { hd with seq := .execute }

theorem test_issue_wf : hd.wf = true ∧ ([{ hd with streamId := 65536 }, { hd with addr := 0x1020 }, { hd with addr := 2 ^ 48 },
    { hd with cls := 16 }, { hd with dim := 8 }, { hd with origin := 2 ^ 24 }].any Issue.wf) = false := by decide

def mv : MoveBody :=
  { srcAddr := 0, srcFrond := 0, srcSpace := false, srcRel := false, srcLayout := 0, srcSwz := 0, dstAddr := 0, dstFrond := 0,
    dstSpace := false, dstRel := false, dstLayout := 0, dstSwz := 0, srcScaleAddr := 0, dstScaleAddr := 0, shape := 0,
    srcFmt := 6, dstFmt := 6, numctl := 0, padValue := 0, unaligned := false, slot4 := false, passes := 0, pieceRole := false,
    scaleSupplied := false }

theorem test_move_wf : mv.wf = true ∧ ([{ mv with srcAddr := 2 ^ 48 }, { mv with srcFrond := 128 }, { mv with srcLayout := 1 },
    { mv with srcSwz := 8 }, { mv with dstAddr := 2 ^ 48 }, { mv with dstFrond := 128 }, { mv with dstLayout := 3 },
    { mv with dstSwz := 8 }, { mv with srcScaleAddr := 2 ^ 48 }, { mv with dstScaleAddr := 2 ^ 48 }, { mv with shape := 256 },
    { mv with srcFmt := 16 }, { mv with dstFmt := 16 }, { mv with numctl := 256 }, { mv with padValue := 65536 },
    { mv with passes := 3 }].any MoveBody.wf) = false := by decide

def mc : MulticastBody := { srcAddr := 0, dstAddr := 0, length := 64, destMask := 1, streamed := false }

theorem test_multicast_wf : mc.wf = true ∧ ([{ mc with srcAddr := 32 }, { mc with dstAddr := 32 }, { mc with length := 0 },
    { mc with length := 4194304 }, { mc with length := 96 }, { mc with destMask := 0 }].any MulticastBody.wf) = false := by decide

def ga : GatherBody :=
  { srcAddr := 0, srcStride := 64, fmt := 6, panel := 0, rows := 1, scaleAddr := 0, cols := 1, map := 0, scaleKind := false,
    listAddr := 0, listLen := 0, swzTileAddr := 0, swzUse := false, swzKind := false }

theorem test_gather_wf : ga.wf = true ∧ ([{ ga with srcAddr := 1 }, { ga with srcStride := 32 }, { ga with fmt := 8 },
    { ga with panel := 2 }, { ga with rows := 0 }, { ga with rows := 513 }, { ga with scaleAddr := 1 }, { ga with cols := 129 },
    { ga with map := 4 }, { ga with listAddr := 1 }, { ga with listLen := 513 }, { ga with swzTileAddr := 1 }].any
    GatherBody.wf) = false := by decide

def dt : DenseBody :=
  { aAddr := 0, bAddr := 0x1000, fmtA := 6, fmtB := 6, accMode := 0, passes := 0, bank := 0, accumulate := false, split := 0,
    sub := 0, kBlocks := 1, rowsValid := 1, colsValid := 1, aScaleAddr := 0, bScaleAddr := 0 }

theorem test_dense_wf : dt.wf = true ∧ ([{ dt with aAddr := 128 }, { dt with bAddr := 128 }, { dt with fmtA := 9 },
    { dt with fmtB := 9 }, { dt with accMode := 3 }, { dt with passes := 3 }, { dt with bank := 2 }, { dt with split := 4 },
    { dt with sub := 1 }, { dt with kBlocks := 0 }, { dt with kBlocks := 4096 }, { dt with rowsValid := 129 },
    { dt with split := 1, rowsValid := 65 }, { dt with colsValid := 0 }, { dt with aScaleAddr := 64 },
    { dt with bScaleAddr := 64 }].any DenseBody.wf) = false := by decide

def sp : SparseBody :=
  { tileAddr := 0, fmtW := 6, fmtAct := 6, panel := 0, dir := false, quarter := 0, bank := 0, accumulate := false, accMode := 0,
    intersect := false, gbUse := false, demote := false, colsValid := 1 }

theorem test_sparse_wf : sp.wf = true ∧ ([{ sp with tileAddr := 1 }, { sp with fmtW := 8 }, { sp with fmtAct := 8 },
    { sp with panel := 2 }, { sp with quarter := 1 }, { sp with dir := true, quarter := 4 }, { sp with bank := 2 },
    { sp with accMode := 2 }, { sp with colsValid := 0 }].any SparseBody.wf) = false := by decide

def sm : SampledBody :=
  { tileAddr := 0, fmtStat := 6, fmtSrv := 6, panel := 0, dir := false, quarter := 0, accumulate := false, outW := false,
    numctl := 0, colsValid := 1, statAddr := 0, statStride := 64, statScaleAddr := 0, outAddr := 0 }

theorem test_sampled_wf : sm.wf = true ∧ ([{ sm with tileAddr := 1 }, { sm with fmtStat := 8 }, { sm with fmtSrv := 8 },
    { sm with panel := 2 }, { sm with quarter := 1 }, { sm with accumulate := true, outW := true }, { sm with numctl := 256 },
    { sm with colsValid := 129 }, { sm with statAddr := 128 }, { sm with statStride := 32 }, { sm with statScaleAddr := 1 },
    { sm with outAddr := 1 }].any SampledBody.wf) = false := by decide

def dr : DrainBody :=
  { outAddr := 0, outFmt := 6, bank := 0, sub := 0, split := 0, numctl := 0, epiOp := 0, epiFmt := 0, maskGate := false,
    rowsValid := 1, colsValid := 1, epiAddr := 0, maskAddr := 0, outStride := 256, outScale := 0, epiStride := 0,
    outScaleAddr := 0 }

theorem test_drain_wf : dr.wf = true ∧ ([{ dr with outAddr := 1 }, { dr with outFmt := 11 }, { dr with bank := 2 },
    { dr with sub := 1 }, { dr with split := 4 }, { dr with numctl := 256 }, { dr with epiOp := 3 },
    { dr with epiOp := 1, epiFmt := 5 }, { dr with epiFmt := 16 }, { dr with rowsValid := 0 }, { dr with colsValid := 0 },
    { dr with epiAddr := 1 }, { dr with maskAddr := 1 }, { dr with outStride := 1 }, { dr with epiStride := 1 },
    { dr with outScaleAddr := 1 }].any DrainBody.wf) = false := by decide

def ve : VecBody := { entry := 0, numctl := 0, arg1 := 1, arg2 := 2, arg3 := 3, arg4 := 4, arg5 := 5, arg6 := 6 }

theorem test_vec_wf : ve.wf = true ∧ ([{ ve with entry := 8192 }, { ve with numctl := 256 }].any VecBody.wf) = false := by decide

def up : UpdateBody :=
  { policy := 0, firstTile := 0, tileCount := 1, dense := false, phase := 0, closeStep := false, gradW48 := false,
    rescale := false, numctl := 0, shardAddr := 0, gradAddr := 0, healthAddr := 0, sumAddr := 0, regionAddr := 0, count := 0,
    denseCols := 0, copyFmt := 0, freezePresent := false }

theorem test_update_wf : up.wf = true ∧ ([{ up with policy := 256 }, { up with firstTile := 2 ^ 20 }, { up with tileCount := 2 ^ 20 },
    { up with phase := 3 }, { up with numctl := 256 }, { up with shardAddr := 32 }, { up with gradAddr := 1 },
    { up with healthAddr := 16 }, { up with sumAddr := 1 }, { up with regionAddr := 1 }, { up with count := 2 ^ 32 },
    { up with denseCols := 2 ^ 22 }, { up with copyFmt := 3 }].any UpdateBody.wf) = false := by decide

def sw : SemWaitBody := { target := 0, plainSem := 0, count := 1 }
def sg : SemSignalBody := { target := 0, holdAll := false, plainSem := 0, destFrond := 0, count := 1 }
def tk : TicketBody := { bodyCount := 1, counterAddr := 0 }

theorem test_semaphores_wf : (sw.wf && sg.wf && tk.wf) = true ∧
    ([{ sw with target := 3 }, { sw with plainSem := 16 }, { sw with count := 0 }, { sw with count := 65536 }].any SemWaitBody.wf ||
     [{ sg with target := 3 }, { sg with plainSem := 16 }, { sg with destFrond := 128 }, { sg with count := 0 }].any SemSignalBody.wf ||
     [{ tk with bodyCount := 0 }, { tk with bodyCount := 256 }, { tk with counterAddr := 32 }].any TicketBody.wf) = false := by
  decide

def pr : PruneBody := { policy := 0, firstTile := 0, tileCount := 1, method := 1, perRow := false, param := 1, cutAddr := 0 }
def rg : RegrowBody :=
  { policy := 0, firstTile := 0, tileCount := 1, scoreB32 := true, perRow := false, fillAware := false, fillBand := 0, k := 1,
    scoreAddr := 0 }
def cm : CommitBody := { policy := 0, firstTile := 0, tileCount := 1, freezeOp := 0, fillAware := false, freezeSrc := 0 }

theorem test_masks_wf : (pr.wf && rg.wf && cm.wf) = true ∧
    ([{ pr with policy := 256 }, { pr with firstTile := 2 ^ 20 }, { pr with tileCount := 0 }, { pr with method := 3 },
      { pr with method := 0, perRow := true }, { pr with param := 2 ^ 32 }, { pr with param := 0 },
      { pr with method := 0, param := 0x7F800000 }, { pr with method := 2 }, { pr with method := 2, param := 0, cutAddr := 1 },
      { pr with cutAddr := 64 }].any PruneBody.wf ||
     [{ rg with policy := 256 }, { rg with firstTile := 2 ^ 20 }, { rg with tileCount := 0 }, { rg with fillBand := 1 },
      { rg with fillAware := true, fillBand := 16 }, { rg with k := 0 }, { rg with k := 2 ^ 32 },
      { rg with scoreAddr := 1 }].any RegrowBody.wf ||
     [{ cm with policy := 256 }, { cm with firstTile := 2 ^ 20 }, { cm with tileCount := 0 }, { cm with freezeOp := 4 },
      { cm with freezeSrc := 64 }, { cm with freezeOp := 1, freezeSrc := 1 }].any CommitBody.wf) = false := by decide

def sd : SendBody :=
  { srcAddr := 0, fmt := 8, length := 64, dstChip := 2, dstPartition := 0, channel := 0, withHealth := false, healthAddr := 0 }
def rv : RecvBody :=
  { dstAddr := 0, fmt := 8, length := 64, op := 0, srcChip := 2, srcPartition := 0, channel := 0, withHealth := false,
    healthAddr := 0, localAddr := 0, outAddr := 0, outFmt := 0, numctl := 0 }

theorem test_collectives_wf : (sd.wf && rv.wf) = true ∧
    ([{ sd with srcAddr := 1 }, { sd with fmt := 7 }, { sd with length := 0 }, { sd with length := 96 },
      { sd with length := 1048640 }, { sd with dstChip := 65536 }, { sd with dstPartition := 16 }, { sd with channel := 256 },
      { sd with healthAddr := 16 }].any SendBody.wf ||
     [{ rv with dstAddr := 1 }, { rv with fmt := 10 }, { rv with length := 0 }, { rv with op := 2 }, { rv with srcChip := 65536 },
      { rv with srcPartition := 16 }, { rv with channel := 256 }, { rv with healthAddr := 16 }, { rv with localAddr := 64 },
      { rv with outAddr := 64 }, { rv with outFmt := 6 }, { rv with op := 1, outFmt := 5 }, { rv with numctl := 256 }].any
      RecvBody.wf) = false := by decide

/-! ### Hypotheses that are met: the queue, the tick and the stores -/

def tickArgs : List Byte := leBytes 4 2000 ++ leBytes 4 0

theorem witness_OnlyTickConfigChangesThePeriod :
    (∃ t, exec .trstAssert State.reset = .next t) ∧
    (posted (cmd 0x50 0xFF tickArgs) (within0 .running booted)).Canonical ∧
    (posted (cmd 0x50 0xFF tickArgs) (within0 .running booted)).Presents 0 0x50 (cmd 0x50 0xFF tickArgs) ∧
    ((posted (cmd 0x50 0xFF tickArgs) (within0 .running booted)).part 0).state = .running ∧
    (cmd 0x50 0xFF tickArgs).arg 8 4 = 2000 ∧ (cmd 0x50 0xFF tickArgs).arg 12 1 ≤ 2 ∧ (cmd 0x50 0xFF tickArgs).arg 13 1 ≤ 15 ∧
    booted.ticking = true ∧ ({ booted with pkg := { booted.pkg with clocksStopped := true } } : State).ticking = false ∧
    ({ booted with pkg := { booted.pkg with pwrOk := false } } : State).pkg.pwrOk = false ∧ State.reset.pkg.pwrOk = true ∧
    (({ State.reset with pkg := { State.reset.pkg with perst := false } } : State).pkg.perst = false ∧ State.reset.pkg.coldBoot = true) ∧
    (({ booted with pkg := { booted.pkg with warmRequested := true } } : State).pkg.warmRequested = true ∧ booted.pkg.pwrOk = true ∧
      booted.pkg.inWarmReset = false ∧ booted.pkg.thermalTrip = false) :=
  ⟨⟨_, rfl⟩, canon_of (by decide +kernel), by constructor <;> decide +kernel, by decide +kernel, by decide +kernel,
    by decide +kernel, by decide +kernel, by decide +kernel, by decide +kernel, rfl, rfl, ⟨rfl, rfl⟩, by decide +kernel⟩

theorem witness_StepKeepsTheTickPeriodLegal : booted.PeriodLegal ∧ step booted = .next booted :=
  ⟨⟨by decide, by decide⟩, rfl⟩

theorem witness_StepKeepsStoresCanonical : booted.Canonical ∧ step booted = .next booted :=
  ⟨canon_of (by decide +kernel), rfl⟩

theorem witness_StepKeepsFrondStoresCanonical :
    booted.Canonical ∧ (∀ f, (booted.frond f).Canonical) ∧ step booted = .next booted :=
  ⟨canon_of (by decide +kernel), fun _ => by constructor <;> rfl, rfl⟩

/-- Over SMBus with the connection negotiated, a certificate slot, and an endpoint ID. -/
def talking (ss : List Session) : State :=
  { booted with indus := { booted.indus with eidSmbus := some 9, i3cAddr := some 5, certSet := true, fuses := 0, sessions := ss
                                             smbus := { version := true, capabilities := true, algorithms := true, exchange := true } } }

theorem witness_TestPortAndEndpointsAct :
    State.reset.pkg.pwrOk = true ∧ (talking []).fwRuns = true ∧ (1 : Byte) ≠ 0 ∧ (0xFE : Byte) ≠ 0xFF ∧
    booted.pkg.pwrOk = true ∧ booted.pkg.inWarmReset = false ∧ (talking []).indus.i3cAddr = some 5 ∧
    booted.indus.eidSmbus = none := by decide +kernel

def sess (e : Bool) : Session := { id := 0, transport := .smbus, established := e, keyUpdates := 0 }

theorem witness_SpdmRequestsAreAnswered :
    0 < (talking []).indus.chain.length ∧
    (talking []).spdmServed .smbus = true ∧ ((talking []).indus.connection .smbus).version = true ∧
    ((talking []).indus.connection .smbus).algorithms = true ∧ (talking []).indus.certSet = true ∧
    (talking []).indus.lifecycle ≠ 3 ∧ ((talking []).indus.connection .smbus).exchange = true ∧
    (talking []).indus.meas.length = 21 ∧ (talking []).indus.sessions.length < 4 ∧
    4 ≤ (talking [sess true, sess true, sess true, sess true]).indus.sessions.length ∧
    (talking [sess false]).indus.session .smbus 0 = some (sess false) ∧
    (talking [sess true]).indus.session .smbus 0 = some (sess true) ∧
    booted.spdmServed .doe = true ∧
    (talking [{ sess true with transport := .doe }]).indus.session .doe 0 = some { sess true with transport := .doe } :=
  ⟨by simp [Indusium.chain, leBytes], by decide +kernel⟩

/-! ### Hypotheses that are met: power, clocks and resets -/

theorem witness_GovernorKeepsItsRatesAndCaps : booted.Canonical ∧ 15 < (if true then 16 else 128) ∧ 127 < (if false then 16 else 128) ∧
    (∀ f, f < 128 → booted.currentOf f ≤ 22000) ∧ (∀ u, u < 16 → booted.currentOf (128 + u) ≤ 11000) :=
  ⟨canon_of (by decide +kernel), by decide, by decide, by decide +kernel, by decide +kernel⟩

/-- A package whose power block is in a given state. -/
def powered (f : Power → Power) : State := { booted with power := f booted.power }

theorem witness_HalvingBeginsStepsAndEnds :
    (powered fun w => { w with detected := some 2 }).Canonical ∧
    (powered fun w => { w with detected := some 2 }).tick.guardOpen = false ∧
    (powered fun w => { w with detected := some 2 }).power.detected = some 2 ∧
    ({ booted with tick := { booted.tick with guardOpen := true } } : State).tick.guardOpen = true ∧
    ((powered fun w => { w with direction := 1, step := 7 }).power.direction = 1 ∧
      (powered fun w => { w with direction := 1, step := 7 }).power.step < 8) ∧
    ((powered fun w => { w with direction := -1, step := 2 }).power.direction = -1 ∧
      1 < (powered fun w => { w with direction := -1, step := 2 }).power.step) ∧
    (powered fun w => { w with direction := -1, step := 1 }).power.step ≤ 1 ∧
    ((powered fun w => { w with step := 8, causes := [4], temps := [(0, 839)] }).power.step ≠ 0 ∧
      4 ∈ (powered fun w => { w with step := 8, causes := [4], temps := [(0, 839)] }).power.causes ∧
      ∀ e ∈ (powered fun w => { w with step := 8, causes := [4], temps := [(0, 839)] }).power.temps, e.2 < 840) :=
  ⟨canon_of (by decide +kernel), by decide +kernel⟩

theorem witness_SensorsAct : booted.Canonical ∧ ((-300 : Int) ≤ -300 ∧ (500 : Int) ≤ 500 ∧ 1500 ≤ 1500 ∧ 1500 < 1501) ∧
    booted.power.step = 0 ∧ booted.power.direction = 0 ∧ booted.power.detected = none ∧ ((500 : Int) < 501 ∧ (-301 : Int) < -300) ∧
    (15 < 16 ∧ 15 / 8 = 1) ∧ booted.pkg.thermalTrip = false ∧ ((within0 .running booted).part 0).active = true :=
  ⟨canon_of (by decide +kernel), by decide +kernel⟩

def coldState : State := { State.reset with pkg := { State.reset.pkg with perst := false } }

theorem witness_PowerPinsResetThePackage :
    ({ State.reset with pkg := { State.reset.pkg with pwrOk := false } } : State).pkg.pwrOk = false ∧
    coldState.pkg.pwrOk = true ∧ coldState.pkg.perst = false ∧ coldState.pkg.coldBoot = true ∧
    State.reset.pkg.perst = true := by decide +kernel

def warmDue : State := { within0 .running booted with pkg := { booted.pkg with perst := false, warmRequested := true } }

theorem witness_WarmResetsAndReferencesActOnThePackage :
    warmDue.Canonical ∧ warmDue.pkg.pwrOk = true ∧ warmDue.pkg.inWarmReset = false ∧ warmDue.pkg.perst = false ∧
    warmDue.pkg.coldBoot = false ∧ (warmDue.part 0).active = true ∧ warmDue.pkg.warmRequested = true ∧
    warmDue.pkg.thermalTrip = false ∧
    ({ booted with pkg := { booted.pkg with lostRefs := [.system] } } : State).pkg.lostRefs.contains .system = true :=
  ⟨canon_of (by decide +kernel), by decide +kernel⟩

/-! ### Hypotheses that are met: ticks, waits, faults and recovery -/


/-- An external tick source. -/
def extern (src : BitVec 2) (hold : Bool) : State :=
  { booted with tick := { booted.tick with source := src, beaconPort := 15, holdover := hold }
                ports := [(15, { Port.reset with state := 2 })] }

/-- Port 15 sends beacons, and the guard is open. -/
def beaconing : State :=
  { (extern 0 false).setReg 7 15 0x110C 3 with tick := { booted.tick with guardOpen := true } }

theorem witness_TickEdgesCountAndGuardsSnapshot :
    booted.ticking = true ∧ booted.tick.guardOpen = false ∧
    (beaconing.ticking = true ∧ beaconing.tick.guardOpen = true ∧ 15 < 16 ∧ beaconing.portUp 15 = true ∧
      (beaconing.reg clsPort 15 offPlnCtrl).getLsbD 1 = true) ∧
    ({ booted with pkg := { booted.pkg with clocksStopped := true } } : State).ticking = false := by decide +kernel

theorem witness_ExternalTicksAreTracked :
    (extern 1 false).tick.source = 1 ∧ booted.tick.source ≠ 1 ∧ (15 < 16 ∧ (extern 2 false).tick.source = 2) ∧
    (extern 2 false).tick.beaconPort.toNat = 15 ∧ (extern 2 false).portUp 15 = true ∧
    ((extern 1 false).tick.source ≠ 0 ∧ (extern 1 false).tick.holdover = false) ∧ (extern 1 true).tick.holdover = true := by
  decide +kernel

/-- The sequencers of frond 0 wait on each other, and the scan before this one found them. -/
def deadlock : State :=
  { (within0 .running booted).setFrond 0 { Frond.reset with fetch := { Sequencer.idle with wait := some .queue } } with
    waits := [{ frond := 0, seq := .fetch, object := 0xC000, holders := [(0, .execute)] },
              { frond := 0, seq := .execute, object := 0xC000, holders := [(0, .fetch)] }]
    lastScan := [(0, [(0, .fetch), (0, .execute)])] }

theorem witness_WaitsAreReportedAndScanned :
    deadlock.Canonical ∧ deadlock.workOf 0 = some 0 ∧ deadlock.waitObject 0 .fetch = some 0xC000 ∧
    (deadlock.part 0).sound = true ∧ (deadlock.scan 0).1 ≠ [] ∧ (deadlock.part 15).sound = false :=
  ⟨canon_of (by decide +kernel), by decide +kernel⟩

def stopSent (st : PState) : State := { within0 st booted with stopMsgs := [0] }

theorem witness_StopMessagesFaultThePartition :
    (stopSent .running).Canonical ∧ 0 ∈ (stopSent .running).stopMsgs ∧ ((stopSent .faulted).part 0).state = .faulted ∧
    ((stopSent .running).part 0).state ≠ .free ∧ ((stopSent .running).part 0).state ≠ .faulted ∧
    ((stopSent .running).part 0).state ≠ .recovering ∧ ((stopSent .running).part 0).fronds.getLsbD 0 = true :=
  ⟨canon_of (by decide +kernel), by decide +kernel⟩

/-- Partition 0 in a state of recovery. -/
def recovering (st : PState) (fence held due : Bool) : State :=
  booted.setPart 0 { Partition.reset with state := st, fronds := 1, fenceDue := fence, epochHeld := held, epochDue := due, epoch := 0xFFFF }

theorem witness_RecoveryCleansThePartition :
    (recovering .recovering true false false).Canonical ∧ (recovering .recovering false false false).Canonical ∧
    (recovering .faulted false true true).Canonical ∧
    (((recovering .recovering true false false).part 0).fenceDue = true ∧
      ((recovering .recovering true false false).part 0).state = .recovering ∧
      ((recovering .recovering true false false).part 0).fronds.getLsbD 0 = true) ∧
    (((recovering .faulted true false false).part 0).fenceDue = true ∧ ((recovering .faulted true false false).part 0).state = .faulted) ∧
    (((recovering .recovering false false false).part 0).ready = false ∧
      ((recovering .recovering false false false).part 0).fenceDue = false ∧
      ((recovering .recovering false false false).part 0).suspects = []) ∧
    (((recovering .faulted false true true).part 0).epochHeld = true ∧ ((recovering .faulted false true true).part 0).epochDue = true ∧
      ((recovering .faulted false true true).part 0).stop = none) ∧
    (booted.part 15).epochHeld = false :=
  ⟨canon_of (by decide +kernel), canon_of (by decide +kernel), canon_of (by decide +kernel), by decide +kernel⟩

def silent : State := { within0 .running booted with pkg := { booted.pkg with noAnswer := [(1, 0)] } }

theorem witness_UnitsAreResetAndSwept :
    silent.Canonical ∧ (127 < classCount 1 ∧ 15 < classCount 9) ∧ silent.pkg.noAnswer.any (fun u => unitHalf u.1 u.2 == some 0) = true ∧
    ((silent.part 0).state ≠ .free ∧ (silent.part 0).usesHalf 0 = true ∧ (silent.part 0).faultCode = 0 ∧
      (silent.part 0).state ≠ .recovering) ∧ silent.maySweep 1 127 = true :=
  ⟨canon_of (by decide +kernel), by decide +kernel⟩

/-! ### Hypotheses that are met: registers and the host -/

/-- The unit window shows unit i of class c. -/
def showing (c i : Nat) (s : State) : State := s.setReg 0 0 0x1000 (BitVec.ofNat 64 (256 * i + c))

/-- A running partition with a peer whose route leaves by port 15. -/
def served : State :=
  { showing 7 15 (booted.setPart 0 { Partition.reset with state := .running, fronds := 1, peers := [{ (default : Peer) with chip := 3 }] }) with
    routes := [{ chip := 3, port := 15, altPort := 0, altValid := false, self := false }] }

theorem witness_HostWritesFollowTheAccessKinds :
    (showing 8 15 booted).Canonical ∧ (showing 8 15 booted).hostReady = true ∧ (0x4_1FFC + 4 ≤ 0x4_2000 ∧ 0x4_1FFC % 4 = 0) ∧
    (showing 8 15 booted).selected = some (8, 15) ∧ (showing 7 15 booted).selected = some (7, 15) ∧
    served.Canonical ∧ served.hostReady = true ∧ served.selected = some (7, 15) ∧ served.unitRunning 7 15 = true :=
  ⟨canon_of (by decide +kernel), by decide +kernel, by decide, by decide +kernel, by decide +kernel, canon_of (by decide +kernel),
    by decide +kernel⟩

theorem witness_CountingRegistersAreRead :
    (showing 1 127 booted).Canonical ∧ (showing 1 127 booted).hostReady = true ∧ (showing 1 127 booted).selected = some (1, 127) ∧
    (0x1108, 4, Access.rc) ∈ regMap 1 ∧ (0x11D8, 4, Access.rc) ∈ regMap 1 ∧ 2 ^ 32 - 1 < 2 ^ 32 :=
  ⟨canon_of (by decide +kernel), by decide +kernel⟩

/-- A packet of frond 0 on its way, and perhaps an open packet of another unit. -/
def packetOut (o : Option OpenPacket) : State :=
  { booted with sporeOut := [{ cls := 1, index := 0, partition := 0, total := 2, items := [1, 2], closed := false }]
                spore := { booted.spore with opened := o, items := List.replicate (if o.isSome then 1 else 0) ⟨1, 0, 0⟩ } }

def otherPacket : OpenPacket := { packet := 0, cls := 1, index := 1, got := 1, total := 3 }

theorem witness_SporeItemsArriveAndArePopped :
    (packetOut none).sporeOut.find? (fun o => o.cls == 1 && o.index == 0) =
      some { cls := 1, index := 0, partition := 0, total := 2, items := [1, 2], closed := false } ∧
    (packetOut none).spore.opened = none ∧ (packetOut none).spore.items.length < (packetOut none).sporeRoom ∧
    (packetOut (some otherPacket)).spore.opened = some otherPacket ∧ otherPacket.index ≠ 0 ∧ booted.hostReady = true := by
  decide +kernel

/-- A partition with one Sphagnum block, with a feed in a given state. -/
def feeding (r : Option FeedRun) : State :=
  (booted.setPart 0 { Partition.reset with state := .created, grants := [{ kind := 1, blocks := 1, base := 0 }], feed := r }).setReg
    8 0 0x1190 64

def feedRun (w : List Nat) : FeedRun := { src := 0, dst := 0, lines := 1, written := w, epoch := 0 }

theorem witness_HostFeedsAndReachesTheDevice :
    (feeding none).Canonical ∧ (feeding (some (feedRun []))).Canonical ∧ (feeding (some (feedRun [0]))).Canonical ∧
    ((feeding none).hostReady = true ∧ ((feeding none).part 0).feed = none ∧ ((feeding none).part 0).state ≠ .free ∧
      ((feeding none).reg 8 0 0x1180).toNat % 64 = 0 ∧ ((feeding none).reg 8 0 0x1190).toNat = 64 ∧
      ∀ i, i < 64 → (feeding none).feedReaches 0 (0 + i) = true) ∧
    (((feeding (some (feedRun []))).part 0).feed = some (feedRun []) ∧ 0 < (feedRun []).lines ∧ 0 ∉ (feedRun []).written ∧
      (feedRun []).dst % 64 = 0 ∧ (feeding (some (feedRun []))).readHost 0 64 = some (List.replicate 64 0)) ∧
    (((feeding (some (feedRun [0]))).part 0).feed = some (feedRun [0]) ∧ (feedRun [0]).written.length = (feedRun [0]).lines) ∧
    (booted.hostReady = true ∧ (∀ i, i < 4 → booted.hostReaches (0x1FDF_FFFC + i) = true ∧ booted.inSomeProgram (0x1FDF_FFFC + i) = false) ∧
      (∀ i, i < 4 → booted.checkUnit ((0x1FDF_FFFC + i) / 64) = { cause := none, corrected := 0 }) ∧
      booted.hostReaches (0x1FDF_FFFF + 1) = false ∧ [true, false, true, true].length = [(1 : Byte), 2, 3, 4].length) ∧
    (({ booted with pkg := { booted.pkg with d3hot := true } } : State).hostReady = false ∧
      ({ booted with pkg := { booted.pkg with d3hot := true } } : State).linkServes = true) ∧
    booted.pkg.pwrOk = true ∧ booted.pkg.linkUp = true :=
  ⟨canon_of (by decide +kernel), canon_of (by decide +kernel), canon_of (by decide +kernel), by decide +kernel⟩

/-! ### Hypotheses that are met: the hyphae and the memories -/

/-- A request of the firmware. -/
def req (w : Bool) (a n : Nat) : StoreReq :=
  { partition := 255, epoch := 0, owner := 3, write := w, addr := a, data := List.replicate n 1, mask := List.replicate n true,
    arrived := 0, cls := 0, index := 0, descAddr := 0 }

def pkt (number : Nat) (ok final : Bool) : HyphalPkt :=
  { link := 2, number := number, checkOk := ok, crossesBridge := false, next := if final then none else some (5, 1)
    req := req true 0x3FFF_FF80 2 }

def linked : State := { booted with hyphae := { booted.hyphae with taken := [(2, 7)] } }

theorem witness_HyphalPacketsAreTakenOnce :
    packetOk (pkt 8 false false) = false ∧ packetOk (pkt 8 true true) = true ∧ packetOk (pkt 8 true false) = true ∧
    linked.hyphae.last 2 = some 7 ∧ linked.hyphae.behind (pkt 8 true true) = false ∧ linked.hyphae.behind (pkt 8 true false) = false ∧
    (pkt 7 true true).number ≤ 7 ∧ 7 < (pkt 8 true true).number ∧ (pkt 8 true false).next = some (5, 1) ∧ (pkt 8 true true).next = none ∧
    linked.resolve (pkt 8 true true).req.part (pkt 8 true true).req.addr = some 0x3FFF_FF80 := by decide +kernel

/-- The last bank's port with one request. -/
def queued (w : Bool) : State :=
  { booted with hyphae := { booted.hyphae with bankq := [(2 * 511 + (if w then 1 else 0),
    [{ req := req w 0x3FFF_FF80 (if w then 2 else 128), slack := none }])] } }

theorem witness_BankPortsServeTheChosenRequest :
    (queued false).Canonical ∧ (queued true).Canonical ∧
    (choose ((queued false).wheelEntry 511 false 0) 0 ((queued false).portQueue 511 false) =
        some (req false 0x3FFF_FF80 128, 0, .arbiter) ∧
      (queued false).staleReq (req false 0x3FFF_FF80 128) = false ∧
      (queued false).outOfReach (req false 0x3FFF_FF80 128) 128 = none) ∧
    (choose ((queued true).wheelEntry 511 true 4096) 4096 ((queued true).portQueue 511 true) =
        some (req true 0x3FFF_FF80 2, 0, .age) ∧
      (queued true).outOfReach (req true 0x3FFF_FF80 2) 2 = none ∧
      ∀ c ∈ (req true 0x3FFF_FF80 2).cells,
        (queued true).resolve (req true 0x3FFF_FF80 2).part c.1 = some c.1 ∧ ((queued true).checkUnit (c.1 / 64)).cause = none) ∧
    ((queued false).hyphae.servedAt.find? fun e => e.1 == 1022) = none ∧
    (({ booted with hyphae := { booted.hyphae with servedAt := [(1023, 5)] } } : State).hyphae.servedAt.find? fun e => e.1 == 1023) =
      some (1023, 5) ∧
    booted.portQueue 511 true = [] ∧ booted.hyphae.correct = [] :=
  ⟨canon_of (by decide +kernel), canon_of (by decide +kernel), by decide +kernel⟩

/-- The last channel in a state; a corrected word of its first unit waits to be written back. -/
def memory (st : Nat) : State :=
  { booted with pkg := { booted.pkg with memState := if st = 0 then [] else [(15, st)], memCapacity := [(15, 32)] }
                writebacks := [0x03C0_0000_0000 / 64], flips := [(0x03C0_0000_0000 / 4, 1)] }

def goodDimm : Dimm :=
  { kind := .registered, ecc := true, width := 4, density := 32, ranks := 2, height := 4, lanes := 80, capacityGiB := 256 }

def goodRate : Training := { present := true, pass := true, rate := 7200, dimm := goodDimm }

theorem witness_MemoriesAreBroughtUpServedAndScrubbed :
    (memory 3).Canonical ∧ (memory 0).Canonical ∧ (memory 5).Canonical ∧
    ((memory 3).resolve (req false 0x03C0_0000_0040 64).part 0x03C0_0000_0040 = some 0x03C0_0000_0040 ∧
      (memory 3).storeReady 0x03C0_0000_0040 = true ∧ (memory 3).staleReq (req false 0x03C0_0000_0040 64) = false ∧
      (memory 3).outOfReach (req false 0x03C0_0000_0040 64) 64 = none ∧
      ∀ c ∈ (req true 0x03C0_0000_0040 2).cells, (memory 3).resolve (req true 0x03C0_0000_0040 2).part c.1 = some c.1 ∧
        ((memory 3).checkUnit (c.1 / 64)).cause = none) ∧
    (memory 5).storeReady 0x03C0_0000_0040 = false ∧
    (isController 6 7 = true ∧ 0x03C0_0000_0000 / 64 ∈ (memory 3).writebacks ∧
      storeOf (0x03C0_0000_0000 / 64 * 64) = (6, 7)) ∧
    ((memory 3).memStateOf (controllerOf 6 7) = 3 ∧ ((memory 3).reg 6 7 0x110C).getLsbD 31 = true ∧
      bitsOf ((memory 3).reg 6 7 0x110C).toNat 0 16 ≠ 0 ∧ (memory 3).memCap (controllerOf 6 7) ≠ 0) ∧
    (((memory 3).setReg 6 7 0x110C 0).reg 6 7 0x110C).getLsbD 31 = false ∧
    ((memory 0).pkg.pwrOk = true ∧ (memory 0).pkg.clocksStopped = false ∧ (memory 0).pkg.inWarmReset = false ∧
      ({ goodRate with pass := false }).passes 6 = false ∧ goodRate.passes 6 = true ∧ (memory 0).population 6 goodRate = true ∧
      (memory 0).memStateOf (controllerOf 6 7) = 0 ∧ (memory 5).memStateOf (controllerOf 6 7) = 5) :=
  ⟨canon_of (by decide +kernel), canon_of (by decide +kernel), canon_of (by decide +kernel), by decide +kernel⟩

/-! ### Hypotheses that are met: Pliund -/

def port15 (st : Nat) (s : State) : State := s.setPort 15 { Port.reset with state := st }

theorem witness_PortsGoDownTrainAndComeUp :
    (port15 2 booted).Canonical ∧ ((port15 2 booted).port 15).state = 2 ∧ ((port15 0 booted).port 15).state = 0 ∧
    ((port15 0 booted).reg 7 15 0x110C).getLsbD 0 = true ∧ ((port15 1 booted).port 15).state = 1 ∧
    (port15 3 booted).unitRunning 7 15 = false ∧ served.unitRunning 7 15 = true :=
  ⟨canon_of (by decide +kernel), by decide +kernel⟩

/-- A packet from chip 3 to partition 0 of this chip, whose ID is 1. -/
def packet (kind offset : Nat) (payload : List Byte) : Packet :=
  { dstChip := 1, srcChip := 3, dstEpoch := 0, srcEpoch := 5, dstPartition := 0, srcPartition := 2, kind := kind, hops := 4
    channel := 9, units := payload.length / 64, offset := offset, payload := payload }

def word64 : List Byte := List.replicate 64 7

def frame (ok bad : Bool) (n : Nat) : PlnFrame :=
  { linkSeq := n, ack := 0, crc := packetCrc (packet 0 0 word64), fecOk := ok, recheckBad := bad, fecCorrected := 1, sentBad := []
    packet := packet 0 0 word64 }

def ownRoute : Route := { chip := 1, port := 0, altPort := 0, altValid := false, self := true }

theorem witness_FramesAreDeliveredInSequence :
    (port15 2 { booted with routes := [ownRoute] }).Canonical ∧ (port15 2 { booted with routes := [ownRoute] }).portUp 15 = true ∧
    (frameOk (frame false false 0) = false ∧ frameOk (frame true false 1) = true ∧ frameOk (frame true true 0) = true ∧
      frameOk (frame true false 0) = true) ∧
    ((frame true false 1).linkSeq ≠ ((port15 2 { booted with routes := [ownRoute] }).port 15).expected) ∧
    ((frame true false 0).linkSeq = ((port15 2 { booted with routes := [ownRoute] }).port 15).expected ∧
      (frame true false 0).packet.kind < 7 ∧ (frame true false 0).packet.dstChip = (port15 2 { booted with routes := [ownRoute] }).ownId) :=
  ⟨canon_of (by decide +kernel), by decide +kernel, by simp [frameOk, frame, packet, word64], by decide +kernel⟩

def recvJob : Job :=
  { id := 4, seq := .execute, streamId := 0, addr := 0x1000, pass := none
    body := .recv { rv with srcChip := 3, srcPartition := 2, channel := 9, withHealth := true, healthAddr := 0x2F_FFE0
                            dstAddr := 0x2F_FF80 } true [] false 0 }

/-- Port 15 holds a packet; partition 0 runs and knows partition 2 of chip 3 under epoch 5; frond 0 may hold a REDUCE_RECV. -/
def meeting (pk : Packet) (jobs : List Job) : State :=
  (((within0 .running { booted with routes := [ownRoute] }).modPart 0 fun x =>
      { x with peers := [{ chip := 3, partition := 2, announced := true, epoch := 5 }] }).setFrond 0 { Frond.reset with jobs := jobs }).setPort
    15 { Port.reset with state := 2, inbox := [pk] }

theorem witness_CollectivePacketsLand :
    (meeting (packet 0 0 word64) [recvJob]).Canonical ∧ (meeting (packet 2 1 []) []).Canonical ∧
    ((meeting { packet 0 0 word64 with srcEpoch := 4 } []).takesIn { packet 0 0 word64 with srcEpoch := 4 } = false) ∧
    ((meeting (packet 2 1 []) []).takesIn (packet 2 1 []) = true ∧ (packet 2 1 []).kind = 2) ∧
    ((meeting (packet 0 0 word64) [recvJob]).takesIn (packet 0 0 word64) = true ∧
      (packet 0 0 word64).payload.length = 64 * (packet 0 0 word64).units ∧
      ((meeting (packet 0 0 word64) [recvJob]).receiver 0 (packet 0 0 word64)).isSome = true) ∧
    ((meeting (packet 1 0 word64) [recvJob]).takesIn (packet 1 0 word64) = true ∧
      ((meeting (packet 1 0 word64) [recvJob]).receiver 0 (packet 1 0 word64)).isSome = true) ∧
    (meeting (packet 0 0 word64) [recvJob]).BufSound 0 (rangeFrom 0x2F_FF80 64) ∧
    (meeting (packet 1 0 word64) [recvJob]).BufSound 0 (rangeFrom 0x2F_FFE0 32) :=
  ⟨canon_of (by decide +kernel), canon_of (by decide +kernel), by decide +kernel, by decide +kernel, by decide +kernel, by decide +kernel,
    bufSound_of rfl rfl (range_lt (by decide)), bufSound_of rfl rfl (range_lt (by decide))⟩

theorem witness_NoCollectiveWaits : (meeting (packet 2 1 []) []).NoCollectiveWaits 0 := by
  intro f hf hb j hj
  have h0 : f = 0 := by
    have h : ((meeting (packet 2 1 []) []).part 0).fronds = 1 := by decide +kernel
    rw [h] at hb
    revert hb
    match f with
    | 0 => exact fun _ => rfl
    | n + 1 => simp
  subst h0
  have : ((meeting (packet 2 1 []) []).frond 0).jobs = [] := by decide +kernel
  rw [this] at hj
  cases hj

def bindOf (fill : Option Nat) : Bind := { mb := 0, partner := 3, coFedAsked := false, port1 := 15, port2 := 14, got := none, sent := true, fill := fill }

def binding (b : Option Bind) : State :=
  let s := meeting (packet 4 0 ([3, 0, 2] ++ List.replicate 61 0)) []
  posted (cmd 0x33 0xFF []) { s with pair := { s.pair with pending := b } }

def waitingPeer : State :=
  let s := meeting (packet 0 0 word64) [{ recvJob with body := .recv { rv with srcChip := 3, srcPartition := 2 } false [] false 0 }]
  { s with tick := { s.tick with guardOpen := true, count := 2 } }

theorem witness_PeersAnnounceBindAndTimeOut :
    (meeting (packet 3 0 []) []).Canonical ∧ (binding none).Canonical ∧ (binding (some (bindOf none))).Canonical ∧
    waitingPeer.Canonical ∧
    ((((meeting (packet 3 0 []) []).port 15).inbox = [packet 3 0 []]) ∧ ((meeting (packet 3 0 []) []).part 0).state ≠ .free ∧
      ((meeting (packet 3 0 []) []).part 0).peers.find? (fun z => z.chip == 3 && z.partition == 2) =
        some { chip := 3, partition := 2, announced := true, epoch := 5 }) ∧
    ((binding none).pair.bound = false ∧ (binding none).pair.pending = none) ∧
    ((binding (some (bindOf none))).pair.pending = some (bindOf none) ∧ (bindOf none).port1 = 15 ∧
      (bindOf none).partner = leNat ((packet 4 0 ([3, 0, 2] ++ List.replicate 61 0)).payload.take 2)) ∧
    ((binding (some (bindOf none))).mailbox 0).outstanding = some (cmd 0x33 0xFF []) ∧
    (waitingPeer.tick.guardOpen = true ∧ waitingPeer.workOf 0 = some 0 ∧ ((waitingPeer.frond 0).job 4).isSome = true ∧
      (((waitingPeer.frond 0).job 4).bind fun j => waitingPeer.peerWait 0 j) = some (4, 3, 2, 0, 0) ∧
      waitingPeer.peerTimeout 3 ≤ waitingPeer.tickNow + 1 - 0) :=
  ⟨canon_of (by decide +kernel), canon_of (by decide +kernel), canon_of (by decide +kernel), canon_of (by decide +kernel),
    by decide +kernel⟩

/-! ### Hypotheses that are met: protection and the boot -/

/-- A region held at the start of the last channel for partition 2 of chip 3, with one mirrored range of 64 bytes. -/
def held1 : Held :=
  { chip := 3, partition := 2, epoch := 5, base := 0x03C0_0000_0000, length := 24576, seal0 := none, seal1 := none, base0 := none,
    base1 := none, dirty := false, table := [(0, 0x1000, 64)] }

/-- A MIRROR packet for that region. -/
def sealed (ty : Nat) (ns : List Nat) (body : List Byte) : Packet :=
  packet 5 0 (subHeader ty 0 0 false ([0x03C0_0000_0000, 24576] ++ ns) ++ body ++ List.replicate (64 - body.length) 0)

/-- Port 15 holds the packet; the region is held; partition 0 mirrors to chip 3; a fill from chip 3 runs. -/
def mirrored (pk : Packet) : State :=
  let s := meeting pk []
  ({ s with held := [held1], routes := [ownRoute, { chip := 3, port := 15, altPort := 0, altValid := false, self := false }], pkg := (memory 3).pkg
            pair := { s.pair with bound := true, partner := 3, filling := some (0, 4, 1) } }).modPart 0 fun x =>
    { x with protect := { x.protect with mirrorOn := true, partner := 3 } }

theorem witness_MirrorAndFillPacketsAreTaken :
    let tb := sealed 3 [0x1000, 64] []
    let a := sealed 1 [8192 + 4095, 1] [7]
    let b := sealed 1 [24575, 1] [7]
    let c := sealed 1 [8192 + 4096, 1] [7]
    let z := sealed 2 [9, noNumber] []
    let old := { z with srcEpoch := 4 }
    let ack := sealed 4 [9, noNumber] []
    let ask := { packet 6 0 (subHeader 0 0 0 false [4, 2]) with srcEpoch := 0 }
    let dat := packet 6 0 (subHeader 1 0 0 false [0x03C0_0000_0040, 0, 1, 1] ++ [7] ++ List.replicate 63 0)
    let done := packet 6 0 (subHeader 2 0 1 false [0, 9, 1])
    (mirrored tb).Canonical ∧ (mirrored a).Canonical ∧ (mirrored b).Canonical ∧ (mirrored c).Canonical ∧ (mirrored z).Canonical ∧
    (mirrored old).Canonical ∧ (mirrored ack).Canonical ∧ (mirrored ask).Canonical ∧ (mirrored dat).Canonical ∧
    (mirrored done).Canonical ∧
    (∀ pk ∈ [tb, a, b, c, z], ((mirrored pk).port 15).inbox = [pk] ∧ pk.kind = 5 ∧
      (mirrored pk).held.find? (fun g => g.chip == pk.srcChip && g.partition == pk.srcPartition && g.base == pk.num 8 8
        && g.length == pk.num 16 8) = some held1 ∧
      ∀ g ∈ (mirrored pk).held, g.chip = pk.srcChip → g.partition = pk.srcPartition → g.epoch ≤ pk.srcEpoch) ∧
    tb.num 0 1 = 3 ∧ (∀ pk ∈ [a, b, c], pk.num 0 1 = 1 ∧ pk.num 24 8 + pk.body.length ≤ held1.length ∧ pk.body.length = 1 ∧ pk.bodyPoison = [] ∧
      ((mirrored pk).checkUnit ((held1.base + pk.num 24 8 + 0) / 64)).cause = none) ∧
    (8192 ≤ a.num 24 8 ∧ a.num 24 8 < 8192 + held1.size) ∧ (8192 + held1.size ≤ c.num 24 8 ∧ c.num 24 8 < 8192 + 2 * held1.size) ∧
    (z.num 0 1 = 2 ∧ z.num 32 8 = noNumber) ∧
    (∃ g ∈ (mirrored old).held, old.num 0 1 < 4 ∧ g.chip = old.srcChip ∧ g.partition = old.srcPartition ∧ old.srcEpoch < g.epoch) ∧
    (ack.dstPartition = 0 ∧ ack.num 0 1 = 4 ∧ ((mirrored ack).part 0).protect.mirrorOn = true ∧
      ((mirrored ack).part 0).protect.partner = ack.srcChip ∧ ((mirrored ack).part 0).epoch.toNat = ack.dstEpoch) ∧
    (ask.kind = 6 ∧ ask.num 0 1 = 0 ∧ (mirrored ask).pair.bound = true ∧ (mirrored ask).pair.partner = ask.srcChip) ∧
    ((mirrored dat).pair.restoring = none ∧ (mirrored dat).pair.filling = some (0, 4, 1) ∧ (mirrored dat).pair.partner = dat.srcChip ∧
      dat.num 0 1 = 1 ∧ dat.body.length = 1 ∧ dat.bodyPoison = [] ∧ (mirrored dat).resolve none (dat.num 8 8 + 0) = some (dat.num 8 8 + 0) ∧
      ((mirrored dat).checkUnit ((dat.num 8 8 + 0) / 64)).cause = none) ∧
    (done.num 0 1 = 2 ∧ done.num 1 1 < 16 ∧ (mirrored done).pair.filling = some (0, 4, 1)) :=
  ⟨canon_of (by decide +kernel), canon_of (by decide +kernel), canon_of (by decide +kernel), canon_of (by decide +kernel),
    canon_of (by decide +kernel), canon_of (by decide +kernel), canon_of (by decide +kernel), canon_of (by decide +kernel),
    canon_of (by decide +kernel), canon_of (by decide +kernel), by decide +kernel⟩

def tableMem : List Host.Cell :=
  word 4096 4 0x96085E1D ++ word 4100 1 1 ++ word 4108 1 1 ++ word 4112 8 0x1_0000 ++ word 4120 8 0x1_0000 ++
    word 4160 1 1 ++ word 4161 1 3 ++ word 4168 8 0x4000 ++ word 4176 8 64

def guarded (f : Protect → Protect) : State :=
  let s := mirrored (sealed 4 [] [])
  ({ s with mem := tableMem }).modPart 0 fun x =>
    { x with plan := some planP, grants := [{ kind := 1, blocks := 1, base := 0 }], protect := f x.protect }

def sending : State := guarded fun x => { x with sendStep := some 9, toSend := [(0, 0)], map0 := [(0, 0)], map1 := [(0, 0)] }
def draining (d : List Nat) : State := guarded fun x => { x with drain := some (1, 8), drained := d, baseAcked := true }

theorem witness_MirrorsSendAndSnapshotsDrain :
    sending.Canonical ∧ (draining []).Canonical ∧ (draining [0]).Canonical ∧
    ((sending.part 0).protect.mirrorOn = true ∧ (sending.part 0).protect.sendStep = some 9 ∧
      sending.reaches (sending.part 0).protect.partner = true ∧
      (0, 0) ∈ (sending.part 0).protect.toSend ∧ (sending.part 0).protect.preMirror = [] ∧
      (sending.part 0).protect.sendStep.isSome = true) ∧
    (((draining []).part 0).protect.drain = some (1, 8) ∧
      (draining []).protTable 0 = some { interval := 0, toHost := true, target := 0x1_0000, size := 0x1_0000, entries := [
        { kind := 1, mirror := true, snapshot := true, policy := 0, base := 0x4000, length := 64 }] } ∧
      ((draining []).part 0).protect.preSnap = [] ∧ (draining []).imageEntries 0 false = [(0, 0x4000, 64)] ∧
      0 ∉ ((draining []).part 0).protect.drained) ∧
    (((draining [0]).part 0).plan = some planP ∧ (∀ e ∈ (draining [0]).imageEntries 0 false, e.1 ∈ ((draining [0]).part 0).protect.drained) ∧
      ((draining [0]).part 0).protect.mirrorOn = true ∧ ((draining [0]).part 0).protect.baseAcked = true) :=
  ⟨canon_of (by decide +kernel), canon_of (by decide +kernel), canon_of (by decide +kernel), by decide +kernel⟩

/-- The public test key, of private scalar 7. -/
def testKeyX : Nat := 0x6460F955EFDCBF3BF7393081DDF04A64747781BC8956C1E5FF47BE522F7F758244AE054E91E8AA160C76DC7302BCF181
def testKeyY : Nat := 0x7A30D2AF9219E43D33BE0B515A36F3C95C17B17DCAD568EF85F51EAE54657C72ED3CA9972DD90DA5FC54207824DB4187

/-- A firmware image of version 1 with one empty segment, signed by a test key. -/
def fwImage : List Byte :=
  leBytes 4 0xF1E09608 ++ leBytes 2 1 ++ leBytes 2 1 ++ leBytes 4 1 ++ List.replicate 12 0 ++ leBytes 8 1024 ++ List.replicate 32 0
    ++ leBytes 8 1024 ++ List.replicate 24 0
    ++ leBytes 48 0x5BB99848F1D21AD5FB656FE7BFDE4E27DAE1F663BFC70C4C4307BE1411B7FD216AE3B1B17E32D94C3896AC51A760B038
    ++ List.replicate 560 0
    ++ leBytes 48 testKeyX
    ++ leBytes 48 testKeyY
    ++ leBytes 48 0x0D3EC4DFCE2647725100DABEA7B5F59F465848A4B4FBB6080AC96DDF237F84F4FBC1247651C2770D2CEBAB9FD2412DFB
    ++ leBytes 48 0x71DC9FCE40FBC0063C68728A5A5513FFEF43181933369AF74FD5871FD4F96B8D29B2556EC9355A213BF935962C1F52EB
    ++ List.replicate 128 0

/-- SHA-384 of the test key. -/
def testKeyHash : Nat := 0x0D599F50894C356FEE828545CF6832777BE6AB9DC9F8256D26E923BDA611CDBBFA7504ABE2F2478920A9FBCA67EF038E

/-- Fuses of a device past manufacture, with the test key as firmware key 0 and debug key 2. -/
def testFuses : BitVec 4096 := BitVec.ofNat 4096 (testKeyHash * 2 ^ 832 + testKeyHash * 2 ^ 1600 + 2 ^ 2436 + 0x1234 * 2 ^ 768)

/-- The image in slot 1; of slot 0 the fields that the boot ROM compares, all zero. -/
def testFlash (b : List Byte) : List Host.Cell :=
  (rangeFrom 0 4).zip (leBytes 4 0) ++ (rangeFrom 8 4).zip (leBytes 4 0) ++ (rangeFrom 24 8).zip (leBytes 8 0) ++
    (rangeFrom 0x100_0000 b.length).zip b

def booting (b : List Byte) : State :=
  { State.reset with indus := { State.reset.indus with fuses := testFuses, flash := testFlash b }
                     pkg := { State.reset.pkg with pwrOk := true, perst := false } }

theorem test_fwImage_accepted : (booting fwImage).indus.imageFails fwImage = none := by decide +kernel

theorem sget_below {α : Type} (d : Nat → α) (l : List (Nat × α)) (k : Nat) : ∀ pre : List (Nat × α), (∀ e ∈ pre, e.1 < k) →
    sget d (pre ++ l) k = sget d l k
  | [], _ => rfl
  | (j, v) :: pre, h => by
    have hj : j < k := h (j, v) (List.mem_cons_self ..)
    rw [List.cons_append, sget, if_neg (by omega), if_neg (by omega)]
    exact sget_below d l k pre fun e he => h e (List.mem_cons_of_mem _ he)

/-- Reading where consecutive cells are listed gives what they hold. -/
theorem sget_listed {α : Type} (d : Nat → α) : ∀ (bs : List α) (a : Nat) (pre : List (Nat × α)), (∀ e ∈ pre, e.1 < a) →
    (rangeFrom a bs.length).map (sget d (pre ++ (rangeFrom a bs.length).zip bs)) = bs
  | [], _, _, _ => rfl
  | b :: bs, a, pre, h => by
    have hr : rangeFrom a (b :: bs).length = a :: rangeFrom (a + 1) bs.length := by simp [rangeFrom, List.range'_succ]
    have hs := sget_listed d bs (a + 1) (pre ++ [(a, b)]) (by
      intro e he
      rcases List.mem_append.mp he with h1 | h1
      · exact Nat.lt_succ_of_lt (h e h1)
      · simp only [List.mem_singleton] at h1; subst h1; exact Nat.lt_succ_self a)
    rw [hr, List.map_cons, List.zip_cons_cons, sget_below d _ a pre h]
    have h0 : sget d ((a, b) :: (rangeFrom (a + 1) bs.length).zip bs) a = b := by simp [sget]
    rw [h0]
    congr 1
    rw [List.append_assoc] at hs
    exact hs

theorem test_slotImage : (booting fwImage).indus.slotImage 1 = fwImage := by
  have hl : fwImage.length = 1024 := by decide +kernel
  have hn : max 1024 (min 0x40_0000 (leNat ((booting fwImage).indus.flashRead (1 * 0x100_0000 + 24) 8))) = fwImage.length := by
    decide +kernel
  rw [Indusium.slotImage]
  rw [hn]
  exact sget_listed Config.flashByte fwImage (1 * 0x100_0000) _ (by decide +kernel)

theorem witness_TheBootRomStartsTheFirmware :
    let s := booting fwImage
    let t := booting (List.replicate 32 0)
    (s.pkg.pwrOk = true ∧ s.pkg.inWarmReset = false ∧ s.pkg.clocksStopped = false ∧ s.pkg.fwState = 0 ∧ s.indus.lifecycle ≠ 0 ∧
      s.indus.slotOrder = [1, 0] ∧ s.indus.slotAccepted 1 = true) ∧
    (t.indus.lifecycle ≠ 0 ∧ t.indus.slotAccepted 0 = false ∧ t.indus.slotAccepted 1 = false) ∧
    ({ t.indus with fuses := 0 } : Indusium).lifecycle = 0 := by
  have h : (booting fwImage).indus.slotAccepted 1 = true := by
    rw [Indusium.slotAccepted, test_slotImage, test_fwImage_accepted]; rfl
  exact ⟨⟨by decide +kernel, by decide +kernel, by decide +kernel, by decide +kernel, by decide +kernel, by decide +kernel, h⟩,
    by decide +kernel⟩

/-! ### Hypotheses that are met: Linso -/

theorem presents_of {s : State} {m op : Nat} {c : Taken}
    (h : m < 17 ∧ (s.mailbox m).outstanding = some c ∧ c.opcode = op ∧ c.begun = false ∧ s.heldBehind m c = false) :
    s.Presents m op c := ⟨h.1, h.2.1, h.2.2.1, h.2.2.2.1, h.2.2.2.2⟩

theorem presentsTo_of {s : State} {m op p : Nat} {c : Taken}
    (h : m < 17 ∧ (s.mailbox m).outstanding = some c ∧ c.opcode = op ∧ c.begun = false ∧ s.heldBehind m c = false)
    (h2 : c.target m = some p ∧ accepts (s.part p).state (s.part p).ready op = true) :
    s.PresentsTo m op p c := ⟨presents_of h, h2.1, h2.2⟩

/-- A PLAN_STOP of partition 15 in the command area of mailbox 16, whose MB_CMD_SEQ is n. -/
def inArea (n : BitVec 32) (dis : Bool) : State :=
  { booted with mailboxes := [(16, { Mailbox.reset with cmdSeq := n, disagrees := dis })]
                mbArea := [(0x4_0000, 0x23), (0x4_0002, 8), (0x4_0004, 1), (0x4_0010, 15)] }

theorem witness_MailboxesTakeCommands :
    (inArea 1 false).Canonical ∧ (inArea 3 false).Canonical ∧ (inArea 1 true).Canonical ∧
    ((inArea 1 false).mbServed 16 = true ∧ ((inArea 1 false).mailbox 16).outstanding = none ∧
      ((inArea 1 false).mailbox 16).cmdSeq = ((inArea 1 false).mailbox 16).taken + 1 ∧
      ((inArea 1 false).commandIn 16).seq = ((inArea 1 false).mailbox 16).cmdSeq ∧ (inArea 1 false).indus.hostServing = false ∧
      ((inArea 1 false).commandIn 16).argLen = some 8 ∧ ((inArea 1 false).commandIn 16).len = 8 ∧
      ((inArea 1 false).commandIn 16).flags / 2 = 0 ∧
      ((inArea 1 false).commandIn 16).badHead = none ∧ adminOnly ((inArea 1 false).commandIn 16).opcode = false ∧
      ((inArea 1 false).commandIn 16).byte0Ok 16 = true) ∧
    ((inArea 3 false).mbServed 16 = true ∧ ((inArea 3 false).mailbox 16).cmdSeq ≠ ((inArea 3 false).mailbox 16).taken ∧
      ((inArea 3 false).mailbox 16).cmdSeq ≠ ((inArea 3 false).mailbox 16).taken + 1) ∧
    (((inArea 1 true).mailbox 16).disagrees = true ∧ ((inArea 1 true).mailbox 16).outstanding = none) :=
  ⟨canon_of (by decide +kernel), canon_of (by decide +kernel), canon_of (by decide +kernel), by decide +kernel⟩

def asked (op b : Nat) (args : List Byte) (s : State) : State := posted (cmd op b args) s

/-- A booted package past manufacture with its last memory channel on. -/
def fused : State := { booted with indus := { booted.indus with fuses := testFuses }, pkg := (memory 3).pkg }

def dumpArgs : List Byte := leBytes 8 0 ++ leBytes 8 0x03C0_0000_0000 ++ leBytes 8 1024

def dumpCmd (op : Nat) : Taken := cmd op 0xFF dumpArgs

/-- Without errors in memory every range that resolves is sound. -/
theorem sound_clean {s : State} {a n : Nat} (hp : s.poison = []) (hf : s.flips = []) (hd : s.devErr = [])
    (h : ∀ i, i < n → (s.resolveDirect (a + i)).isSome = true) : s.Sound a n := by
  intro i hi
  obtain ⟨y, hy⟩ := Option.isSome_iff_exists.mp (h i hi)
  exact ⟨y, hy, checkUnit_clean hp hf hd _⟩

theorem dump_reaches : ∀ i, i < 1024 → ((posted (dumpCmd 0x60) fused).resolveDirect ((dumpCmd 0x60).arg 16 8 + i)).isSome = true := by
  decide +kernel

theorem witness_PackageQueriesAnswer :
    (posted (cmd 0x01 0xFF []) fused).Canonical ∧ (posted (dumpCmd 0x60) fused).Canonical ∧
    (posted (cmd 0x01 0xFF []) fused).Presents 0 0x01 (cmd 0x01 0xFF []) ∧
    (posted (cmd 0x02 0xFF []) fused).Presents 0 0x02 (cmd 0x02 0xFF []) ∧
    (posted (cmd 0x71 0xFF (List.replicate 32 5)) fused).Presents 0 0x71 (cmd 0x71 0xFF (List.replicate 32 5)) ∧
    fused.indus.lifecycle ≠ 3 ∧
    (posted (dumpCmd 0x61) fused).Presents 0 0x61 (dumpCmd 0x61) ∧ (dumpCmd 0x61).arg 8 1 ≤ 1 ∧
    (posted (dumpCmd 0x61) fused).dumpReaches ((dumpCmd 0x61).target 0) ((dumpCmd 0x61).arg 16 8) ((dumpCmd 0x61).arg 24 8) = true ∧
    (∀ q, q < 16 → ((posted (dumpCmd 0x61) fused).part q).hold = none) ∧
    (posted (dumpCmd 0x60) fused).Presents 0 0x60 (dumpCmd 0x60) ∧ (dumpCmd 0x60).arg 24 8 = 1024 ∧
    (posted (dumpCmd 0x60) fused).dumpReaches ((dumpCmd 0x60).target 0) ((dumpCmd 0x60).arg 16 8) ((dumpCmd 0x60).arg 24 8) = true ∧
    (posted (dumpCmd 0x60) fused).Sound ((dumpCmd 0x60).arg 16 8) 1024 :=
  ⟨canon_of (by decide +kernel), canon_of (by decide +kernel), presents_of (by decide +kernel), presents_of (by decide +kernel),
    presents_of (by decide +kernel), by decide +kernel, presents_of (by decide +kernel), by decide +kernel, by decide +kernel,
    by decide +kernel, presents_of (by decide +kernel), by decide +kernel, by decide +kernel, sound_clean rfl rfl rfl dump_reaches⟩

def powerArgs : List Byte := leBytes 2 2100 ++ leBytes 2 1500 ++ leBytes 2 2000
def routeArgs : List Byte := leBytes 8 2 ++ leBytes 8 0 ++ leBytes 2 1

theorem witness_TickPowerAndRoutesAreSet :
    let t := cmd 0x50 0xFF (leBytes 4 2000000 ++ [2, 15, 0, 0])
    let w := cmd 0x51 0xFF powerArgs
    let r := cmd 0x81 0xFF routeArgs
    let routed := { booted with mem := [(3, 2)] }
    (posted t booted).Canonical ∧ (posted t (within0 .running booted)).Canonical ∧ (posted w booted).Canonical ∧
    (posted r routed).Canonical ∧
    ((posted t booted).Presents 0 0x50 t ∧ t.arg 8 4 = 2000000 ∧ t.arg 12 1 = 2 ∧ t.arg 13 1 = 15 ∧
      ∀ p, p < 16 → ((posted t booted).part p).active = false) ∧
    ((posted t (within0 .running booted)).Presents 0 0x50 t ∧ ((posted t (within0 .running booted)).part 0).active = true) ∧
    ((posted w booted).Presents 0 0x51 w ∧ w.arg 8 2 = 2100 ∧ w.arg 10 2 = 1500 ∧ w.arg 12 2 = 2000 ∧
      (posted w booted).peaks + 530000 ≤ 1000 * w.arg 8 2 ∧ (posted w booted).overRamp (w.arg 12 2) 0 = false) ∧
    ((posted r routed).Presents 0 0x81 r ∧ (posted r routed).tickNow + 2 ≤ r.arg 8 8 ∧ r.arg 24 2 = 1 ∧
      (posted r routed).Sound (r.arg 16 8) (8 * r.arg 24 2) ∧
      routesOk ((List.range (r.arg 24 2)).map fun i => (posted r routed).peekNat none (r.arg 16 8 + 8 * i) 8) = true) := by
  refine ⟨canon_of (by decide +kernel), canon_of (by decide +kernel), canon_of (by decide +kernel), canon_of (by decide +kernel),
    ⟨presents_of (by decide +kernel), by decide +kernel⟩, ⟨presents_of (by decide +kernel), by decide +kernel⟩,
    ⟨presents_of (by decide +kernel), by decide +kernel⟩, presents_of (by decide +kernel), by decide +kernel, by decide +kernel, ?_,
    by decide +kernel⟩
  intro i hi
  have h : ∀ i, i < 8 → ((posted (cmd 0x81 0xFF routeArgs) { booted with mem := [(3, 2)] }).resolveDirect (0 + i) = some i ∧
      ((posted (cmd 0x81 0xFF routeArgs) { booted with mem := [(3, 2)] }).checkUnit (i / 64)).cause = none) := by decide +kernel
  exact ⟨i, h i hi⟩

/-- Grant arguments: owner tag or op, the last slot, all bridge lines, and the first MiB of the Sphagnum. -/
def grantBytesArgs (head : Nat) (fronds slots bridge : Nat) : List Byte :=
  leBytes 8 head ++ leBytes 16 fronds ++ leBytes 32 slots ++ leBytes 8 bridge ++ leBytes 8 1 ++ leBytes 4 1 ++ leBytes 4 1 ++ leBytes 8 0

/-- Partition 0 created with the same Sphagnum block. -/
def granted0 : State :=
  (within0 .created booted).modPart 0 fun x =>
    { x with grants := [{ kind := 1, blocks := 1, base := 0 }], slotShare := 1, bridgeLines := 5 }

theorem witness_PartitionsAreMadeResizedAndDestroyed :
    let c := cmd 0x10 15 (grantBytesArgs 7 (2 ^ 127) (2 ^ 255) 12800)
    let a := cmd 0x12 0 (grantBytesArgs 0 (2 ^ 127) (2 ^ 255) 12800)
    let r := cmd 0x12 0 (grantBytesArgs 1 1 1 5)
    let d := cmd 0x11 0 []
    (posted c booted).Canonical ∧ (posted a (within0 .created booted)).Canonical ∧ (posted r granted0).Canonical ∧
    (posted d granted0).Canonical ∧ (posted d (within0 .running booted)).Canonical ∧
    ((posted c booted).Presents 0 0x10 c ∧ c.badGrants = none ∧ (posted c booted).createTarget (c.arg 0 1) = some 15 ∧
      ((posted c booted).part 15).epochRecent = none ∧ (posted c booted).grantWaits c.grantArgs.grants = false ∧
      (posted c booted).grantFailed c.grantArgs.grants = false ∧ (posted c booted).allFree c.grantArgs = true) ∧
    ((posted a (within0 .created booted)).PresentsTo 0 0x12 0 a ∧ a.arg 8 1 = 0 ∧ a.badGrants = none ∧
      (posted a (within0 .created booted)).grantWaits a.grantArgs.grants = false ∧
      (posted a (within0 .created booted)).grantFailed a.grantArgs.grants = false ∧
      (posted a (within0 .created booted)).allFree a.grantArgs = true) ∧
    ((posted r granted0).PresentsTo 0 0x12 0 r ∧ r.arg 8 1 = 1 ∧ r.badGrants = none ∧
      (posted r granted0).removable 0 r.grantArgs = true) ∧
    ((posted d granted0).PresentsTo 0 0x11 0 d ∧ ((posted d granted0).part 0).active = false ∧
      ((posted d granted0).part 0).epochRecent = none ∧ ((posted d granted0).part 0).fronds.getLsbD 0 = true) ∧
    ((posted d (within0 .running booted)).PresentsTo 0 0x11 0 d ∧ ((posted d (within0 .running booted)).part 0).active = true ∧
      ((posted d (within0 .running booted)).part 0).epochRecent = none) :=
  ⟨canon_of (by decide +kernel), canon_of (by decide +kernel), canon_of (by decide +kernel), canon_of (by decide +kernel),
    canon_of (by decide +kernel), ⟨presents_of (by decide +kernel), by decide +kernel⟩,
    ⟨presentsTo_of (by decide +kernel) (by decide +kernel), by decide +kernel⟩,
    ⟨presentsTo_of (by decide +kernel) (by decide +kernel), by decide +kernel⟩,
    ⟨presentsTo_of (by decide +kernel) (by decide +kernel), by decide +kernel⟩,
    ⟨presentsTo_of (by decide +kernel) (by decide +kernel), by decide +kernel⟩⟩

/-- Partition 0 in a state, with a verified plan of frond 0 whose resume record and loss-scale record lie in its grant. -/
def ready0 (st : PState) : State :=
  (({ guarded (fun x => x) with pair := State.reset.pair }).modPart 0 fun x =>
    { x with plan := some planS, planVerified := true, state := st, resumeValid := true, stopKind := 2 })

def resumable0 (st : PState) : State :=
  let s := ready0 st
  { s with mem := word 0 1 5 ++ s.mem }

def stopOf (st : PState) (k : Option StopKind) : State :=
  (within0 st booted).modPart 0 fun x => { x with stop := k.map fun k => (k, 5), epochDue := st == .faulted }

theorem witness_PlansStartAndStop :
    let c := cmd 0x22 0 (leBytes 8 0 ++ leBytes 8 0)
    let r := cmd 0x22 0 (leBytes 8 2 ++ leBytes 8 1)
    let z := cmd 0x23 0 []
    let q := cmd 0x24 0 []
    (posted c (ready0 .verified)).Canonical ∧ (posted r (resumable0 .stopped)).Canonical ∧
    (posted z (stopOf .running none)).Canonical ∧ (posted z (stopOf .faulted none)).Canonical ∧
    (posted q (stopOf .stopping (some .planStop))).Canonical ∧ (posted q (stopOf .stopped none)).Canonical ∧
    ((posted c (ready0 .verified)).PresentsTo 0 0x22 0 c ∧ c.arg 16 1 = 0 ∧ (posted c (ready0 .verified)).mayStart 0 = true ∧
      (posted c (ready0 .verified)).leastStart 0 ≤ (posted c (ready0 .verified)).tickNow + 2) ∧
    ((posted r (resumable0 .stopped)).PresentsTo 0 0x22 0 r ∧ r.arg 16 1 = 1 ∧ ((posted r (resumable0 .stopped)).part 0).plan = some planS ∧
      ((posted r (resumable0 .stopped)).part 0).state = .stopped ∧ ((posted r (resumable0 .stopped)).part 0).resumeValid = true ∧
      (posted r (resumable0 .stopped)).peekNat none planS.resumeAddr 48 = planS.programHash.toNat ∧ planS.resumable = true ∧
      (posted r (resumable0 .stopped)).mayStart 0 = true ∧ (posted r (resumable0 .stopped)).tickNow + 2 ≤ r.arg 8 8 ∧
      (posted r (resumable0 .stopped)).leastStart 0 ≤ r.arg 8 8) ∧
    (posted r (resumable0 .stopped)).Sound planS.resumeAddr 128 ∧
    ((posted z (stopOf .running none)).PresentsTo 0 0x23 0 z ∧ ((posted z (stopOf .running none)).part 0).state = .running) ∧
    ((posted z (stopOf .faulted none)).PresentsTo 0 0x23 0 z ∧ ((posted z (stopOf .faulted none)).part 0).state = .faulted ∧
      ((posted z (stopOf .faulted none)).part 0).epochDue = true) ∧
    ((posted q (stopOf .stopping (some .planStop))).PresentsTo 0 0x24 0 q ∧
      ((posted q (stopOf .stopping (some .planStop))).part 0).active = true ∧
      ((posted q (stopOf .stopping (some .planStop))).part 0).epochRecent = none ∧
      ((posted q (stopOf .stopping (some .planStop))).part 0).stop = some (.planStop, 5)) ∧
    ((posted q (stopOf .stopped none)).PresentsTo 0 0x24 0 q ∧ ((posted q (stopOf .stopped none)).part 0).active = false) :=
  ⟨canon_of (by decide +kernel), canon_of (by decide +kernel), canon_of (by decide +kernel), canon_of (by decide +kernel),
    canon_of (by decide +kernel), canon_of (by decide +kernel),
    ⟨presentsTo_of (by decide +kernel) (by decide +kernel), by decide +kernel⟩,
    ⟨presentsTo_of (by decide +kernel) (by decide +kernel), by decide +kernel⟩, sound_clean rfl rfl rfl (by decide +kernel),
    ⟨presentsTo_of (by decide +kernel) (by decide +kernel), by decide +kernel⟩,
    ⟨presentsTo_of (by decide +kernel) (by decide +kernel), by decide +kernel⟩,
    ⟨presentsTo_of (by decide +kernel) (by decide +kernel), by decide +kernel⟩,
    ⟨presentsTo_of (by decide +kernel) (by decide +kernel), by decide +kernel⟩⟩

/-! ### Bytes placed in an empty memory -/

theorem canon_host {s : State} (h : s.Canonical) (a : Nat) (bs : List Byte) :
    ({ s with hostMem := sputs (fun _ => (0 : Byte)) [] a bs } : State).Canonical :=
  { h with hostMem := swf_sputs a bs rfl }

theorem canon_mem {s : State} (h : s.Canonical) (a : Nat) (bs : List Byte) :
    ({ s with mem := sputs (fun _ => (0 : Byte)) [] a bs } : State).Canonical :=
  { h with mem := swf_sputs a bs rfl }

theorem sget_placed (a : Nat) (bs : List Byte) (k : Nat) (h : k < bs.length) :
    sget (fun _ => (0 : Byte)) (sputs (fun _ => (0 : Byte)) [] a bs) (a + k) = bs[k] := by
  rw [sget_sputs (a + k) a bs rfl, dif_pos ⟨by omega, by omega⟩]
  simp

theorem sgets_eq (m : List (Nat × Byte)) : ∀ (n a : Nat),
    sgets (fun _ => (0 : Byte)) m a n = (List.range n).map fun i => sget (fun _ => (0 : Byte)) m (a + i)
  | 0, _ => rfl
  | n + 1, a => by
    rw [sgets, sgets_eq m n (a + 1), List.range_succ_eq_map, List.map_cons, List.map_map, Nat.add_zero]
    congr 1
    exact List.map_congr_left fun i _ => by simp only [Function.comp]; congr 1; omega

theorem map_placed (a o n : Nat) (bs : List Byte) (h : o + n ≤ bs.length) :
    ((List.range n).map fun i => sget (fun _ => (0 : Byte)) (sputs (fun _ => (0 : Byte)) [] a bs) (a + o + i)) = (bs.drop o).take n := by
  apply List.ext_getElem
  · simp; omega
  · intro i h1 h2
    simp only [List.length_map, List.length_range] at h1
    simp only [List.getElem_map, List.getElem_range, List.getElem_take, List.getElem_drop]
    rw [Nat.add_assoc, sget_placed a bs (o + i) (by omega)]

/-- A read of host memory gives the bytes placed there. -/
theorem readHost_placed {s : State} {a : Nat} {bs : List Byte} (hm : s.hostMem = sputs (fun _ => (0 : Byte)) [] a bs)
    (hb : s.hostBad = []) (o n : Nat) (h : o + n ≤ bs.length) : s.readHost (a + o) n = some ((bs.drop o).take n) := by
  have hn : ((unitsOf (rangeFrom (a + o) n)).any fun u => sget (fun _ => false) s.hostBad u) = false := by
    rw [hb]; simp [sget]
  rw [State.readHost, hn, hm, sgets_eq, map_placed a o n bs h]
  rfl

/-- A read of device memory gives the bytes placed there. -/
theorem peek_placed {s : State} {a : Nat} {bs : List Byte} (hm : s.mem = sputs (fun _ => (0 : Byte)) [] a bs) (hf : s.flips = [])
    (o n : Nat) (h : o + n ≤ bs.length) (hr : ∀ i, i < n → s.resolve none (a + o + i) = some (a + o + i)) :
    s.peek none (a + o) n = (bs.drop o).take n := by
  rw [← map_placed a o n bs h, State.peek, rangeFrom, List.range'_eq_map_range, List.map_map]
  refine List.map_congr_left fun i hi => ?_
  simp only [Function.comp, hr i (List.mem_range.mp hi), readByte_clean hf, hm]

/-! ### Hypotheses that are met: a plan -/

/-- SHA-384 of nothing, of the stream entry below and of the buffer-map entry below. -/
def hashNone : Nat := 0x5BB99848F1D21AD5FB656FE7BFDE4E27DAE1F663BFC70C4C4307BE1411B7FD216AE3B1B17E32D94C3896AC51A760B038
def hashStream : Nat := 0xDC5229573E86C28B47F6B664D88C6F1819F6185A1674EB7925A99E7106E3F64FEA5A060D934454868D85D5583572B4F2
def hashArea : Nat := 0x2E59763B0FDE5FC61052C60D11539D4D68EB2A3FB7E265E8347B685CCC932ADD7B5DE87681B65F1664867F6AB3EB0058

/-- A directory entry. -/
def entry (ty off len hash : Nat) : List Byte := leBytes 8 ty ++ leBytes 8 off ++ leBytes 8 len ++ leBytes 8 0 ++ leBytes 48 hash

/-- Header and directory of a plan of frond 0 without programs, with its records in the first MiB of the Sphagnum. -/
def planHead : List Byte :=
  leBytes 4 0x96080F1E ++ leBytes 2 1 ++ leBytes 2 7 ++ leBytes 8 800 ++ leBytes 16 1 ++ leBytes 8 5 ++ leBytes 2 1 ++ leBytes 2 1
    ++ [1, 0, 0, 0] ++ leBytes 4 2000 ++ leBytes 4 0 ++ leBytes 8 0 ++ leBytes 8 0x3000 ++ leBytes 8 0x2000 ++ leBytes 8 0 ++ leBytes 40 0
    ++ entry 1 704 0 hashNone ++ entry 2 704 0 hashNone ++ entry 3 704 32 hashStream ++ entry 4 704 0 hashNone
    ++ entry 5 704 0 hashNone ++ entry 6 768 32 hashArea ++ entry 0x0C 704 0 hashNone

/-- A stream of one item at 0x4000, from and to frond 0, and the program area at 0x1000. -/
def planSect (t : Nat) : List Byte :=
  if t = 3 then leBytes 32 (0x4000 * 2 ^ 96 + 9 * 2 ^ 144 + 2 ^ 160 + 2 ^ 176)
  else if t = 6 then leBytes 8 5 ++ leBytes 8 0x1000 ++ leBytes 8 0x1000 ++ leBytes 8 0
  else []

def planImage : List Byte := planHead ++ leBytes 16 0 ++ planSect 3 ++ leBytes 32 0 ++ planSect 6

def loadCmd : Taken := cmd 0x20 0 (leBytes 8 0 ++ leBytes 8 0x1000 ++ leBytes 8 800)

def loading : State := { posted loadCmd granted0 with hostMem := sputs (fun _ => (0 : Byte)) [] 0x1000 planImage }

theorem loading_host : loading.hostMem = sputs (fun _ => (0 : Byte)) [] 0x1000 planImage := by simp only [loading]
theorem planImage_length : planImage.length = 800 := by decide +kernel

theorem host_plan (o n : Nat) (h : o + n ≤ 800) : loading.readHost (0x1000 + o) n = some ((planImage.drop o).take n) :=
  readHost_placed loading_host (by simp only [loading]; rfl) o n (by rw [planImage_length]; exact h)

theorem loading_loads : loading.Loads 0 (loadCmd.arg 16 8) (loadCmd.arg 24 8) planHead planSect where
  head := (host_plan 0 128 (by decide)).trans (by decide +kernel)
  headOk := by decide +kernel
  rest := (host_plan 128 560 (by decide)).trans (by decide +kernel)
  image := by decide +kernel
  sects := by
    have h : ∀ x ∈ directory planHead, x.offset + x.length ≤ 800 ∧ (planImage.drop x.offset).take x.length = planSect x.type ∧
        sha384 (planSect x.type) = x.hash := by decide +kernel
    intro x hx
    obtain ⟨h1, h2, h3⟩ := h x hx
    exact ⟨(host_plan x.offset x.length h1).trans (congrArg some h2), h3⟩
  area := by decide +kernel
  granted := by decide +kernel
  known := by decide +kernel
  peers := by decide +kernel
  streams := by decide +kernel
  slots := by decide +kernel
  writes := by
    have h : ∀ w ∈ imageWrites planHead planSect, w.2 = 0 := by decide +kernel
    intro w hw i hi
    exact absurd hi (by rw [h w hw]; exact Nat.not_lt_zero i)

theorem witness_PlansAreLoaded :
    loading.Canonical ∧ loading.indus.meas.length = 21 ∧ loading.PresentsTo 0 0x20 0 loadCmd ∧ loadCmd.arg 8 1 = 0 ∧
    loading.Loads 0 (loadCmd.arg 16 8) (loadCmd.arg 24 8) planHead planSect ∧
    (imagePlan planHead planSect).streams.map (fun e => strPlan e.1) = [9] :=
  ⟨canon_host (s := posted loadCmd granted0) (canon_of (by decide +kernel)) _ _, by decide +kernel,
    presentsTo_of (by decide +kernel) (by decide +kernel), by decide +kernel, loading_loads, by decide +kernel⟩

/-- A plan without fronds and programs, and with an idle power profile. -/
def planV : Plan :=
  { (default : Plan) with
    fronds := 0, frameTicks := 1, framesPerStep := 1, programSets := 1, tickPeriod := 2000, resumeAddr := 0x0100_0000_0000
    lossScaleAddr := 0x3000, progBase := 0x1000, progBytes := 0x1000, tagBase := 0x1400
    image := [(0, leBytes 40 0 ++ leBytes 2 1 ++ leBytes 2 1 ++ leBytes 4 1 ++ leBytes 4 2000 ++ leBytes 20 0 ++ leBytes 8 0x0100_0000_0000)
      , (1, List.replicate 1024 0), (2, List.replicate 64 0), (4, List.replicate 1024 0), (0x0C, List.replicate 16 0)]
    power := List.replicate 16 0 }

def verifying : State :=
  posted (cmd 0x21 0 []) ((granted0.modPart 0 fun x => { x with state := .loaded, plan := some planV }) |> fun s =>
    { s with pkg := { s.pkg with ddrRate := Config.assumedRate (sectOf planV.image 0) } })

theorem poisonUnit_pkg (s : State) (u : Nat) : (s.poisonUnit u).pkg = s.pkg := rfl
theorem ledMake_pkg (s : State) (p c o n : Nat) : (s.ledMake p c o n).pkg = s.pkg := rfl
theorem ledTake_pkg (s : State) (p c o n : Nat) : (s.ledTake p c o n).pkg = s.pkg := rfl

theorem noteUnit_pkg (s : State) (u : Nat) (c : UnitCheck) : (s.noteUnit u c).pkg = s.pkg := by
  unfold State.noteUnit State.countFlag
  dsimp only
  repeat' split
  all_goals simp [poisonUnit_pkg]

theorem countUnit_pkg (s : State) (p : Option Nat) (w h : Bool) (u n : Nat) : (s.countUnit p w h u n).pkg = s.pkg := by
  unfold State.countUnit
  dsimp only
  repeat' split
  all_goals simp [ledMake_pkg, ledTake_pkg]

theorem readPhys_pkg (p : Option Nat) (as : List Nat) (s : State) : (s.readPhys p as).state.pkg = s.pkg := by
  unfold State.readPhys
  dsimp only
  generalize List.map (fun u => (u, s.checkUnit u)) (unitsOf as) = l
  generalize hs : s.pkg = k
  induction l generalizing s with
  | nil => exact hs
  | cons b l ih => exact ih _ (by rw [countUnit_pkg, noteUnit_pkg, hs])

theorem readAll_pkg : ∀ (l : List (Nat × Nat)) (s : State), (s.readAll l).1.pkg = s.pkg
  | [], _ => rfl
  | r :: l, s => by
    rw [State.readAll]
    split
    · exact readPhys_pkg _ _ _
    · rw [readAll_pkg l]; exact readPhys_pkg _ _ _

/-- The state in which PLAN_VERIFY judges the plan. -/
def verifyIn : State :=
  ((verifying.modPart 0 fun x => { x with planVerified := false, state := if x.state == .verified then .loaded else x.state }).readAll
    planV.verifyReads).1

theorem verifyIn_rate : verifyIn.rateFails (sectOf planV.image 0) = [] := by
  have h : verifyIn.pkg.ddrRate = Config.assumedRate (sectOf planV.image 0) := by
    rw [verifyIn, readAll_pkg, State.modPart, State.setPart_pkg]; simp only [verifying, posted]
  rw [State.rateFails, h]
  simp [when, fails]

theorem peek_empty {s : State} (hm : s.mem = []) (hf : s.flips = []) (p : Option Nat) (a n : Nat) :
    s.peek p a n = List.replicate n 0 := by
  rw [State.peek, List.eq_replicate_iff]
  refine ⟨by simp [rangeFrom], fun b hb => ?_⟩
  obtain ⟨x, -, rfl⟩ := List.mem_map.mp hb
  cases s.resolve p x with
  | none => rfl
  | some y => exact (readByte_clean hf y).trans (by rw [hm]; rfl)

theorem verifyIn_index : verifyIn.loadedIndex 0 planV = [] := by
  rw [State.loadedIndex]
  rw [peek_empty (by decide +kernel) (by decide +kernel)]
  decide +kernel

theorem verifyIn_plan : verifyIn.planFails 0 planV = [] := by
  unfold State.planFails
  simp only [verifyIn_index, List.append_eq_nil_iff, verifyIn_rate, and_true]
  refine ⟨⟨⟨⟨⟨⟨⟨⟨⟨⟨⟨⟨⟨⟨?_, ?_⟩, ?_⟩, ?_⟩, ?_⟩, ?_⟩, ?_⟩, ?_⟩, ?_⟩, ?_⟩, ?_⟩, ?_⟩, ?_⟩, ?_⟩, ?_⟩ <;> decide +kernel

theorem verifying_verifies : verifying.Verifies 0 planV := ⟨by decide +kernel, verifyIn_plan, by decide +kernel⟩

theorem witness_PlansAreVerified :
    verifying.Canonical ∧ verifying.PresentsTo 0 0x21 0 (cmd 0x21 0 []) ∧ (verifying.part 0).plan = some planV ∧
    verifying.Verifies 0 planV := by
  exact ⟨canon_of (by decide +kernel), presentsTo_of (by decide +kernel) (by decide +kernel), by rfl, verifying_verifies⟩

/-! ### Hypotheses that are met: training state, pairs, firmware and debug -/

/-- Partition 0 stopped with the plan and the protection table of `guarded`, bound to chip 3; a snapshot of step 9 with tag 7
lies in host memory at 0x20000. -/
def trained : State :=
  let s := (guarded fun x => x).modPart 0 fun x => { x with plan := some planS, planVerified := true, state := .stopped }
  { s with hostMem := word 0x2_0038 8 9 ++ word 0x2_0048 2 7 ++ word 0x2_0050 8 1 ++ word 0x2_0080 8 8192 ++ word 0x2_0088 8 64 }

def imageArgs (n : Nat) : List Byte := leBytes 2 7 ++ leBytes 6 1 ++ leBytes 8 0x2_0000 ++ leBytes 8 n
def mirrorArgs (on : Nat) : List Byte := leBytes 2 on ++ leBytes 6 3 ++ leBytes 8 0x03C0_0000_0000 ++ leBytes 8 24576

theorem readHost_some {s : State} (hb : s.hostBad = []) (a n : Nat) : (s.readHost a n).isSome = true := by
  rw [State.readHost, hb]; simp [sget]

theorem witness_TrainingStateCommandsAct :
    let k := cmd 0x30 0 (imageArgs 0)
    let r := cmd 0x31 0 (imageArgs 9)
    let e := cmd 0x32 0 (mirrorArgs 1)
    let d := cmd 0x32 0 (mirrorArgs 0)
    let t := cmd 0x82 0 (leBytes 8 9)
    let l := cmd 0x83 0 (leBytes 8 9)
    (posted k trained).Canonical ∧
    ((posted k trained).PresentsTo 0 0x30 0 k ∧ k.arg 10 1 = 1 ∧ ((posted k trained).part 0).plan = some planS ∧
      (posted k trained).imageEntries 0 true = [(0, 0x4000, 64)] ∧ (posted k trained).probe (some 0) 0x4000 64 = none) ∧
    ((posted r trained).PresentsTo 0 0x31 0 r ∧ r.arg 10 1 = 1 ∧ ((posted r trained).readHost (r.arg 16 8) 8192).isSome = true ∧
      (posted r trained).tableEntries 0 ≠ [] ∧
      ∀ e ∈ (posted r trained).tableEntries 0, ((posted r trained).copyIn 0 r e.2 e.1).isSome = true) ∧
    ((posted e trained).PresentsTo 0 0x32 0 e ∧ e.arg 8 1 = 1 ∧ e.arg 10 2 ≠ 0xFFFF ∧ 0x0200_0000_0000 ≤ e.arg 16 8 ∧
      e.arg 16 8 + e.arg 24 8 ≤ 0x0400_0000_0000 ∧ e.arg 16 8 < 0x0400_0000_0000 ∧
      8192 + 4 * (posted e trained).mirrorSize 0 ≤ e.arg 24 8 ∧ (posted e trained).pair.bound = true ∧
      (posted e trained).pair.partner = e.arg 10 2 ∧ (posted e trained).mirrorPages 0 = [(0, 0)]) ∧
    ((posted d trained).PresentsTo 0 0x32 0 d ∧ d.arg 8 1 = 0) ∧
    ((posted t trained).PresentsTo 0 0x82 0 t ∧ ((posted t trained).part 0).plan = some planS ∧ planS.shards.Nodup ∧
      (∀ a ∈ planS.shards, ∀ b ∈ planS.shards, a ≠ b → (posted t trained).resolveDirect a ≠ (posted t trained).resolveDirect b)) ∧
    (∀ a ∈ planS.shards, a % 64 = 0 ∧ (posted t trained).Sound a 64) ∧
    ((posted l trained).PresentsTo 0 0x83 0 l ∧ (posted l trained).Sound planS.lossScaleAddr 8) := by
  refine ⟨canon_of (by decide +kernel), ⟨presentsTo_of (by decide +kernel) (by decide +kernel), by decide +kernel⟩,
    ⟨presentsTo_of (by decide +kernel) (by decide +kernel), by decide +kernel, readHost_some (by rfl) _ _, by decide +kernel⟩,
    ⟨presentsTo_of (by decide +kernel) (by decide +kernel), by decide +kernel⟩,
    ⟨presentsTo_of (by decide +kernel) (by decide +kernel), by decide +kernel⟩,
    ⟨presentsTo_of (by decide +kernel) (by decide +kernel), by decide +kernel⟩, ?_,
    ⟨presentsTo_of (by decide +kernel) (by decide +kernel), sound_clean rfl rfl rfl (by decide +kernel)⟩⟩
  intro a ha
  refine ⟨(by decide +kernel : ∀ a ∈ planS.shards, a % 64 = 0) a ha, sound_clean rfl rfl rfl ?_⟩
  exact (by decide +kernel : ∀ a ∈ planS.shards, ∀ i, i < 64 →
    ((posted (cmd 0x82 0 (leBytes 8 9)) trained).resolveDirect (a + i)).isSome = true) a ha

def pairArgs : List Byte := leBytes 2 3 ++ [1, 14, 15, 0, 0, 0]
def adoptArgs : List Byte := leBytes 2 4 ++ leBytes 2 3 ++ leBytes 4 6

def sensed : State :=
  { booted with pkg := { booted.pkg with pairSense := true }
                routes := [ownRoute, { chip := 3, port := 15, altPort := 0, altValid := false, self := false }] }

theorem witness_PairsAndSparesBind :
    let b := cmd 0x33 0xFF pairArgs
    let a := cmd 0x80 0xFF adoptArgs
    (posted b sensed).Canonical ∧ (posted a sensed).Canonical ∧ sensed.pair.bound = false ∧ sensed.pair.heard = [] ∧
    ((posted b sensed).Presents 0 0x33 b ∧ b.arg 8 2 ≠ 0xFFFF ∧ b.arg 10 1 ≤ 1 ∧ b.arg 11 1 = 14 ∧ b.arg 12 1 = 15 ∧
      (posted b sensed).pkg.pairSense = true) ∧
    ((posted a sensed).Presents 0 0x80 a ∧ a.arg 8 2 ≠ 0xFFFF ∧ a.arg 10 2 ≠ 0xFFFF ∧ a.arg 8 2 ≠ a.arg 10 2 ∧
      (∀ p, p < 16 → ((posted a sensed).part p).state = .free ∨ ((posted a sensed).part p).state = .created) ∧
      ((posted a sensed).routeTo (a.arg 10 2)).isSome = true) :=
  ⟨canon_of (by decide +kernel), canon_of (by decide +kernel), by decide +kernel, by decide +kernel,
    ⟨presents_of (by decide +kernel), by decide +kernel⟩, ⟨presents_of (by decide +kernel), by decide +kernel⟩⟩

/-- A token for challenge 99 and serial 0x1234 with every scope, signed by debug key 2. -/
def testToken : List Byte :=
  leBytes 4 0xDB609608 ++ leBytes 2 1 ++ [2, 7] ++ leBytes 8 0x1234 ++ leBytes 48 99 ++ leBytes 48 testKeyX ++ leBytes 48 testKeyY
    ++ leBytes 48 0x0D3EC4DFCE2647725100DABEA7B5F59F465848A4B4FBB6080AC96DDF237F84F4FBC1247651C2770D2CEBAB9FD2412DFB
    ++ leBytes 48 0x08B0D9A245084956994AFB6C8361BB602B2777A13E85A12F36753198BE2C30DBC67560ADE1DAE7A2C4E9F51B9345B3F5

def updateCmd : Taken := cmd 0x70 0xFF (leBytes 8 0 ++ leBytes 8 0x1000 ++ leBytes 8 1024)
def tokenCmd : Taken := cmd 0x72 0xFF (leBytes 8 1 ++ leBytes 8 0x1000 ++ leBytes 8 256)
def askCmd : Taken := cmd 0x72 0xFF (leBytes 8 0 ++ leBytes 8 0 ++ leBytes 8 0)

/-- A booted package past manufacture, with a challenge outstanding. -/
def keyed : State := { booted with indus := { booted.indus with fuses := testFuses, flash := [], challenge := some 99 } }

def updating : State := { posted updateCmd keyed with hostMem := sputs (fun _ => (0 : Byte)) [] 0x1000 fwImage }
def unlocking : State := { posted tokenCmd keyed with mem := sputs (fun _ => (0 : Byte)) [] 0x1000 testToken }

theorem updating_host : updating.hostMem = sputs (fun _ => (0 : Byte)) [] 0x1000 fwImage := by simp only [updating]
theorem unlocking_mem : unlocking.mem = sputs (fun _ => (0 : Byte)) [] 0x1000 testToken := by simp only [unlocking]

theorem unlocking_token : unlocking.peek none 0x1000 256 = testToken := by
  have hl : testToken.length = 256 := by decide +kernel
  have h := peek_placed unlocking_mem (by simp only [unlocking]; rfl) 0 256 (by omega) (by decide +kernel)
  rw [Nat.add_zero, List.drop_zero, List.take_of_length_le (by omega)] at h
  exact h

theorem test_token_accepted : keyed.indus.tokenFails keyed.indus.challenge testToken = none := by decide +kernel

/-- The checks of an image read only the fuses. -/
theorem imageFails_fuses {x y : Indusium} (h : x.fuses = y.fuses) (b : List Byte) : x.imageFails b = y.imageFails b := by
  simp only [Indusium.imageFails, Indusium.revoked, Indusium.keyHash, Indusium.rollback, Indusium.fuse, h]

theorem witness_FirmwareAndDebugCommandsAct :
    updating.Canonical ∧ unlocking.Canonical ∧
    (updating.Presents 0 0x70 updateCmd ∧ updateCmd.arg 8 1 = 0 ∧
      updating.readHost (updateCmd.arg 16 8) (min (updateCmd.arg 24 8) 0x40_0000) = some fwImage ∧
      updating.indus.imageFails fwImage = none ∧ updating.indus.hostServing = false ∧
      swf Config.flashByte updating.indus.flash = true) ∧
    ((posted askCmd keyed).Presents 0 0x72 askCmd ∧ askCmd.arg 8 1 = 0 ∧ (posted askCmd keyed).indus.debugDisable = false) ∧
    (unlocking.Presents 0 0x72 tokenCmd ∧ tokenCmd.arg 8 1 = 1 ∧ unlocking.Sound (tokenCmd.arg 16 8) 256 ∧
      (∀ i, i < 256 → unlocking.resolveDirect (tokenCmd.arg 16 8 + i) = some (0x1000 + i) ∧ unlocking.holderOf (0x1000 + i) = none) ∧
      tokenCmd.arg 24 4 = 256 ∧ unlocking.indus.debugDisable = false ∧ (∀ p, p < 16 → (unlocking.part p).active = false) ∧
      unlocking.indus.meas.length = 21 ∧
      unlocking.indus.tokenFails unlocking.indus.challenge (unlocking.peek none 0x1000 256) = none) := by
  have hu := readHost_placed updating_host (by simp only [updating]; rfl) 0 1024 (by decide +kernel)
  refine ⟨canon_host (s := posted updateCmd keyed) (canon_of (by decide +kernel)) _ _,
    canon_mem (s := posted tokenCmd keyed) (canon_of (by decide +kernel)) _ _,
    ⟨presents_of (by decide +kernel), by decide +kernel, hu.trans (by decide +kernel),
      (imageFails_fuses (by simp only [updating]; rfl) _).trans test_fwImage_accepted, by decide +kernel,
      by decide +kernel⟩, ⟨presents_of (by decide +kernel), by decide +kernel⟩,
    presents_of (by decide +kernel), by decide +kernel, sound_clean (by simp only [unlocking]; rfl) (by simp only [unlocking]; rfl) (by simp only [unlocking]; rfl)
      (by decide +kernel), by decide +kernel, by decide +kernel, by decide +kernel, by decide +kernel, by decide +kernel, ?_⟩
  rw [unlocking_token]
  exact test_token_accepted

/-! ### Hypotheses that are met: descriptors -/

/-- A frond's stores in canonical form, as one test. -/
def frondB (x : Frond) : Bool :=
  swf (fun _ => (0 : Dword)) x.vec.sregs && swf (fun _ => (0 : Dword)) x.vec.vregs && swf (fun _ => false) x.vec.preds &&
  swf (fun _ => (0 : BitVec 5)) x.vec.flags && swf (fun _ => (0 : BitVec 16)) x.plainSems && swf (fun _ => (0 : BitVec 16)) x.panel0.data &&
  swf (fun _ => (0 : BitVec 16)) x.panel1.data && swf (fun _ => (0 : Byte)) x.panel0.scales && swf (fun _ => (0 : Byte)) x.panel1.scales

theorem frond_of {x : Frond} (h : frondB x = true) : x.Canonical := by
  simp only [frondB, Bool.and_eq_true] at h
  obtain ⟨⟨⟨⟨⟨⟨⟨⟨a, b⟩, c⟩, d⟩, e⟩, f⟩, g⟩, i⟩, j⟩ := h
  exact ⟨a, b, c, d, e, f, g, i, j⟩

/-- Kind, kind flags, and body fields of a descriptor: (lowest body bit, value), as the field maps lay them out. -/
def bodyBits : Instr → Nat × Nat × List (Nat × Nat)
  | .move _ b => (0x01, 0, [(0, b.srcAddr), (48, b.srcFrond), (55, b.srcSpace.toNat), (56, b.srcRel.toNat), (57, b.srcLayout),
      (59, b.srcSwz), (64, b.dstAddr), (112, b.dstFrond), (119, b.dstSpace.toNat), (120, b.dstRel.toNat), (121, b.dstLayout),
      (123, b.dstSwz), (128, b.srcScaleAddr), (192, b.dstScaleAddr), (256, b.shape), (264, b.srcFmt), (268, b.dstFmt),
      (272, b.numctl), (280, b.padValue), (296, b.unaligned.toNat), (297, b.slot4.toNat), (298, b.passes),
      (300, b.pieceRole.toNat), (301, b.scaleSupplied.toNat)])
  | .multicast _ b => (0x02, b.streamed.toNat, [(0, b.srcAddr), (64, b.dstAddr), (96, b.length), (192, b.destMask.toNat)])
  | .gather _ b => (0x03, 0, [(0, b.srcAddr), (22, b.srcStride), (42, b.fmt), (46, b.panel), (47, b.rows), (64, b.scaleAddr),
      (86, b.cols), (94, b.map), (96, b.scaleKind.toNat), (128, b.listAddr), (150, b.listLen), (160, b.swzTileAddr),
      (182, b.swzUse.toNat), (183, b.swzKind.toNat)])
  | .denseTile _ b => (0x10, 0, [(0, b.aAddr), (22, b.bAddr), (44, b.fmtA), (48, b.fmtB), (52, b.accMode), (54, b.passes),
      (56, b.bank), (57, b.accumulate.toNat), (58, b.split), (60, b.sub), (64, b.kBlocks), (76, b.rowsValid), (84, b.colsValid),
      (128, b.aScaleAddr), (150, b.bScaleAddr)])
  | .sparseTile _ b => (0x11, 0, [(0, b.tileAddr), (22, b.fmtW), (26, b.fmtAct), (30, b.panel), (31, b.dir.toNat), (32, b.quarter),
      (34, b.bank), (35, b.accumulate.toNat), (36, b.accMode), (38, b.intersect.toNat), (39, b.gbUse.toNat), (40, b.demote.toNat),
      (41, b.colsValid)])
  | .sampledTile _ b => (0x12, 0, [(0, b.tileAddr), (22, b.fmtStat), (26, b.fmtSrv), (30, b.panel), (31, b.dir.toNat),
      (32, b.quarter), (34, b.accumulate.toNat), (35, b.outW.toNat), (36, b.numctl), (44, b.colsValid), (64, b.statAddr),
      (86, b.statStride), (128, b.statScaleAddr), (150, b.outAddr)])
  | .drain _ b => (0x13, 0, [(0, b.outAddr), (22, b.outFmt), (26, b.bank), (27, b.sub), (30, b.split), (32, b.numctl),
      (40, b.epiOp), (42, b.epiFmt), (46, b.maskGate.toNat), (48, b.rowsValid), (56, b.colsValid), (64, b.epiAddr),
      (86, b.maskAddr), (108, b.outStride), (128, b.outScale.toNat), (160, b.epiStride), (192, b.outScaleAddr)])
  | .vec _ b => (0x20, 0, [(0, b.entry), (16, b.numctl), (64, b.arg1.toNat), (128, b.arg2.toNat), (192, b.arg3.toNat),
      (256, b.arg4.toNat), (320, b.arg5.toNat), (384, b.arg6.toNat)])
  | .update _ b | .factSums _ b | .factApply _ b => (0x21, 0, [(0, b.policy), (8, b.firstTile), (28, b.tileCount), (48, b.dense.toNat),
      (49, b.phase), (51, b.closeStep.toNat), (52, b.gradW48.toNat), (53, b.rescale.toNat), (56, b.numctl), (64, b.shardAddr),
      (128, b.gradAddr), (192, b.healthAddr), (256, b.sumAddr), (320, b.regionAddr), (384, b.count), (416, b.denseCols),
      (438, b.copyFmt), (440, b.freezePresent.toNat)])
  | .semWait _ b => (0x30, 0, [(0, b.target), (4, b.plainSem), (16, b.count)])
  | .semSignal _ b => (0x31, 0, [(0, b.target), (3, b.holdAll.toNat), (4, b.plainSem), (9, b.destFrond), (16, b.count)])
  | .ticket _ b => (0x32, 0, [(0, b.bodyCount), (64, b.counterAddr)])
  | .tickWait _ n => (0x33, 0, [(0, n)])
  | .maskPrune _ b => (0x40, 0, [(0, b.policy), (8, b.firstTile), (28, b.tileCount), (48, b.method), (50, b.perRow.toNat),
      (64, b.param), (128, b.cutAddr)])
  | .maskRegrow _ b => (0x41, 0, [(0, b.policy), (8, b.firstTile), (28, b.tileCount), (49, b.scoreB32.toNat), (50, b.perRow.toNat),
      (51, b.fillAware.toNat), (52, b.fillBand), (64, b.k), (128, b.scoreAddr)])
  | .maskCommit _ b => (0x42, 0, [(0, b.policy), (8, b.firstTile), (28, b.tileCount), (50, b.freezeOp), (52, b.fillAware.toNat),
      (64, b.freezeSrc)])
  | .reduceSend _ b => (0x50, 0, [(0, b.srcAddr), (22, b.fmt), (26, b.length), (64, b.dstChip), (80, b.dstPartition),
      (84, b.channel), (92, b.withHealth.toNat), (128, b.healthAddr)])
  | .reduceRecv _ b => (0x51, 0, [(0, b.dstAddr), (22, b.fmt), (26, b.length), (48, b.op), (64, b.srcChip), (80, b.srcPartition),
      (84, b.channel), (92, b.withHealth.toNat), (128, b.healthAddr), (150, b.localAddr), (192, b.outAddr), (214, b.outFmt),
      (218, b.numctl)])
  | _ => (0, 0, [])

/-- A descriptor row as a program holds it: its address, its 512 bits and its tag. -/
def dscFor (c : Instr) : ProgDsc :=
  let i := ((descriptorOf c).map (·.1)).getD default
  let k := bodyBits c
  { addr := i.addr
    raw := BitVec.ofNat 512 (k.1 + i.fence.toNat * 2 ^ 8 + i.frameEnd.toNat * 2 ^ 9 + k.2.1 * 2 ^ 10 + i.streamId * 2 ^ 16
      + (k.2.2.map fun e => e.2 * 2 ^ (64 + e.1)).sum)
    tag := BitVec.ofNat 32 ((if i.seq = .execute then 1 else 0) + i.cls * 2 + i.dim * 32 + i.origin * 256) }

/-- Partition 0 runs on frond 0. -/
def working : State := within0 .running booted

/-- The same with other contents of frond 0. -/
def workingOn (x : Frond) : State := working.setFrond 0 x

/-- The same with a descriptor row next in frond 0's program. -/
def atNext (c : Instr) (x : Frond) : State := workingOn { x with prog := [dscFor c] }

theorem fronds_of {s : State} (h : (s.fronds.all fun e => frondB e.2) = true) (f : Nat) : (s.frond f).Canonical := by
  have h0 : frondB Frond.reset = true := by decide
  have hg : ∀ l : List (Nat × Frond), (l.all fun e => frondB e.2) = true → frondB (sget (fun _ => Frond.reset) l f) = true := by
    intro l
    induction l with
    | nil => exact fun _ => h0
    | cons e l ih =>
      intro hl
      rw [List.all_cons, Bool.and_eq_true] at hl
      rw [sget]
      split
      · exact h0
      · split
        · exact hl.1
        · exact ih hl.2
  exact frond_of (hg s.fronds h)

theorem issues_of {s : State} {i : Issue} {is : Nat → Bool} {p : Nat} {pass : Option PassRef} {head : Bool}
    (h1 : (canonB s && s.fronds.all fun e => frondB e.2) = true)
    (h2 : i.frond < 128 ∧ i.wf = true ∧ s.workOf i.frond = some p ∧ (s.frond i.frond).gate i is = .go pass head ∧
      ((s.issued i p pass head).part p).skips i = false) : s.Issues i is p pass head := by
  rw [Bool.and_eq_true] at h1
  exact ⟨canon_of h1.1, fronds_of h1.2, h2.1, h2.2.1, h2.2.2.1, h2.2.2.2.1, h2.2.2.2.2⟩

theorem noWaits_of {s : State} (h1 : (s.part 0).fronds = 1) (h2 : (s.frond 0).jobs = []) : s.NoCollectiveWaits 0 := by
  intro f hf hb j hj
  have h0 : f = 0 := by
    rw [h1] at hb
    revert hb
    match f with
    | 0 => exact fun _ => rfl
    | n + 1 => simp
  subst h0
  rw [h2] at hj
  cases hj

def guardedDrain : Issue := { hx with cls := 0, origin := 2 ^ 24 - 1 }
def queuedFrond (n : Nat) : Frond := { Frond.reset with queue := List.replicate n { dsc := dscFor (.vec hx ve), pass := none } }
def endedFrond : Frond := { Frond.reset with fetch := { Sequencer.idle with ended := true } }

theorem witness_DescriptorsAreIssuedInOrder :
    let s := fun n => (atNext (.drain hx dr) (queuedFrond n)).shownBy (.drain hx dr)
    let g := (atNext (.drain guardedDrain dr) Frond.reset).shownBy (.drain guardedDrain dr)
    (descriptorOf (.drain { hx with frond := 128 } dr) = some ({ hx with frond := 128 }, true) ∧ 128 ≤ ({ hx with frond := 128 } : Issue).frond) ∧
    (descriptorOf (.drain { hx with cls := 16 } dr) = some ({ hx with cls := 16 }, true) ∧ ({ hx with cls := 16 } : Issue).wf = false) ∧
    (descriptorOf (.drain hx dr) = some (hx, true) ∧ (hx.wf && true) = true ∧ (booted.shownBy (.drain hx dr)).workOf hx.frond = none) ∧
    (canonB ((workingOn endedFrond).shownBy (.move hd mv)) = true ∧ descriptorOf (.move hd mv) = some (hd, true) ∧
      ((workingOn endedFrond).shownBy (.move hd mv)).workOf 0 = some 0 ∧
      (((workingOn endedFrond).shownBy (.move hd mv)).frond 0).fetch.ended = true) ∧
    ((working.frond 0).nextIs hx (isDrain dr) = false ∧ (working.frond 0).queue = []) ∧
    (∀ n ∈ [63, 64], canonB (s n) = true ∧ (s n).workOf 0 = some 0 ∧ ((s n).frond 0).loop = none ∧
      ((s n).frond 0).nextIs hx (spelledBy (.drain hx dr)) = true ∧ ((s n).frond 0).starved hx = false ∧
      ((s n).frond 0).queue ≠ [] ∧ (∀ e ∈ ((s n).frond 0).queue, e.dsc.spells hx (spelledBy (.drain hx dr)) = false) ∧
      ((s n).frond 0).queue.length = n) ∧
    ((∀ n ∈ [63, 64], (s n).NoCollectiveWaits 0) ∧ ((workingOn endedFrond).shownBy (.move hd mv)).NoCollectiveWaits 0 ∧
      working.NoCollectiveWaits 0 ∧ g.NoCollectiveWaits 0) ∧
    (canonB g = true ∧ descriptorOf (.drain guardedDrain dr) = some (guardedDrain, true) ∧ (guardedDrain.wf && true) = true ∧
      g.workOf 0 = some 0 ∧ (g.frond 0).gate guardedDrain (spelledBy (.drain guardedDrain dr)) = .go none false ∧
      g.readyFor 0 (.drain guardedDrain dr) = none ∧ ((g.issued guardedDrain 0 none false).part 0).skips guardedDrain = true) := by
  refine ⟨by decide +kernel, by decide +kernel, by decide +kernel, by decide +kernel, by decide +kernel, by decide +kernel,
    ⟨?_, noWaits_of (by decide +kernel) (by decide +kernel), noWaits_of (by decide +kernel) (by decide +kernel),
      noWaits_of (by decide +kernel) (by decide +kernel)⟩, by decide +kernel⟩
  intro n hn
  simp only [List.mem_cons, List.not_mem_nil, or_false] at hn
  rcases hn with rfl | rfl <;> exact noWaits_of (by decide +kernel) (by decide +kernel)

/-- A DENSE_TILE and a DRAIN of the last row of bank 1, as W48. -/
def dtx : DenseBody := { dt with bank := 1, bAddr := 0x2_0000 }
def drx : DrainBody := { dr with bank := 1, outFmt := 9, outScale := 0x3F800000, outAddr := 0x2F_FF00, outStride := 256 }

/-- The state in which a descriptor row's effect begins, on frond 0 where its program has it next. -/
def beginning (c : Instr) (i : Issue) (x : Frond) : State := ((atNext c x).presented i).issued i 0 none false

theorem dense_inside : ∀ a ∈ denseReads dtx, a < frondBytes := by
  intro a ha
  have h : denseReads dtx = ((List.range (denseSteps dtx + 127)).flatMap fun t => rangeFrom (0 + t * 128 * 2) (128 * 2))
      ++ rangeFrom 0x2_0000 (panelBytes dtx) := by
    rw [denseReads, if_neg (by decide), if_neg (by decide), List.append_nil, List.append_nil]; rfl
  rw [h, List.mem_append, List.mem_flatMap] at ha
  have hn : denseSteps dtx = 32 := by decide
  rcases ha with ⟨t, ht, ha⟩ | ha
  · rw [hn, List.mem_range] at ht
    have := List.mem_range'_1.mp ha
    have hf : frondBytes = 0x30_0000 := by decide
    omega
  · exact range_lt (by decide) a ha

theorem store_of {s : State} {f : Nat} {st : FrondStore} {ws : List Nat} (h : s.frondFlips = []) : s.StoreSound f st ws := by
  rw [State.StoreSound, State.storeBad, h]; rfl

/-- An error of one unit in the first block sum of the sub-array's last cell. -/
def upsetRow : Issue := { hx with upset := some { row := 127, col := 127, block := 0, item := 0, error := 1 } }

theorem witness_DenseTilesAccumulateAndDrain :
    (∀ b ∈ [dtx, { dtx with accumulate := true }], ∀ i ∈ [hx, upsetRow],
      ((atNext (.denseTile i b) Frond.reset).presented i).Issues i (isDense b) 0 none false ∧ b.wf = true ∧ i.seq = .execute ∧
      ((atNext (.denseTile i b) Frond.reset).presented i).bankWait i.frond b.bank (subRows b.split * b.sub) (subRows b.split) b.split false
        = none ∧
      (beginning (.denseTile i b) i Frond.reset).BufSound i.frond (denseReads b) ∧
      (beginning (.denseTile i b) i Frond.reset).StoreSound i.frond .accumulator (accWords b.bank (subRows b.split * b.sub) (subRows b.split) 128)) ∧
    (beginning (.denseTile hx dtx) hx Frond.reset).denseDisagrees 0 dtx hx.upset = false ∧
    ((beginning (.denseTile upsetRow dtx) upsetRow Frond.reset).denseDisagrees 0 dtx upsetRow.upset = true ∧
      ((beginning (.denseTile upsetRow dtx) upsetRow Frond.reset).part 0).faultCode = 0) ∧
    (let s := (atNext (.drain hx drx) Frond.reset).presented hx
     let s0 := beginning (.drain hx drx) hx Frond.reset
     s.Issues hx (isDrain drx) 0 none false ∧ drx.wf = true ∧
      s.bankWait 0 drx.bank (subRows drx.split * drx.sub) (subRows drx.split) drx.split true = none ∧
      (∀ y, y < drx.rowsValid → ∀ a ∈ drainRowBytes drx y, a < frondBytes) ∧ s0.BufSound 0 (drainReads drx) ∧
      s0.StoreSound 0 .accumulator (accWords drx.bank (subRows drx.split * drx.sub) drx.rowsValid drx.colsValid) ∧
      s0.BufSound 0 (((List.range drx.rowsValid).foldl (s0.drainRow 0 drx) { writes := [], gens := s0.gens, nans := 0 }).writes.map (·.addr)) ∧
      drx.outFmt = 9 ∧ drx.epiOp = 0 ∧ drx.maskGate = false ∧ drx.outScale = 0x3F800000 ∧ drx.rowsValid = 1) := by
  refine ⟨?_, by decide +kernel, by decide +kernel, issues_of (by decide +kernel) (by decide +kernel), by decide +kernel,
    by decide +kernel, by decide +kernel, bufSound_of (by decide +kernel) (by decide +kernel) (by decide +kernel),
    store_of (by decide +kernel), bufSound_of (by decide +kernel) (by decide +kernel) (by decide +kernel), by decide +kernel⟩
  intro b hb i hi
  simp only [List.mem_cons, List.not_mem_nil, or_false] at hb hi
  rcases hb with rfl | rfl <;> rcases hi with rfl | rfl <;>
    exact ⟨issues_of (by decide +kernel) (by decide +kernel), by decide +kernel, by decide +kernel, by decide +kernel,
      bufSound_of (by decide +kernel) (by decide +kernel) dense_inside, store_of (by decide +kernel)⟩

/-- Frond 0 holds one descriptor, of issue number 4. -/
def holding (b : JobBody) : State :=
  workingOn { Frond.reset with jobs := [{ id := 4, seq := .execute, streamId := 0, addr := 0x1000, pass := none, body := b }] }

def firstSlot : MaskSlot :=
  { (default : MaskSlot) with partition := 0, policyIx := 0, policy := 1, state := 2, committed := [5] }

/-- Two copies, of which the oldest has issue number 4. -/
def twoMoves : Frond :=
  { Frond.reset with jobs := [{ id := 4, seq := .fetch, streamId := 0, addr := 0x1000, pass := none, body := .move },
                              { id := 5, seq := .fetch, streamId := 0, addr := 0x1040, pass := none, body := .move }] }

theorem witness_CompletionsEndTheirDescriptors :
    (∀ b ∈ [JobBody.dense 0 0 128 0 0 1, .gather 1, .sparse 1 1 1 1, .sampled 1 1 0, .drain 0 0 128, .move, .multicast mc 5,
        .multicast { mc with streamed := true } 5, .prune 255, .regrow 255, .commit 255 3 2, .send sd true 1 0,
        .send sd true 0 0, .recv rv true [0] false 0, .recv { rv with withHealth := true } true [0] true 0],
      canonB (holding b) = true ∧ ((holding b).frond 0).job 5 = none ∧
      (((holding b).frond 0).job 4).map (·.body) = some b ∧ (holding b).ownerOf 0 = some 0) ∧
    (((holding .move).frond 0).jobs.find? fun x => x.body == .move) = ((holding .move).frond 0).job 4 ∧
    ((workingOn twoMoves).frond 0).job 5 = twoMoves.jobs[1]? ∧ (twoMoves.jobs.find? fun x => x.body == .move) = twoMoves.jobs[0]? ∧
    (sendPackets sd ≤ 1 ∧ 0 < sendPackets sd ∧ rv.length / 64 ≤ 1) ∧
    ({ holding (.commit 255 3 2) with slots := [(255, some firstSlot)] }.slot 255 = some firstSlot) ∧
    (((holding .vec).frond 0).vec.running = false ∧ ((holding .vec).frond 0).jobs.find? (fun j => j.body == .vec) =
      ((holding .vec).frond 0).job 4) ∧
    ((workingOn { Frond.reset with vec := { Frond.reset.vec with running := true } }).frond 0).vec.running = true := by decide +kernel

/-! ### Hypotheses that are met: lane-mode tiles -/

/-- The non-zero bytes of a compressed tile of BF16 with one value, 1.0, in row 127 and column 511. -/
def oneTile (a : Nat) : List (Nat × Byte) :=
  [(a + 0, 0x7e), (a + 1, 0x5c), (a + 2, 0x6), (a + 8, 0x1), (a + 12, 0x80), (a + 14, 0x2), (a + 22, 0x1), (a + 24, 0x17),
   (a + 26, 0x6), (a + 28, 0x18), (a + 30, 0x19), (a + 34, 0x1a), (a + 320, 0x1), (a + 1408, 0x1), (a + 1472, 0xff), (a + 1473, 0x1),
   (a + 1536, 0x7f), (a + 1600, 0x80), (a + 1601, 0x3f)] ++
    ((rangeFrom (a + 1665) 127).zip ((List.range 127).map fun j => BitVec.ofNat 8 (j + 1)))

def filledPanel : Panel := { (default : Panel) with filled := true, fmt := 6, extent := 512, active := [511], data := [(65408, 0x4000)] }

/-- Frond 0 with that panel and that tile at buffer address 0, and a descriptor row next in its program. -/
def lanes (c : Instr) : State := { atNext c { Frond.reset with panel0 := filledPanel } with fbuf := oneTile 0 }

/-- The same where the row's effect begins. -/
def lanesAt (c : Instr) (i : Issue) : State := ((lanes c).presented i).issued i 0 none false

/-- An error of one unit in the block of the tile's one position. -/
def upsetLane : Issue := { hx with upset := some { row := 127, col := 0, block := 0, item := 0, error := 1 } }

theorem tile_inside {n : Nat} (h : n ≤ 139328) : ∀ a ∈ rangeFrom 0 64 ++ rangeFrom 0 n, a < frondBytes := by
  intro a ha
  rcases List.mem_append.mp ha with ha | ha
  · exact range_lt (by decide) a ha
  · exact range_lt (by have hf : frondBytes = 0x30_0000 := by decide
                       omega) a ha

theorem witness_LaneTilesServeThePanel :
    (let s0 := lanesAt (.gather hd ga) hd
     ((lanes (.gather hd ga)).presented hd).Issues hd (isGather ga) 0 none false ∧ ga.wf = true ∧ hd.seq = .fetch ∧
      ((lanes (.gather hd ga)).presented hd).gatherWait 0 ga.panel hd.served = none ∧ s0.BufSound 0 (s0.gatherReads 0 ga) ∧
      s0.gatherFail 0 ga = none ∧ ga.map = 0) ∧
    (∀ b ∈ [sp, { sp with accumulate := true }], ∀ i ∈ [hx, upsetLane],
      let s0 := lanesAt (.sparseTile i b) i
      ((lanes (.sparseTile i b)).presented i).Issues i (isSparse b) 0 none false ∧ b.wf = true ∧ i.seq = .execute ∧
      ((lanes (.sparseTile i b)).presented i).laneWait i.frond b.panel (some b.bank) i.served = none ∧
      s0.BufSound i.frond (rangeFrom b.tileAddr 64 ++ rangeFrom b.tileAddr (tileExtent (tileHeader (s0.bufTile i.frond b.tileAddr)))) ∧
      s0.StoreSound i.frond .accumulator (accWords b.bank 0 128 128) ∧
      checkHeader (tileHeader (s0.bufTile i.frond b.tileAddr)) (fun v => v == b.fmtW) = none ∧
      s0.loadCheck i.frond b.tileAddr b.panel b.dir b.quarter b.intersect (fun v => v == b.fmtW) = none ∧ b.gbUse = false) ∧
    (let s0 := lanesAt (.sampledTile hx sm) hx
     let g := s0.bufTile 0 sm.tileAddr
     let h := tileHeader g
     ((lanes (.sampledTile hx sm)).presented hx).Issues hx (isSampled sm) 0 none false ∧ sm.wf = true ∧
      ((lanes (.sampledTile hx sm)).presented hx).laneWait 0 sm.panel none hx.served = none ∧
      s0.BufSound 0 (rangeFrom sm.tileAddr 64 ++ rangeFrom sm.tileAddr (tileExtent h)) ∧
      checkHeader h (fun v => lanePair v sm.fmtStat) = none ∧
      s0.loadCheck 0 sm.tileAddr sm.panel sm.dir sm.quarter false (fun v => lanePair v sm.fmtStat) = none ∧
      s0.BufSound 0 ((List.range 128).flatMap fun j => rangeFrom (sm.statAddr + j * sm.statStride) (rowBytes sm.fmtStat sm.colsValid)) ∧
      s0.BufSound 0 (((tileLanes g h sm.dir sm.quarter).zipIdx.foldl
        (fun (a : List (Nat × Byte) × List (Nat × Dword)) l => l.1.zipIdx.foldl (fun a e =>
          let o := s0.sampledResult 0 sm hx.upset ((s0.frond 0).panel sm.panel) l.2 e.2 e.1 a.2
          (a.1 ++ o.1, o.2)) a) ([], s0.gens)).1.map (·.1)) ∧ hx.upset = none) := by
  refine ⟨⟨issues_of (by decide +kernel) (by decide +kernel), by decide +kernel, by decide, by decide +kernel,
      bufSound_of (by decide +kernel) (by decide +kernel) (by decide +kernel), by decide +kernel⟩, ?_,
    ⟨issues_of (by decide +kernel) (by decide +kernel), by decide +kernel, by decide +kernel,
      bufSound_of (by decide +kernel) (by decide +kernel) (tile_inside (by decide +kernel)), by decide +kernel, by decide +kernel,
      bufSound_of (by decide +kernel) (by decide +kernel) (by decide +kernel),
      bufSound_of (by decide +kernel) (by decide +kernel) (by decide +kernel), by decide⟩⟩
  intro b hb i hi
  simp only [List.mem_cons, List.not_mem_nil, or_false] at hb hi
  rcases hb with rfl | rfl <;> rcases hi with rfl | rfl <;>
    exact ⟨issues_of (by decide +kernel) (by decide +kernel), by decide +kernel, by decide, by decide +kernel,
      bufSound_of (by decide +kernel) (by decide +kernel) (tile_inside (by decide +kernel)), store_of (by decide +kernel), by decide +kernel,
      by decide +kernel, by decide⟩

/-! ### Hypotheses that are met: copies, kernels, updates and masks -/

/-- Partition 0 runs on frond 0 with the first MiB of the Sphagnum and a copy shape of two elements. -/
def copying (c : Instr) : State :=
  { ((atNext c Frond.reset).modPart 0 fun x => { x with grants := [{ kind := 1, blocks := 1, base := 0 }] }) with
    shapeTab := [(0, BitVec.ofNat 512 (2 + 2 ^ 16 + 2 ^ 32 + 2 ^ 48 + 2 ^ 64 + 1 * 2 ^ 339 + 2 * 2 ^ 342 + 3 * 2 ^ 345 + 4 * 2 ^ 348))] }

/-- The same where the row's effect begins. -/
def copyingAt (c : Instr) (i : Issue) : State := ((copying c).presented i).issued i 0 none false

theorem reach_low {s : State} {a : Nat} (w : Bool) (hg : (s.part 0).grants = [{ kind := 1, blocks := 1, base := 0 }])
    (hw : (w && s.writeBarred 0 a) = false) (ha : a < 0x10_0000) : s.reach 0 w a = some a := by
  have hr : s.resolve (some 0) a = some a := by
    rw [State.resolve, State.resolveWindow, if_neg (by omega), Option.bind_some, State.resolveDirect, if_pos (by omega)]
  have hh : s.holds 0 a = true := by
    rw [State.holds, hg]
    have h1 : a % 0x2000_0000 = a := Nat.mod_eq_of_lt (by omega)
    simp only [inLanding, inGrant, grantBytes, h1, List.any_cons, List.any_nil]
    simp
    omega
  rw [State.reach, hr]
  simp [hh, hw]

theorem readable_low {s : State} {as : List Nat} (hp : s.poison = []) (hf : s.flips = []) (hd : s.devErr = [])
    (hg : (s.part 0).grants = [{ kind := 1, blocks := 1, base := 0 }]) (h : ∀ a ∈ as, a < 0x10_0000) : s.Readable 0 as :=
  fun a ha => ⟨a, reach_low false hg rfl (h a ha), checkUnit_clean hp hf hd _⟩

theorem writable_low {s : State} {as : List Nat} (hp : s.poison = []) (hf : s.flips = []) (hd : s.devErr = [])
    (hg : (s.part 0).grants = [{ kind := 1, blocks := 1, base := 0 }]) (hl : (s.part 0).barred = none) (hs : s.slots = [])
    (h : ∀ a ∈ as, a < 0x10_0000) : s.Writable 0 as :=
  fun a ha => ⟨a, reach_low true hg (by simp [State.writeBarred, inProgram, hl, hs]) (h a ha), checkUnit_clean hp hf hd _⟩

/-- A MOVE of two BF16 elements from device memory into a buffer, and one within device memory. -/
def mvIn : MoveBody := { mv with srcAddr := 0xF_FFC0, dstAddr := 0x2F_FFC0, dstSpace := true }
def mvDev : MoveBody := { mv with srcAddr := 0xF_FFC0, dstAddr := 0x40 }

def shape2 : CopyShape := copyShape (sget (fun _ => (0 : BitVec 512)) (copying (.move hd mvIn)).shapeTab 0)
def sideAt (buf : Option Nat) (a : Nat) : CopySide := { buf := buf, base := a, swz := 0, layout := 0, fmt := 6, item := none }

theorem moves_data {s : State} (h : (shape2.elems.all fun e => match e.src with
      | some x => ((sideAt none 0xF_FFC0).elemBytes ((sideAt none 0xF_FFC0).runAddr shape2.s (runIndex shape2.ext x.1)) x.2).all
          fun a => (s.byteBad 0 (sideAt none 0xF_FFC0) a).isNone
      | none => true) = true) : ∀ e ∈ shape2.elems, ∀ x, e.src = some x → ∀ a ∈ (sideAt none 0xF_FFC0).elemBytes
    ((sideAt none 0xF_FFC0).runAddr shape2.s (runIndex shape2.ext x.1)) x.2, s.byteBad 0 (sideAt none 0xF_FFC0) a = none := by
  intro e he x hx a ha
  have h1 := List.all_eq_true.mp h e he
  rw [hx] at h1
  exact Option.isNone_iff_eq_none.mp (List.all_eq_true.mp h1 a ha)

theorem moves_in : (copyingAt (.move hd mvIn) hd).Moves hd mvIn 0 shape2 (sideAt none 0xF_FFC0) (sideAt (some 0) 0x2F_FFC0) where
  record := store_of (by decide +kernel)
  shape := by decide +kernel
  srcSide := by decide +kernel
  dstSide := by decide +kernel
  srcAligned := by decide +kernel
  dstAligned := by decide +kernel
  apart := by decide +kernel
  srcInside := by decide +kernel
  dstInside := by decide +kernel
  srcScales := by decide +kernel
  dstScales := by decide +kernel
  data := moves_data (by decide +kernel)
  scales := by decide +kernel
  supplied := fun h => absurd rfl h

theorem moves_dev : (copyingAt (.move hd mvDev) hd).Moves hd mvDev 0 shape2 (sideAt none 0xF_FFC0) (sideAt none 0x40) where
  record := store_of (by decide +kernel)
  shape := by decide +kernel
  srcSide := by decide +kernel
  dstSide := by decide +kernel
  srcAligned := by decide +kernel
  dstAligned := by decide +kernel
  apart := by decide +kernel
  srcInside := by decide +kernel
  dstInside := by decide +kernel
  srcScales := by decide +kernel
  dstScales := by decide +kernel
  data := moves_data (by decide +kernel)
  scales := by decide +kernel
  supplied := fun h => absurd rfl h

/-- A stream of one free item in the buffer of frond 0, with the stream ID that a header of zeros names. -/
def oneStream : Stream :=
  { (default : Stream) with partition := 0, itemUnits := 1, depth := 1, ringInFrond := true, freed := 1 }

def mcs : MulticastBody := { mc with streamed := true }

/-- Such a stream, and a MULTICAST next in frond 0's program, where its issue is judged and where its effect begins. -/
def streaming (b : MulticastBody) : State :=
  (({ copying (.multicast hd b) with streams := [(0, some oneStream)] } : State).arrive hd.arriving).presented hd
def streamingAt (b : MulticastBody) : State := (streaming b).issued hd 0 none false

theorem one_dest {d : Nat} : ∀ {j : Nat}, (destsOf mc.destMask)[j]? = some d → j = 0 ∧ d = 0
  | 0, h => ⟨rfl, (Option.some.inj ((by decide +kernel : (destsOf mc.destMask)[0]? = some 0).symm.trans h)).symm⟩
  | j + 1, h => by
    have : (destsOf mc.destMask).length = 1 := by decide +kernel
    rw [List.getElem?_eq_none (by omega)] at h
    cases h

theorem witness_CopiesAndKernelsStart :
    (((copying (.move hd mvIn)).presented hd).Issues hd (isMove mvIn) 0 none false ∧ mvIn.wf = true ∧
      ((copying (.move hd mvIn)).presented hd).moveWait 0 = none ∧
      (copyingAt (.move hd mvIn) hd).Moves hd mvIn 0 shape2 (sideAt none 0xF_FFC0) (sideAt (some 0) 0x2F_FFC0) ∧
      (copyingAt (.move hd mvIn) hd).BufSound 0
        (((copyingAt (.move hd mvIn) hd).moveCells 0 0 mvIn shape2 (sideAt none 0xF_FFC0) (sideAt (some 0) 0x2F_FFC0)).map (·.1))) ∧
    (((copying (.move hd mvDev)).presented hd).Issues hd (isMove mvDev) 0 none false ∧ mvDev.wf = true ∧
      ((copying (.move hd mvDev)).presented hd).moveWait 0 = none ∧
      (copyingAt (.move hd mvDev) hd).Moves hd mvDev 0 shape2 (sideAt none 0xF_FFC0) (sideAt none 0x40) ∧
      (copyingAt (.move hd mvDev) hd).Writable 0
        (((copyingAt (.move hd mvDev) hd).moveCells 0 0 mvDev shape2 (sideAt none 0xF_FFC0) (sideAt none 0x40)).map (·.1))) ∧
    (∀ b ∈ [mc, mcs], (streaming b).Issues hd (isMulticast b) 0 none false ∧ b.wf = true ∧
      (streaming b).stream (hd.streamId + 0) = some oneStream ∧ oneStream.freed ≠ 0 ∧ (destsOf b.destMask).length = 1 ∧
      (streamingAt b).Readable 0 (rangeFrom b.srcAddr b.length) ∧
      (∀ j d, (destsOf b.destMask)[j]? = some d → (streamingAt b).BufSound d (rangeFrom ((streamingAt b).multicastBase hd b j) b.length))) ∧
    (((atNext (.vec hx ve) Frond.reset).presented hx).Issues hx (isVec ve) 0 none false ∧ ve.wf = true ∧
      ∀ j ∈ (((atNext (.vec hx ve) Frond.reset).presented hx).frond 0).jobs, j.body ≠ .vec) := by
  refine ⟨⟨issues_of (by decide +kernel) (by decide +kernel), by decide +kernel, by decide +kernel, moves_in,
      bufSound_of (by decide +kernel) (by decide +kernel) (by decide +kernel)⟩,
    ⟨issues_of (by decide +kernel) (by decide +kernel), by decide +kernel, by decide +kernel, moves_dev,
      writable_low (by decide +kernel) (by decide +kernel) (by decide +kernel) (by decide +kernel) (by decide +kernel) (by decide +kernel)
        (by decide +kernel)⟩, ?_,
    issues_of (by decide +kernel) (by decide +kernel), by decide +kernel, by decide +kernel⟩
  intro b hb
  simp only [List.mem_cons, List.not_mem_nil, or_false] at hb
  rcases hb with rfl | rfl
  all_goals
    refine ⟨issues_of (by decide +kernel) (by decide +kernel), by decide +kernel, by decide +kernel, by decide +kernel,
      by decide +kernel, readable_low (by decide +kernel) (by decide +kernel) (by decide +kernel) (by decide +kernel) (by decide +kernel), ?_⟩
    intro j d hj
    obtain ⟨rfl, rfl⟩ := one_dest hj
    exact bufSound_of (by decide +kernel) (by decide +kernel) (by decide +kernel)

/-! ### Hypotheses that are met: updates -/

/-- Device bytes read alike in two states whose memory, mask slots and package are the same. -/
structure Alike (s t : State) : Prop where
  mem : s.mem = t.mem
  flips : s.flips = []
  clean : t.flips = []
  slots : s.slots = t.slots
  pkg : s.pkg = t.pkg

theorem Alike.resolve {s t : State} (h : Alike s t) (p : Option Nat) (a : Nat) : s.resolve p a = t.resolve p a := by
  have hd : s.resolveDirect = t.resolveDirect := funext fun a => by
    unfold State.resolveDirect State.memCap State.memStateOf
    rw [h.pkg]
  simp only [State.resolve, State.resolveWindow, State.slot, h.slots, hd]

theorem Alike.byte {s t : State} (h : Alike s t) (p : Nat) : s.devByte p = t.devByte p := by
  funext a
  simp only [State.devByte, h.resolve, readByte_clean h.flips, readByte_clean h.clean, h.mem]

/-- A dense UPDATE of one position: shard record, gradient, health word, sums and the range below 4 KiB. -/
def ud : UpdateBody :=
  { up with dense := true, shardAddr := 0x100, gradAddr := 0x300, healthAddr := 0x400, sumAddr := 0x500, regionAddr := 0x200
            count := 1, denseCols := 1 }

/-- The first phase of a FACT rule, the second, an UPDATE of no position, one that closes its step, and one of a masked tile. -/
def ud1 : UpdateBody := { ud with phase := 1 }
def ud2 : UpdateBody := { ud with phase := 2 }
def ud0 : UpdateBody := { ud with count := 0 }
def udc : UpdateBody := { ud with closeStep := true }
def um : UpdateBody := { up with shardAddr := 0x100, gradAddr := 0x300, healthAddr := 0x400 }

/-- A gradient multiplier of 1.0, a scale of 1.0, and statistics at 0x600; `h` holds the health word. -/
def records (h : List Host.Cell) : List Host.Cell := word 0x124 4 0x3F80_0000 ++ word 0x128 6 0x600 ++ h

/-- A health scale of 1.0, also with its non-finite bit, and the word of a step skew. -/
def scale1 : List Host.Cell := word 0x410 4 0x3F80_0000
def nonfinite1 : List Host.Cell := word 0x410 5 0x1_3F80_0000
def skewed1 : List Host.Cell := word 0x408 8 1 ++ scale1

/-- The shard record and the health words as numbers. -/
def shardIs0 : Nat := 0x6003f800000000000000000000000000000000000000000000000000000000000000000000000000000
def wordIs0 : Nat := 0x3f80000000000000000000000000000000000000
def nonfiniteIs0 : Nat := 0x13f80000000000000000000000000000000000000
def skewedIs0 : Nat := 0x3f80000000000000000000010000000000000000

/-- An UPDATE row with its records, next in frond 0's program, where its issue is judged and where its effect begins. -/
def updRow (c : Instr) (h : List Host.Cell) : State := ({ copying c with mem := records h } : State).presented hx
def updAt (c : Instr) (h : List Host.Cell) : State := (updRow c h).issued hx 0 none false

/-- What reading and writing below 1 MiB needs. -/
structure Low (s : State) : Prop where
  poison : s.poison = []
  flips : s.flips = []
  devErr : s.devErr = []
  grants : (s.part 0).grants = [{ kind := 1, blocks := 1, base := 0 }]
  barred : (s.part 0).barred = none

theorem Low.reads {s : State} (h : Low s) {as : List Nat} (ha : ∀ a ∈ as, a < 0x10_0000) : s.Readable 0 as :=
  readable_low h.poison h.flips h.devErr h.grants ha

theorem Low.writes {s : State} (h : Low s) (hs : s.slots = []) {as : List Nat} (ha : ∀ a ∈ as, a < 0x10_0000) : s.Writable 0 as :=
  writable_low h.poison h.flips h.devErr h.grants h.barred hs ha

theorem low_of {s : State} (h : (s.poison.isEmpty && s.flips.isEmpty && s.devErr.isEmpty &&
    decide ((s.part 0).grants = [{ kind := 1, blocks := 1, base := 0 }]) && (s.part 0).barred.isNone) = true) : Low s := by
  simp only [Bool.and_eq_true, List.isEmpty_iff, decide_eq_true_eq, Option.isNone_iff_eq_none] at h
  exact ⟨h.1.1.1.1, h.1.1.1.2, h.1.1.2, h.1.2, h.2⟩

theorem update_reads {s : State} (l : Low s) {b : UpdateBody} {w r : Nat} (hb : b.healthAddr = 0x400 ∧ b.shardAddr = 0x100)
    (hw : w = s.devNat 0 0x400 32) (hs : r = s.devNat 0 0x100 64) : s.UpdateReads 0 b w r where
  health := by rw [hb.1]; exact l.reads (by decide)
  wordIs := by rw [hb.1]; exact hw
  record := fun _ => by rw [hb.2]; exact l.reads (by decide)
  shardIs := by rw [hb.2]; exact hs

def tornCells (b : UpdateBody) : List (Nat × Byte) :=
  [(b.shardAddr + 48, BitVec.ofNat 8 (bitsOf shardIs0 384 8 % 32 + 32 + bitsOf shardIs0 390 2 * 64))]

def statsIs0 (s : State) : FactStats :=
  newStats (uConst shardIs0 wordIs0) 1 1 (fun o n => s.devNat 0 (ud2.sumAddr + o) n) (fun o n => s.devNat 0 (shStats shardIs0 + o) n)

def sumsOf0 : List Nat := rangeFrom ud2.sumAddr (sumSize 1 1) ++ rangeFrom (shStats shardIs0) (statCol 1 + 4)

/-- Frond 0 of partition 0, with the update's records, holds an UPDATE that applied as step 1; with a plan, it may close. -/
def updated (b : UpdateBody) (pl : Option Plan) : State :=
  ((updRow (.update hx b) scale1).setFrond 0 { Frond.reset with jobs := [{ id := 4, seq := .execute, streamId := 0, addr := 0x1000
                                                                           pass := none, body := .update b .apply 1 0 0 }] }).modPart 0
    fun x => { x with plan := pl }

def lossCells (b : UpdateBody) (pl : Plan) (s : State) : List (Nat × Byte) :=
  cellsAt pl.lossScaleAddr (leBytes 32 (lossAfter (s.devNat 0 pl.lossScaleAddr 32) (s.devNat 0 b.healthAddr 32) .apply))

/-- A policy of one BF16 tile: capacity 64, 1792 bytes for the tile, the regions at 0x10000 and 0x20000; `c` its constant flag. -/
def onePolicy (c : Nat) : BitVec 512 :=
  BitVec.ofNat 512 (1 * 2 ^ 16 + 1 * 2 ^ 28 + 6 * 2 ^ 40 + c * 2 ^ 44 + 64 * 2 ^ 128 + 1792 * 2 ^ 192) |||
    (0x1_0000#512 <<< 256) ||| (0x2_0000#512 <<< 320)

def oneSlot (ix c : Nat) (gone : List Nat) : MaskSlot :=
  { (default : MaskSlot) with partition := 0, policyIx := ix, policy := onePolicy c, state := 2, prunes := gone, nnz := 1 }

/-- A slot that may change its count. -/
def freeSlot : MaskSlot := oneSlot 0 0 []

/-- The UPDATE row of a masked tile, which slot 3 holds at 0x10000. -/
def maskedRow : State :=
  ({ (copying (.update hx um)).modPart 0 (fun x => { x with plan := some { planS with slots := [3] } }) with
      mem := records scale1 ++ oneTile 0x1_0000, slots := [(3, some freeSlot)] } : State).presented hx
def maskedAt : State := maskedRow.issued hx 0 none false

/-- Without stored errors a device byte is what memory holds. -/
theorem devByte_clean {s : State} (hf : s.flips = []) (p a : Nat) :
    s.devByte p a = match s.resolve (some p) a with | some x => s.byteAt x | none => 0 := by
  rw [State.devByte]
  cases s.resolve (some p) a with
  | none => rfl
  | some x => exact readByte_clean hf x

theorem reads_of {s : State} (l : Low s) {as : List Nat} (h : (as.all fun a => (s.reach 0 false a).isSome) = true) : s.Readable 0 as :=
  fun a ha => let ⟨y, hy⟩ := Option.isSome_iff_exists.mp (List.all_eq_true.mp h a ha)
    ⟨y, hy, checkUnit_clean l.poison l.flips l.devErr _⟩

theorem writes_of {s : State} (l : Low s) {as : List Nat} (h : (as.all fun a => (s.reach 0 true a).isSome) = true) : s.Writable 0 as :=
  fun a ha => let ⟨y, hy⟩ := Option.isSome_iff_exists.mp (List.all_eq_true.mp h a ha)
    ⟨y, hy, checkUnit_clean l.poison l.flips l.devErr _⟩

/-- The masked tile as the UPDATE finds it. -/
def tileU0 : UTile := maskedAt.tileU 0 3 freeSlot um 0

theorem witness_UpdatesApplyTheirRule :
    (let s0 := updAt (.update hx ud) scale1
     (updRow (.update hx ud) scale1).Issues hx (isUpdate ud) 0 none false ∧ ud.wf = true ∧ s0.UpdateReads 0 ud wordIs0 shardIs0 ∧
      (verdictOf wordIs0 (some shardIs0)).1 = .apply ∧ s0.Readable 0 (denseReadsOf shardIs0 ud) ∧
      (∀ a ∈ denseReadsOf shardIs0 ud, s0.resolve (some 0) a ≠ s0.resolve (some 0) (ud.shardAddr + 48)) ∧
      s0.Writable 0 ((tornCells ud).map (·.1)) ∧
      s0.Writable 0 ((denseCells shardIs0 ud ((s0.densePos 0 shardIs0 ud).foldl
        (updatePos (uConst shardIs0 wordIs0) (denseForm hx 0 shardIs0 ud) fun _ => ⟨.zero, .zero, .zero⟩) (UAcc.start s0.gens))).map (·.1))) ∧
    (let s0 := updAt (.factSums hx ud1) scale1
     (updRow (.factSums hx ud1) scale1).Issues hx (isUpdate ud1) 0 none false ∧ ud1.wf = true ∧ s0.UpdateReads 0 ud1 wordIs0 shardIs0 ∧
      s0.Readable 0 (denseReadsOf shardIs0 ud1) ∧ factDims ud1 1 = (1, 1) ∧
      s0.Writable 0 ((sumCells (uConst shardIs0 wordIs0) ud1.sumAddr 1 1 (s0.densePos 0 shardIs0 ud1)).map (·.1))) ∧
    (let s0 := updAt (.factApply hx ud2) scale1
     (updRow (.factApply hx ud2) scale1).Issues hx (isUpdate ud2) 0 none false ∧ ud2.wf = true ∧ s0.UpdateReads 0 ud2 wordIs0 shardIs0 ∧
      factDims ud2 1 = (1, 1) ∧ s0.Readable 0 (denseReadsOf shardIs0 ud2) ∧
      (∀ a ∈ denseReadsOf shardIs0 ud2 ++ sumsOf0, s0.resolve (some 0) a ≠ s0.resolve (some 0) (ud2.shardAddr + 48)) ∧
      s0.Readable 0 sumsOf0 ∧ s0.Writable 0 ((tornCells ud2).map (·.1)) ∧
      s0.Writable 0 (((statsIs0 s0).cells (shStats shardIs0) 1).map (·.1)) ∧
      (∀ a ∈ denseReadsOf shardIs0 ud2, ∀ c ∈ (statsIs0 s0).cells (shStats shardIs0) 1, s0.resolve (some 0) a ≠ s0.resolve (some 0) c.1) ∧
      s0.Writable 0 ((denseCells shardIs0 ud2 ((s0.densePos 0 shardIs0 ud2).foldl
        (updatePos (uConst shardIs0 wordIs0) (denseForm hx 0 shardIs0 ud2) (statsIs0 s0).of) (UAcc.start s0.gens))).map (·.1))) ∧
    (maskedRow.Issues hx (isUpdate um) 0 none false ∧ um.wf = true ∧ maskedAt.UpdateReads 0 um wordIs0 shardIs0 ∧ um.dense = false ∧
      um.rescale = false ∧ um.tileCount = 1 ∧ maskedAt.slotOf 0 um.policy = some (3, freeSlot) ∧ maskedAt.doubleBuffers 0 um.policy = false ∧
      checkTile tileU0.bytes true true false (fun _ => true) = none ∧ tileExtent (tileHeader tileU0.bytes) ≤ polTileBytes freeSlot.policy ∧
      maskedAt.Readable 0 (tileU0.headBytes freeSlot ++ tileU0.partBytes freeSlot um) ∧
      (∀ a ∈ tileU0.headBytes freeSlot ++ tileU0.partBytes freeSlot um,
        maskedAt.resolve (some 0) a ≠ maskedAt.resolve (some 0) (um.shardAddr + 48)) ∧ maskedAt.Writable 0 ((tornCells um).map (·.1)) ∧
      maskedAt.Writable 0 ((tileU0.cells freeSlot um (tileU0.pos.foldl (updatePos (uConst shardIs0 wordIs0) (tileU0.form freeSlot hx 0 um)
        fun _ => ⟨.zero, .zero, .zero⟩) (UAcc.start maskedAt.gens))).map (·.1))) ∧
    ((updRow (.update hx ud0) scale1).Issues hx (isUpdate ud0) 0 none false ∧ ud0.wf = true ∧
      (updAt (.update hx ud0) scale1).UpdateReads 0 ud0 wordIs0 shardIs0 ∧ (verdictOf wordIs0 none).1 = .apply) ∧
    ((updRow (.update hx ud) nonfinite1).Issues hx (isUpdate ud) 0 none false ∧
      (updAt (.update hx ud) nonfinite1).UpdateReads 0 ud nonfiniteIs0 shardIs0 ∧ (verdictOf nonfiniteIs0 (some shardIs0)).1 = .skip) ∧
    ((updRow (.update hx ud) skewed1).Issues hx (isUpdate ud) 0 none false ∧
      (updAt (.update hx ud) skewed1).UpdateReads 0 ud skewedIs0 shardIs0 ∧ (verdictOf skewedIs0 (some shardIs0)).1 = .skew ∧
      ((updAt (.update hx ud) skewed1).part 0).faultCode = 0) ∧
    (∀ x ∈ [(ud, none), (udc, some planS)], canonB (updated x.1 x.2) = true ∧
      (((updated x.1 x.2).frond 0).job 4).map (·.body) = some (.update x.1 .apply 1 0 0) ∧ (updated x.1 x.2).ownerOf 0 = some 0 ∧
      ((updated x.1 x.2).part 0).plan = x.2 ∧ writesStep x.1 .apply = true) ∧
    (updated ud none).Writable 0 ((stepCells ud 1 0 0 ((updated ud none).devByte 0 (ud.shardAddr + 48))).map (·.1)) ∧
    (let s := updated udc (some planS)
     let steps := stepCells udc 1 0 0 (s.devByte 0 (udc.shardAddr + 48))
     let reads := rangeFrom planS.lossScaleAddr 32 ++ rangeFrom udc.healthAddr 32
     s.Writable 0 (steps.map (·.1)) ∧ s.Readable 0 reads ∧
      (∀ a ∈ reads, ∀ c ∈ steps, s.resolve (some 0) a ≠ s.resolve (some 0) c.1) ∧ s.Writable 0 ((lossCells udc planS s).map (·.1))) := by
  have l0 : Low (updAt (.update hx ud) scale1) := low_of (by decide +kernel)
  have l1 : Low (updAt (.factSums hx ud1) scale1) := low_of (by decide +kernel)
  have l2 : Low (updAt (.factApply hx ud2) scale1) := low_of (by decide +kernel)
  have lm : Low maskedAt := low_of (by decide +kernel)
  have lc : Low (updated udc (some planS)) := low_of (by decide +kernel)
  refine ⟨⟨issues_of (by decide +kernel) (by decide +kernel), by decide, update_reads l0 (by decide) (by decide +kernel) (by decide +kernel),
      by decide +kernel, l0.reads (by decide +kernel), by decide +kernel, l0.writes (by decide +kernel) (by decide +kernel),
      l0.writes (by decide +kernel) (by decide +kernel)⟩,
    ⟨issues_of (by decide +kernel) (by decide +kernel), by decide, update_reads l1 (by decide) (by decide +kernel) (by decide +kernel),
      l1.reads (by decide +kernel), by decide +kernel, l1.writes (by decide +kernel) (by decide +kernel)⟩,
    ⟨issues_of (by decide +kernel) (by decide +kernel), by decide, update_reads l2 (by decide) (by decide +kernel) (by decide +kernel),
      by decide +kernel, l2.reads (by decide +kernel), by decide +kernel, l2.reads (by decide +kernel),
      l2.writes (by decide +kernel) (by decide +kernel), l2.writes (by decide +kernel) (by decide +kernel), by decide +kernel,
      l2.writes (by decide +kernel) (by decide +kernel)⟩,
    ⟨issues_of (by decide +kernel) (by decide +kernel), by decide, update_reads lm (by decide) (by decide +kernel) (by decide +kernel),
      by decide, by decide, by decide, by decide +kernel, by decide +kernel, by decide +kernel, by decide +kernel, reads_of lm (by decide +kernel),
      by decide +kernel, writes_of lm (by decide +kernel), writes_of lm (by decide +kernel)⟩,
    ⟨issues_of (by decide +kernel) (by decide +kernel), by decide,
      update_reads (low_of (by decide +kernel)) (by decide) (by decide +kernel) (by decide +kernel), by decide +kernel⟩,
    ⟨issues_of (by decide +kernel) (by decide +kernel),
      update_reads (low_of (by decide +kernel)) (by decide) (by decide +kernel) (by decide +kernel), by decide +kernel⟩,
    ⟨issues_of (by decide +kernel) (by decide +kernel),
      update_reads (low_of (by decide +kernel)) (by decide) (by decide +kernel) (by decide +kernel), by decide +kernel⟩,
    by decide +kernel, (low_of (by decide +kernel)).writes (by decide +kernel) (by decide +kernel),
    lc.writes (by decide +kernel) (by decide +kernel), lc.reads (by decide +kernel), by decide +kernel,
    lc.writes (by decide +kernel) (by decide +kernel)⟩

/-! ### Hypotheses that are met: masks -/

/-- A slot of a constant tensor that has removed a position without regrowing one. -/
def shortSlot : MaskSlot := oneSlot 1 1 [65535]

/-- A mask row of partition 0 with two mask slots of one tile, whose one position is row 127, column 511: where its issue is
judged and where its effect begins. -/
def maskRow (c : Instr) : State :=
  ({ (copying c).modPart 0 (fun x => { x with plan := some { planS with slots := [3, 4] } }) with
      mem := oneTile 0x1_0000, slots := [(3, some freeSlot), (4, some shortSlot)] } : State).presented hx
def masking (c : Instr) : State := (maskRow c).issued hx 0 none false

/-- What the tiles of the rows need: the same device bytes as behind a MASK_COMMIT, and reading below 1 MiB. -/
structure Masked (s : State) : Prop where
  low : Low s
  alike : Alike s (masking (.maskCommit hx cm))

theorem masked_of {s : State} (h : (s.poison.isEmpty && s.flips.isEmpty && s.devErr.isEmpty &&
      decide ((s.part 0).grants = [{ kind := 1, blocks := 1, base := 0 }]) && (s.part 0).barred.isNone) = true)
    (h2 : s.mem = oneTile 0x1_0000 ∧ s.slots = [(3, some freeSlot), (4, some shortSlot)] ∧ s.pkg = booted.pkg) : Masked s := by
  refine ⟨low_of h, ⟨h2.1.trans ?_, (low_of h).flips, by decide +kernel, h2.2.1.trans ?_, h2.2.2.trans ?_⟩⟩ <;> decide +kernel

/-- The tile as a Soredia unit reads it. -/
def readTile1 : TileRead :=
  { t := 0, base := 0x1_0000, bytes := fun o => (masking (.maskCommit hx cm)).devByte 0 (0x1_0000 + o)
    freeze := (rangeFrom (0x1_0000 + 1792) 8192).map ((masking (.maskCommit hx cm)).devByte 0) }

theorem test_tile_bytes : readTile1.bytes = fun o =>
    match (masking (.maskCommit hx cm)).resolve (some 0) (0x1_0000 + o) with
    | some x => (masking (.maskCommit hx cm)).byteAt x
    | none => 0 :=
  funext fun _ => devByte_clean (by decide +kernel) 0 _

theorem test_tile_sound : checkTile readTile1.bytes true true true (fun _ => true) = none := by
  rw [test_tile_bytes]
  decide +kernel

theorem slot_numbers : (freeSlot.activeBase = 0x1_0000 ∧ slotFreezeBits freeSlot.policy = 1792) ∧
    shortSlot.activeBase = 0x1_0000 ∧ slotFreezeBits shortSlot.policy = 1792 := by decide +kernel

theorem tiles_of {s : State} (hs : Masked s) {m : MaskSlot} (h : m.activeBase = 0x1_0000 ∧ slotFreezeBits m.policy = 1792) :
    s.tilesOf 0 m 0 1 = [readTile1] := by
  have h0 : rangeFrom 0 1 = [0] := rfl
  simp only [State.tilesOf, h0, List.map_cons, List.map_nil, h.1, h.2, Nat.zero_mul, Nat.add_zero, hs.alike.byte]
  rfl

theorem tile_header : tileExtent readTile1.header ≤ 1792 ∧ thNnz readTile1.header = 1 := by
  rw [TileRead.header, test_tile_bytes]
  decide +kernel

theorem tiles_read {s : State} (hs : Masked s) {m : MaskSlot} (h : m.activeBase = 0x1_0000 ∧ slotFreezeBits m.policy = 1792) (more : Nat → Nat → List Nat)
    (hm : ∀ a ∈ more 0x1_0000 readTile1.header, a < 0x10_0000) : s.TilesRead 0 m more 0 1 := by
  intro x hx
  rw [tiles_of hs h] at hx
  obtain rfl := List.mem_singleton.mp hx
  refine ⟨test_tile_sound, hs.low.reads fun a ha => ?_⟩
  rw [h.2, List.mem_append, List.mem_append] at ha
  have := tile_header.1
  obtain (ha | ha) | ha := ha
  · exact range_lt (b := 0x10_0000) (by show 0x1_0000 + max 64 (min _ (tileExtent readTile1.header)) ≤ _; omega) a ha
  · exact range_lt (b := 0x10_0000) (by decide) a ha
  · exact hm a ha

def prCut : PruneBody := { pr with method := 2, param := 0, cutAddr := 0x3_0000 }
def rgLow : RegrowBody := { rg with scoreAddr := 0x4_0000 }
def cmOr : CommitBody := { cm with freezeOp := 1, freezeSrc := 0x3_0000 }
def cmShort : CommitBody := { cm with policy := 1 }

/-! A tile of BF16 has at most 64 + 8192 + 131072 bytes dense, or fewer than 0x60000 with at most 128 positions. -/

theorem leBytes_len : ∀ n v, (leBytes n v).length = n
  | 0, _ => rfl
  | n + 1, v => by rw [leBytes, List.length_cons, leBytes_len n]

theorem pad64_len (bs : List Byte) : (pad64 bs).length ≤ bs.length + 63 := by
  rw [pad64, List.length_append, List.length_replicate, p64, cdiv]
  omega

theorem offsets_len (cs : List Nat) : (offsetsOf cs).length = cs.length + 1 := by
  have h : ∀ (cs a : List Nat), (cs.foldl (fun a n => a ++ [a.getLastD 0 + n]) a).length = a.length + cs.length := by
    intro cs
    induction cs with
    | nil => simp
    | cons c cs ih => intro a; rw [List.foldl_cons, ih]; simp; omega
  rw [offsetsOf, h]
  simp; omega

theorem flat_len {α β : Type} (f : α → List β) (k : Nat) : ∀ l : List α, (∀ x ∈ l, (f x).length ≤ k) → (l.flatMap f).length ≤ l.length * k
  | [], _ => by simp
  | x :: l, h => by
    have h1 := flat_len f k l fun y hy => h y (List.mem_cons_of_mem x hy)
    have h2 := h x List.mem_cons_self
    rw [List.flatMap_cons, List.length_append, List.length_cons, Nat.succ_mul]
    omega

theorem columns_len (t : TileData) : t.columns.flatten.length ≤ 65536 := by
  rw [← List.flatMap_id]
  have h := flat_len id 128 t.columns (by
    intro x hx
    obtain ⟨k, _, rfl⟩ := List.mem_map.mp hx
    exact Nat.le_trans (List.length_filterMap_le ..) (by simp))
  have h2 : t.columns.length = 512 := by simp [TileData.columns]
  rw [h2] at h
  exact h

theorem tile_len (t : TileData) (hf : t.fmt = 6) (h1 : t.rows.length = 128) (h2 : t.rows.flatten.length ≤ 128) :
    t.bytes.length ≤ 0x6_0000 := by
  have hb : ∀ cs : List Nat, (packCodes 6 cs).length ≤ cs.length * 2 := fun cs => by
    rw [packCodes, if_neg (by decide)]
    exact flat_len _ 2 cs fun _ _ => Nat.le_of_eq (leBytes_len _ _)
  have hs : isShort 6 = false := by decide
  rw [TileData.bytes, hf]
  split
  · simp only [TileData.header, hs, List.length_append, leBytes_len]
    have hm : ∀ f : Nat → Nat, (packCodes 6 ((List.range 65536).map f)).length ≤ 131072 := fun f => by
      have := hb ((List.range 65536).map f)
      simp only [List.length_map, List.length_range] at this
      omega
    refine Nat.le_trans (Nat.add_le_add_left (hm _) _) ?_
    simp
  · have h3 := offsets_len (t.rows.map List.length)
    have h4 := offsets_len (t.columns.map List.length)
    have h5 : t.columns.length = 512 := by simp [TileData.columns]
    rw [List.length_map] at h3 h4
    have p1 := pad64_len ((offsetsOf (t.rows.map List.length)).flatMap (leBytes 2))
    have f1 := flat_len (leBytes 2) 2 (offsetsOf (t.rows.map List.length)) fun _ _ => Nat.le_of_eq (leBytes_len _ _)
    have p2 := pad64_len ((offsetsOf (t.columns.map List.length)).flatMap (leBytes 2))
    have f2 := flat_len (leBytes 2) 2 (offsetsOf (t.columns.map List.length)) fun _ _ => Nat.le_of_eq (leBytes_len _ _)
    have p3 := pad64_len (t.rows.flatten.flatMap fun e => leBytes 2 e.1)
    have f3 := flat_len (fun e : Nat × Nat => leBytes 2 e.1) 2 t.rows.flatten fun _ _ => Nat.le_of_eq (leBytes_len _ _)
    have p4 := pad64_len (t.columns.flatten.flatMap fun e => leBytes 4 (e.1 + e.2 * 2 ^ 16))
    have f4 := flat_len (fun e : Nat × Nat => leBytes 4 (e.1 + e.2 * 2 ^ 16)) 4 t.columns.flatten fun _ _ => Nat.le_of_eq (leBytes_len _ _)
    have p5 := pad64_len (packCodes 6 (t.rows.flatten.map (·.2)))
    have f5 := hb (t.rows.flatten.map (·.2))
    rw [List.length_map] at f5
    have h6 := columns_len t
    simp only [TileData.header, hs, List.length_append, leBytes_len, List.length_map, List.length_range, Bool.false_eq_true, if_false,
      List.length_nil]
    omega

/-- The mask of the new tile when no position is removed or regrown. -/
def entries1 : List NewEntry := newEntries freeSlot.building readTile1

theorem test_entries : entries1.length = 1 ∧ ∀ e ∈ entries1, e.old ≠ none := by
  have h : (entries1.length == 1 && entries1.all fun e => e.old.isSome) = true := by
    rw [entries1, newEntries, TileRead.header, test_tile_bytes]
    decide +kernel
  rw [Bool.and_eq_true, beq_iff_eq, List.all_eq_true] at h
  exact ⟨h.1, fun e he hn => by have := h.2 e he; rw [hn] at this; cases this⟩

theorem test_format : thFmt readTile1.header = 6 := by
  rw [TileRead.header, test_tile_bytes]
  decide +kernel

theorem cellsAt_lt {a b : Nat} {bs : List Byte} (h : a + bs.length ≤ b) : ∀ e ∈ cellsAt a bs, e.1 < b := by
  intro e he
  exact range_lt h e.1 (List.of_mem_zip he).1

theorem commit_slots : freeSlot.building = freeSlot ∧ freeSlot.alternateBase = 0x2_0000 ∧ slotFreezeBits freeSlot.policy = 1792 ∧
    slotFreezeVec freeSlot.policy = 9984 ∧ slotMaster freeSlot.policy = 10048 ∧ polStates freeSlot.policy = 0 ∧
    p64 (cdiv (polCap freeSlot.policy) 8) = 64 := by decide +kernel

theorem commit_cells_low (c : CommitBody) (f : List Byte) (hf : f.length ≤ 8192) :
    ∀ e ∈ (masking (.maskCommit hx c)).commitCells 0 freeSlot.building readTile1 entries1
      ((masking (.maskCommit hx c)).newTile 0 freeSlot.building false readTile1 entries1) f, e.1 < 0x10_0000 := by
  obtain ⟨h0, h1, h2, h3, h4, h5, h6⟩ := commit_slots
  have hl := test_entries.1
  have ht := tile_len ((masking (.maskCommit hx c)).newTile 0 freeSlot.building false readTile1 entries1) test_format
    (by simp [State.newTile, State.newRows])
    (by
      rw [← List.flatMap_id]
      refine Nat.le_trans (flat_len id 1 _ fun r hr => ?_) (by simp [State.newTile, State.newRows])
      simp only [State.newTile, State.newRows, Bool.false_eq_true, if_false] at hr
      obtain ⟨k, _, rfl⟩ := List.mem_map.mp hr
      rw [id, List.length_map, ← hl]
      exact List.length_filter_le ..)
  rw [h0] at ht ⊢
  simp only [State.commitCells, h1, h2, h3, h4, h5, h6, List.range_zero, List.flatMap_nil, List.append_nil]
  have ht0 : readTile1.t = 0 := rfl
  rw [ht0, Nat.zero_mul, Nat.add_zero]
  intro e he
  simp only [List.mem_append] at he
  obtain ((he | he) | he) | he := he
  · exact cellsAt_lt (by omega) e he
  · exact cellsAt_lt (by omega) e he
  · exact cellsAt_lt (by rw [List.length_map, List.length_range]; decide) e he
  · refine cellsAt_lt (b := 0x10_0000) ?_ e he
    refine Nat.le_trans (Nat.add_le_add_left (flat_len _ 4 entries1 fun x _ => ?_) _) (by omega)
    cases x.old with
    | none => exact Nat.le_of_eq (leBytes_len 4 _)
    | some q => simp [rangeFrom]

theorem commit_sound (c : CommitBody) (l : Low (masking (.maskCommit hx c))) (f : List Byte) (hf : f.length ≤ 8192) :
    ∀ e ∈ (masking (.maskCommit hx c)).commitCells 0 freeSlot.building readTile1 entries1
      ((masking (.maskCommit hx c)).newTile 0 freeSlot.building false readTile1 entries1) f,
      ∃ y, (masking (.maskCommit hx c)).resolve (some 0) e.1 = some y ∧ ((masking (.maskCommit hx c)).checkUnit (y / 64)).cause = none := by
  intro e he
  have h := commit_cells_low c f hf e he
  refine ⟨e.1, ?_, checkUnit_clean l.poison l.flips l.devErr _⟩
  rw [State.resolve, State.resolveWindow, if_neg (by omega), Option.bind_some, State.resolveDirect, if_pos (by omega)]

theorem masters_short : ∀ a ∈ commitMore shortSlot.building 0x1_0000 readTile1.header, a < 0x10_0000 := by
  have h : shortSlot.building = shortSlot ∧ slotMaster shortSlot.policy = 10048 ∧ polStates shortSlot.policy = 0 := by decide +kernel
  rw [h.1, commitMore, h.2.2, h.2.1, tile_header.2]
  decide

theorem masters_free : ∀ a ∈ commitMore freeSlot.building 0x1_0000 readTile1.header, a < 0x10_0000 := by
  obtain ⟨h0, _, _, _, h4, h5, _⟩ := commit_slots
  rw [h0, commitMore, h5, h4, tile_header.2]
  decide

theorem witness_MaskDescriptorsBuildTheNextGeneration :
    (let c := Instr.maskPrune hx prCut
     (maskRow c).Issues hx (isPrune prCut) 0 none false ∧ (maskRow c).slotOf 0 0 = some (3, freeSlot) ∧ prCut.wf = true ∧ prCut.method = 2 ∧
      State.tensorWait 0 prCut.policy 0 (maskRow c) = none ∧ (masking c).TilesRead 0 freeSlot.building
        (fun base h => rangeFrom (base + slotMaster freeSlot.building.policy) (4 * thNnz h)) prCut.firstTile prCut.tileCount ∧
      (masking c).Readable 0 (rangeFrom prCut.cutAddr (8192 * prCut.tileCount))) ∧
    (let c := Instr.maskRegrow hx rgLow
     (maskRow c).Issues hx (isRegrow rgLow) 0 none false ∧ (maskRow c).slotOf 0 0 = some (3, freeSlot) ∧ rgLow.wf = true ∧
      State.tensorWait 0 rgLow.policy 0 (maskRow c) = none ∧
      (masking c).TilesRead 0 freeSlot.building (fun _ _ => []) rgLow.firstTile rgLow.tileCount ∧
      (masking c).Readable 0 (rangeFrom rgLow.scoreAddr (65536 * rgLow.tileCount * (if rgLow.scoreB32 then 4 else 2)))) ∧
    (let c := Instr.maskCommit hx cmShort
     (maskRow c).Issues hx (isCommit cmShort) 0 none false ∧ (maskRow c).slotOf 0 1 = some (4, shortSlot) ∧ cmShort.wf = true ∧
      State.tensorWait 0 cmShort.policy 0 (maskRow c) = none ∧ ((masking c).part 0).faultCode = 0 ∧
      (masking c).TilesRead 0 shortSlot.building (commitMore shortSlot.building) cmShort.firstTile cmShort.tileCount ∧
      polConstant shortSlot.building.policy = true ∧
      (editsIn cmShort.firstTile cmShort.tileCount shortSlot.building.prunes).length ≠
        (editsIn cmShort.firstTile cmShort.tileCount shortSlot.building.regrows).length) ∧
    (∀ b ∈ [cm, cmOr], (maskRow (.maskCommit hx b)).Issues hx (isCommit b) 0 none false ∧ b.wf = true ∧
      (maskRow (.maskCommit hx b)).slotOf 0 b.policy = some (3, freeSlot) ∧
      State.tensorWait 0 b.policy 0 (maskRow (.maskCommit hx b)) = none ∧
      (masking (.maskCommit hx b)).TilesRead 0 freeSlot.building (commitMore freeSlot.building) b.firstTile b.tileCount ∧
      polConstant freeSlot.building.policy = false ∧ polInitUse freeSlot.building.policy = false ∧
      (masking (.maskCommit hx b)).Readable 0 (if b.freezeOp = 0 then [] else rangeFrom b.freezeSrc (8192 * b.tileCount)) ∧
      (masking (.maskCommit hx b)).tilesOf 0 freeSlot.building b.firstTile b.tileCount = [readTile1] ∧
      ∀ f : List Byte, f.length ≤ 8192 →
        ∀ e ∈ (masking (.maskCommit hx b)).commitCells 0 freeSlot.building readTile1 (newEntries freeSlot.building readTile1)
          ((masking (.maskCommit hx b)).newTile 0 freeSlot.building false readTile1 (newEntries freeSlot.building readTile1)) f,
        ∃ y, (masking (.maskCommit hx b)).resolve (some 0) e.1 = some y ∧
          ((masking (.maskCommit hx b)).checkUnit (y / 64)).cause = none) := by
  have hs : shortSlot.building = shortSlot := by decide +kernel
  obtain ⟨h0, _, _, _, h4, _, _⟩ := commit_slots
  have m1 := masters_free
  have m2 := masters_short
  rw [h0] at m1
  rw [hs] at m2
  have k1 : Masked (masking (.maskPrune hx prCut)) := masked_of (by decide +kernel) (by decide +kernel)
  have k2 : Masked (masking (.maskRegrow hx rgLow)) := masked_of (by decide +kernel) (by decide +kernel)
  have k3 : Masked (masking (.maskCommit hx cmShort)) := masked_of (by decide +kernel) (by decide +kernel)
  have k4 : ∀ b ∈ [cm, cmOr], Masked (masking (.maskCommit hx b)) := by
    intro b hb
    simp only [List.mem_cons, List.not_mem_nil, or_false] at hb
    rcases hb with rfl | rfl <;> exact masked_of (by decide +kernel) (by decide +kernel)
  refine ⟨⟨issues_of (by decide +kernel) (by decide +kernel), by decide +kernel, by decide, by decide, by decide +kernel, ?_,
      k1.low.reads (range_lt (by decide))⟩,
    ⟨issues_of (by decide +kernel) (by decide +kernel), by decide +kernel, by decide, by decide +kernel, ?_,
      k2.low.reads (range_lt (by decide))⟩,
    ⟨issues_of (by decide +kernel) (by decide +kernel), by decide +kernel, by decide, by decide +kernel, by decide +kernel, ?_,
      by decide +kernel, by decide +kernel⟩, fun b hb => ?_⟩
  · rw [h0]
    exact tiles_read k1 slot_numbers.1 _ (by rw [h4, tile_header.2]; decide)
  · rw [h0]
    exact tiles_read k2 slot_numbers.1 _ (fun _ h => nomatch h)
  · rw [hs]
    exact tiles_read k3 slot_numbers.2 _ m2
  · have k := k4 b hb
    have ht : b.firstTile = 0 ∧ b.tileCount = 1 := (by decide : ∀ b ∈ [cm, cmOr], b.firstTile = 0 ∧ b.tileCount = 1) b hb
    refine ⟨?_, (by decide : ∀ b ∈ [cm, cmOr], b.wf = true) b hb,
      (by decide +kernel : ∀ b ∈ [cm, cmOr], (maskRow (.maskCommit hx b)).slotOf 0 b.policy = some (3, freeSlot)) b hb,
      (by decide +kernel : ∀ b ∈ [cm, cmOr], State.tensorWait 0 b.policy 0 (maskRow (.maskCommit hx b)) = none) b hb, ?_,
      by decide +kernel, by decide +kernel, k.low.reads ?_, ?_, fun f hf => commit_sound b k.low f hf⟩
    · simp only [List.mem_cons, List.not_mem_nil, or_false] at hb
      rcases hb with rfl | rfl <;> exact issues_of (by decide +kernel) (by decide +kernel)
    · rw [ht.1, ht.2, h0]
      exact tiles_read k slot_numbers.1 _ m1
    · intro a ha
      split at ha
      · cases ha
      · have hf : b.freezeSrc ≤ 0x3_0000 := (by decide : ∀ b ∈ [cm, cmOr], b.freezeSrc ≤ 0x3_0000) b hb
        rw [ht.2] at ha
        exact range_lt (by omega) a ha
    · rw [ht.1, ht.2, h0]
      exact tiles_of k slot_numbers.1

/-! ### Hypotheses that are met: semaphores, tickets and collectives -/

/-- Frond 0 of partition 0, beside a stream whose FREED holds 1 of 1 and whose FILLED holds none. -/
def semsOn (x : Frond) : State := { workingOn x with streams := [(0, some oneStream)] }

/-- The same with a row next in frond 0's program, as the row finds it, and where its effect begins. -/
def semsRow (c : Instr) (x : Frond) : State := (semsOn { x with prog := [dscFor c] } : State).shownBy c
def semsAt (c : Instr) (x : Frond) : State := (semsRow c x).issued hx 0 none false

/-- A frond that has issued five descriptors, all complete. -/
def fresh : Frond := { Frond.reset with nextId := 5 }

def waitingFor (w : Wait) : Frond := { Frond.reset with execute := { Sequencer.idle with wait := some w } }

def heldSignal (all : Bool) : HeldSignal := { jobId := 9, target := .freed 0, count := 1, streamId := 0, holdAll := all }

/-- A frond with a signal in its queue and an older descriptor of its sequencer on another stream. -/
def signalling (all : Bool) : Frond :=
  { Frond.reset with nextId := 10, execute := { Sequencer.idle with sigq := [heldSignal all] },
                     jobs := [{ id := 4, seq := .execute, streamId := 1, addr := 0x1000, pass := none, body := .gather 0 }] }

/-- The same with an older descriptor in hand and nothing in the queue. -/
def owing : Frond := { signalling true with execute := Sequencer.idle }

def arriving (r : SemRef) (epoch : Nat) : Signal :=
  { id := 2, frond := 0, seq := .execute, jobId := 4, target := r, count := 1, partition := 0, epoch := BitVec.ofNat 16 epoch }

def arrivals (r : SemRef) (epoch : Nat) : State :=
  { semsOn owing with hyphae := { State.reset.hyphae with signals := [arriving r epoch], nextSignal := 3 } }

def atTick (n : Nat) (s : State) : State := s.modPart 0 fun x => { x with frameTick := n }

/-- The same behind an earlier signal of the same frond to the same frond. -/
def behind : State :=
  { arrivals (.filled 0) 0 with hyphae := { State.reset.hyphae with
      signals := [{ arriving (.freed 0) 0 with id := 1 }, arriving (.filled 0) 0], nextSignal := 3 } }

/-- A signal to a stream of partition 1. -/
def strange : State := { arrivals (.filled 0) 0 with streams := [(0, some { oneStream with partition := 1 })] }

theorem witness_SemaphoresAndTicksHoldSequencers :
    (∀ b ∈ [(sw, 0), ({ sw with target := 1 }, 1)], (semsRow (.semWait hx b.1) fresh).Issues hx (isSemWait b.1) 0 none false ∧ b.1.wf = true ∧
      (semsAt (.semWait hx b.1) fresh).semaphore (semTarget b.1.target hx.streamId hx.frond b.1.plainSem) = some (b.2, 1) ∧ b.1.count = 1) ∧
    (∀ r ∈ [(SemRef.freed 0, 1), (.filled 0, 0)],
      let s := (semsOn (waitingFor (.sem r.1 1 true 0x1000))).arrive []
      s.Canonical ∧ (∀ g, (s.frond g).Canonical) ∧ s.workOf 0 = some 0 ∧ ((s.frond 0).sq .execute).wait = some (.sem r.1 1 true 0x1000) ∧
      s.semaphore r.1 = some (r.2, 1)) ∧
    (let s := semsRow (.semSignal hx sg) fresh
     let s0 := semsAt (.semSignal hx sg) fresh
     s.Issues hx (isSemSignal sg) 0 none false ∧ sg.wf = true ∧ ((s.frond 0).sq .execute).sigq = [] ∧ ((s0.frond 0).sq .execute).sigq = [] ∧
      (s0.frond 0).mayLeave .execute { heldSignal false with jobId := (s.frond 0).nextId, target := .filled 0 } = true) ∧
    (let b := { sg with holdAll := true }
     let s := semsRow (.semSignal hx b) owing
     let s0 := semsAt (.semSignal hx b) owing
     s.Issues hx (isSemSignal b) 0 none false ∧ b.wf = true ∧ ((s.frond 0).sq .execute).sigq.length < 8 ∧
      (s0.frond 0).mayLeave .execute { heldSignal true with jobId := (s.frond 0).nextId, target := .filled 0 } = false) ∧
    (∀ all ∈ [false, true], (semsOn (signalling all)).Canonical ∧ (semsOn (signalling all)).workOf 0 = some 0 ∧
      (((semsOn (signalling all)).frond 0).sq .execute).sigq = [heldSignal all] ∧
      ((semsOn (signalling all)).frond 0).mayLeave .execute (heldSignal all) = !all) ∧
    (∀ r ∈ [(SemRef.filled 0, 0), (.freed 0, 1)], (arrivals r.1 0).Canonical ∧ (∀ f, ((arrivals r.1 0).frond f).Canonical) ∧
      (arrivals r.1 0).hyphae.signals.find? (fun g => g.id == 2) = some (arriving r.1 0) ∧
      (∀ e ∈ (arrivals r.1 0).hyphae.signals, e.id < 2 → e.frond = (arriving r.1 0).frond →
        (arrivals r.1 0).semFrond e.target ≠ (arrivals r.1 0).semFrond (arriving r.1 0).target) ∧
      (arriving r.1 0).epoch = ((arrivals r.1 0).part 0).epoch ∧ (arrivals r.1 0).semPartition r.1 = some 0 ∧
      (arrivals r.1 0).semaphore r.1 = some (r.2, 1) ∧ ((arrivals r.1 0).part 0).faultCode = 0) ∧
    (behind.Canonical ∧ (∀ f, (behind.frond f).Canonical) ∧ behind.hyphae.signals.find? (fun g => g.id == 2) = some (arriving (.filled 0) 0) ∧
      ∃ e ∈ behind.hyphae.signals, e.id < 2 ∧ e.frond = (arriving (.filled 0) 0).frond ∧
        behind.semFrond e.target = behind.semFrond (arriving (.filled 0) 0).target) ∧
    (strange.Canonical ∧ (∀ f, (strange.frond f).Canonical) ∧ strange.hyphae.signals.find? (fun g => g.id == 2) = some (arriving (.filled 0) 0) ∧
      (arriving (.filled 0) 0).epoch = (strange.part 0).epoch ∧ strange.semPartition (.filled 0) ≠ some 0) ∧
    (arriving (.filled 0) 1).epoch ≠ ((arrivals (.filled 0) 1).part 0).epoch ∧
    (∀ n ∈ [0, 1], (atTick n (semsRow (.tickWait hx 1) fresh)).Issues hx (isTickWait 1) 0 none false ∧
      ((atTick n (semsRow (.tickWait hx 1) fresh)).part 0).frameTick = n) ∧
    (∀ n ∈ [0, 1], (atTick n (semsOn (waitingFor (.tick 1 true 0x1000)))).Canonical ∧
      (atTick n (semsOn (waitingFor (.tick 1 true 0x1000)))).workOf 0 = some 0 ∧
      (((atTick n (semsOn (waitingFor (.tick 1 true 0x1000)))).frond 0).sq .execute).wait = some (.tick 1 true 0x1000) ∧
      ((atTick n (semsOn (waitingFor (.tick 1 true 0x1000)))).part 0).frameTick = n) := by
  refine ⟨?_, ?_, ⟨issues_of (by decide +kernel) (by decide +kernel), by decide +kernel⟩,
    ⟨issues_of (by decide +kernel) (by decide +kernel), by decide +kernel⟩, ?_, ?_,
    ⟨canon_of (by decide +kernel), fronds_of (by decide +kernel), by decide +kernel, by decide +kernel⟩,
    ⟨canon_of (by decide +kernel), fronds_of (by decide +kernel), by decide +kernel, by decide +kernel, by decide +kernel⟩, by decide +kernel, ?_, ?_⟩
  · refine List.forall_mem_cons.mpr ⟨?_, List.forall_mem_singleton.mpr ?_⟩ <;>
    exact ⟨issues_of (by decide +kernel) (by decide +kernel), by decide +kernel⟩
  · refine List.forall_mem_cons.mpr ⟨?_, List.forall_mem_singleton.mpr ?_⟩ <;>
    exact ⟨canon_of (by decide +kernel), fronds_of (by decide +kernel), by decide +kernel⟩
  · refine List.forall_mem_cons.mpr ⟨?_, List.forall_mem_singleton.mpr ?_⟩ <;>
    exact ⟨canon_of (by decide +kernel), by decide +kernel⟩
  · refine List.forall_mem_cons.mpr ⟨?_, List.forall_mem_singleton.mpr ?_⟩ <;>
    exact ⟨canon_of (by decide +kernel), fronds_of (by decide +kernel), by decide +kernel⟩
  · refine List.forall_mem_cons.mpr ⟨?_, List.forall_mem_singleton.mpr ?_⟩ <;>
    exact ⟨issues_of (by decide +kernel) (by decide +kernel), by decide +kernel⟩
  · refine List.forall_mem_cons.mpr ⟨?_, List.forall_mem_singleton.mpr ?_⟩ <;>
    exact ⟨canon_of (by decide +kernel), by decide +kernel⟩

/-! ### Hypotheses that are met: tickets -/

/-- Partition 0 runs on frond 0, with the first MiB of the Sphagnum. -/
def ticketBase (x : Frond) : State := (workingOn x).modPart 0 fun y => { y with grants := [{ kind := 1, blocks := 1, base := 0 }] }

/-- A ticket record at 0x1000 of frond 0's partition: next ticket 3 of `total`; frond 0's last request and its ticket; the log. -/
def ticketing (total : Nat) (x : Frond) (y : Hyphae) (log : Nat) : State :=
  { ticketBase x with hyphae := y, mem := word 0x1000 8 (3 + total * 2 ^ 32) ++ word 0x1040 8 (7 + 2 * 2 ^ 32) ++ word 0x1440 1 log }

def tkt : TicketBody := { bodyCount := 1, counterAddr := 0x1000 }

def claim (n : Nat) : Claim := { frond := 0, requestId := n, addr := 0x1000, stream := 5, partition := 0, epoch := 0 }
def claimed (n : Nat) : Hyphae := { State.reset.hyphae with claims := [claim n] }
def reply (t : Option Nat) : ClaimReply := { frond := 0, requestId := 8, ticket := t, partition := 0, epoch := 0 }
def replied (r : ClaimReply) : Hyphae := { State.reset.hyphae with replies := [r] }

def loop8 : TicketLoop :=
  { jobId := 4, counterAddr := 0x1000, stream := 5, bodyCount := 1, current := none, issued := 0, outstanding := some 8 }
def looping : Frond := { Frond.reset with loop := some loop8, fetch := { Sequencer.idle with wait := some .ticket } }

def pass1 (t : Nat) : Pass := { jobId := 4, ticket := t, counterAddr := 0x1000, stream := 5 }
def passing (t : Nat) : Frond := { looping with passes := [pass1 t] }

theorem ticketing_low (total : Nat) (x : Frond) (y : Hyphae) (log : Nat) : Low (ticketing total x y log) := by
  have hp : (ticketing total x y log).part 0 = (ticketBase Frond.reset).part 0 := by
    simp only [State.part, ticketing, ticketBase, State.modPart, State.setPart, workingOn, State.setFrond]
  refine ⟨rfl, rfl, rfl, ?_, ?_⟩ <;> rw [hp] <;> decide +kernel

/-- Without stored errors, a number in the first GiB is what memory holds there. -/
theorem devNat_clean {s : State} (hf : s.flips = []) {a n : Nat} (h : a + n ≤ 0x4000_0000) :
    s.devNat 0 a n = leNat ((rangeFrom a n).map (sget (fun _ => (0 : Byte)) s.mem)) := by
  rw [State.devNat]
  congr 1
  refine List.map_congr_left fun y hy => ?_
  have := range_lt h y hy
  rw [State.devByte, State.resolve, State.resolveWindow, if_neg (by omega), Option.bind_some, State.resolveDirect, if_pos this]
  exact readByte_clean hf y

theorem ticketing_reads (total : Nat) (x : Frond) (y : Hyphae) (log a n : Nat) (h : a + n ≤ 0x4000_0000) :
    (ticketing total x y log).devNat 0 a n = leNat ((rangeFrom a n).map (sget (fun _ => (0 : Byte))
      (word 0x1000 8 (3 + total * 2 ^ 32) ++ word 0x1040 8 (7 + 2 * 2 ^ 32) ++ word 0x1440 1 log))) :=
  devNat_clean rfl h

theorem test_record : ∀ x y, ((ticketing 9 x y 0).devNat 0 0x1040 8 = 7 + 2 * 2 ^ 32 ∧ (ticketing 9 x y 0).devNat 0 0x1000 8 = 3 + 9 * 2 ^ 32 ∧
    (ticketing 3 x y 0).devNat 0 0x1040 8 = 7 + 2 * 2 ^ 32 ∧ (ticketing 3 x y 0).devNat 0 0x1000 8 = 3 + 3 * 2 ^ 32) ∧
    ∀ log ∈ [0, 2], (ticketing 9 x y log).devNat 0 0x1000 4 = 3 ∧ (ticketing 9 x y log).devNat 0 0x1440 1 = log := by
  intro x y
  refine ⟨?_, fun log hl => ?_⟩
  · simp only [ticketing_reads _ _ _ _ 0x1040 8 (by decide), ticketing_reads _ _ _ _ 0x1000 8 (by decide)]
    decide +kernel
  · rw [ticketing_reads _ _ _ _ 0x1000 4 (by decide), ticketing_reads _ _ _ _ 0x1440 1 (by decide)]
    revert log
    decide +kernel

theorem witness_TicketsAreClaimedAndLogged :
    (let s := (ticketing 9 { fresh with prog := [dscFor (.ticket hd tkt)] } State.reset.hyphae 0).presented hd
     s.Issues hd (isTicket tkt) 0 none false ∧ tkt.wf = true ∧ hd.seq = .fetch ∧ (s.frond 0).loop = none) ∧
    (∀ c ∈ [(7, 9, true, true), (8, 9, false, true), (8, 3, false, false)], (ticketing c.2.1 fresh (claimed c.1) 0).Canonical ∧
      (ticketing c.2.1 fresh (claimed c.1) 0).hyphae.claims.find? (fun c => c.frond == 0) = some (claim c.1) ∧
      (∀ a ∈ [AtomicReq.mk false 0, ⟨false, 127⟩], a = ⟨false, 0⟩ ∨ (ticketing c.2.1 fresh (claimed c.1) 0).atomicGroup a ≠
        (ticketing c.2.1 fresh (claimed c.1) 0).atomicGroup ⟨false, 0⟩) ∧
      (claim c.1).epoch = ((ticketing c.2.1 fresh (claimed c.1) 0).part 0).epoch ∧
      ((ticketing c.2.1 fresh (claimed c.1) 0).devNat 0 0x1040 8 % 2 ^ 32 = c.1 ↔ c.2.2.1 = true) ∧
      ((ticketing c.2.1 fresh (claimed c.1) 0).devNat 0 0x1000 8 % 2 ^ 32 <
        (ticketing c.2.1 fresh (claimed c.1) 0).devNat 0 0x1000 8 / 2 ^ 32 ↔ c.2.2.2 = true)) ∧
    (let c := { claim 8 with epoch := 1 }
     let s := ticketing 9 fresh { State.reset.hyphae with claims := [c] } 0
     s.hyphae.claims.find? (fun c => c.frond == 0) = some c ∧ c.epoch ≠ (s.part c.partition).epoch) ∧
    (∀ total n, (ticketing total fresh (claimed n) 0).Readable 0 (rangeFrom 0x1040 8 ++ rangeFrom 0x1000 8) ∧
      (ticketing total fresh (claimed n) 0).Writable 0 (rangeFrom 0x1040 8 ++ rangeFrom 0x1000 4)) ∧
    (∀ r ∈ [reply (some 2), reply none, { reply none with partition := 1 }, { reply none with epoch := 1 }],
      let s := ticketing 9 looping (replied r) 0
      s.Canonical ∧ s.workOf 0 = some 0 ∧ s.hyphae.replies.find? (fun r => r.frond == 0) = some r ∧
      (r.epoch = (s.part r.partition).epoch ↔ r.epoch = 0) ∧ (s.frond 0).loop = some loop8 ∧ loop8.outstanding = some r.requestId ∧
      (∀ a ∈ (s.frond 0).passes, a.jobId ≠ loop8.jobId)) ∧
    (∀ c ∈ [(1, 0, false), (1, 2, true), (3, 0, false)],
      (ticketing 9 (passing c.1) State.reset.hyphae c.2.1).Canonical ∧
      (ticketing 9 (passing c.1) State.reset.hyphae c.2.1).workOf 0 = some 0 ∧
      ((ticketing 9 (passing c.1) State.reset.hyphae c.2.1).frond 0).passes.find?
        ((ticketing 9 (passing c.1) State.reset.hyphae c.2.1).frond 0).passDone = some (pass1 c.1) ∧
      (∀ a ∈ [AtomicReq.mk true 0, ⟨false, 0⟩], a = ⟨true, 0⟩ ∨ (ticketing 9 (passing c.1) State.reset.hyphae c.2.1).atomicGroup a ≠
        (ticketing 9 (passing c.1) State.reset.hyphae c.2.1).atomicGroup ⟨true, 0⟩) ∧
      (ticketing 9 (passing c.1) State.reset.hyphae c.2.1).devNat 0 0x1000 4 = 3 ∧ c.1 / 8 = 0 ∧
      bitAt ((ticketing 9 (passing c.1) State.reset.hyphae c.2.1).devNat 0 (0x1000 + 1088) 1) (c.1 % 8) = c.2.2) ∧
    (∀ t log, t < 8 → (ticketing 9 (passing t) State.reset.hyphae log).Readable 0 (rangeFrom 0x1000 4 ++ rangeFrom (0x1000 + 1088 + t / 8) 1) ∧
      (ticketing 9 (passing t) State.reset.hyphae log).Writable 0 [0x1000 + 1088 + t / 8]) := by
  refine ⟨⟨issues_of (by decide +kernel) (by decide +kernel), by decide +kernel⟩, ?_, by decide +kernel,
    fun total n => ⟨(ticketing_low _ _ _ _).reads (by decide), (ticketing_low _ _ _ _).writes rfl (by decide)⟩, ?_, ?_, fun t log ht => ?_⟩
  · refine List.forall_mem_cons.mpr ⟨?_, List.forall_mem_cons.mpr ⟨?_, List.forall_mem_singleton.mpr ?_⟩⟩ <;>
    refine ⟨canon_of (by decide +kernel), by decide +kernel, by decide +kernel, by decide +kernel, ?_, ?_⟩ <;>
    first
      | rw [(test_record _ _).1.1]; decide
      | rw [(test_record _ _).1.2.1]; decide
      | rw [(test_record _ _).1.2.2.1]; decide
      | rw [(test_record _ _).1.2.2.2]; decide
  · refine List.forall_mem_cons.mpr ⟨?_, List.forall_mem_cons.mpr ⟨?_, List.forall_mem_cons.mpr ⟨?_, List.forall_mem_singleton.mpr ?_⟩⟩⟩ <;>
    exact ⟨canon_of (by decide +kernel), by decide +kernel⟩
  · refine List.forall_mem_cons.mpr ⟨?_, List.forall_mem_cons.mpr ⟨?_, List.forall_mem_singleton.mpr ?_⟩⟩ <;>
    exact ⟨canon_of (by decide +kernel), by decide +kernel, by decide +kernel, by decide +kernel, ((test_record _ _).2 _ (by decide)).1, by decide,
      by rw [show 0x1000 + 1088 = 0x1440 from rfl, ((test_record _ _).2 _ (by decide)).2]; decide⟩
  · rw [Nat.div_eq_of_lt ht]
    exact ⟨(ticketing_low _ _ _ _).reads (by decide), (ticketing_low _ _ _ _).writes rfl (by decide)⟩

/-! ### Hypotheses that are met: collectives -/

/-- Chip 1, whose port 15 is up to chip 2; `pe` the peers of partition 0, `cl` the CLEAR grants that wait. -/
def collective (c : Instr) (pe : List Peer) (cl : List (Nat × Nat × Nat × Nat × Nat)) : State :=
  ({ (port15 2 ((atNext c Frond.reset).modPart 0 fun x => { x with peers := pe })) with
    clears := cl, routes := [ownRoute, { chip := 2, port := 15, altPort := 0, altValid := false, self := false }] } : State).presented hx

def peer2 : Peer := { chip := 2, partition := 0, announced := true, epoch := 6 }

/-- What the row of a REDUCE_SEND or REDUCE_RECV needs of its state. -/
structure Meets (s : State) (is : Nat → Bool) : Prop where
  issues : s.Issues hx is 0 none false
  work : (s.issued hx 0 none false).workOf 0 = some 0
  quiet : s.NoCollectiveWaits 0
  ids : ∀ j ∈ (s.frond 0).jobs, j.id < (s.frond 0).nextId
  route : s.ownId ≠ 0xFFFF ∧ s.portTo 2 = some 15

theorem witness_CollectivesStartWithTheirPeers :
    (∀ c ∈ [(([] : List Peer), none), ([peer2], some 6)],
      Meets (collective (.reduceSend hx sd) c.1 []) (isSend sd) ∧ (collective (.reduceSend hx sd) c.1 []).clears = [] ∧
      (collective (.reduceSend hx sd) c.1 []).peerEpoch 0 sd.dstChip sd.dstPartition = c.2 ∧
      Meets (collective (.reduceRecv hx rv) c.1 []) (isRecv rv) ∧
      (collective (.reduceRecv hx rv) c.1 []).peerEpoch 0 rv.srcChip rv.srcPartition = c.2) ∧
    (∀ n ∈ [1, 2], Meets (collective (.reduceSend hx sd) [peer2] [(0, 2, 0, 0, n)]) (isSend sd) ∧
      (collective (.reduceSend hx sd) [peer2] [(0, 2, 0, 0, n)]).peerEpoch 0 sd.dstChip sd.dstPartition = some 6 ∧
      (collective (.reduceSend hx sd) [peer2] [(0, 2, 0, 0, n)]).clears = (0, sd.dstChip, sd.dstPartition, sd.channel, n) :: []) ∧
    ((collective (.reduceSend hx sd) [peer2] [(0, 2, 0, 0, 1)]).issued hx 0 none false).BufSound 0 (sendReads sd) ∧
    64 * 1 = sd.length ∧ 64 * 2 ≠ sd.length ∧ sd.wf = true ∧ rv.wf = true := by
  refine ⟨?_, ?_, bufSound_of (by decide +kernel) (by decide +kernel) (by decide +kernel), by decide⟩
  · refine List.forall_mem_cons.mpr ⟨?_, List.forall_mem_singleton.mpr ?_⟩ <;>
    exact ⟨⟨issues_of (by decide +kernel) (by decide +kernel), by decide +kernel, noWaits_of (by decide +kernel) (by decide +kernel),
        by decide +kernel, by decide +kernel⟩, by decide +kernel, by decide +kernel,
      ⟨issues_of (by decide +kernel) (by decide +kernel), by decide +kernel, noWaits_of (by decide +kernel) (by decide +kernel),
        by decide +kernel, by decide +kernel⟩, by decide +kernel⟩
  · refine List.forall_mem_cons.mpr ⟨?_, List.forall_mem_singleton.mpr ?_⟩ <;>
    exact ⟨⟨issues_of (by decide +kernel) (by decide +kernel), by decide +kernel, noWaits_of (by decide +kernel) (by decide +kernel),
        by decide +kernel, by decide +kernel⟩, by decide +kernel⟩

/-! ### Hypotheses that are met: vector instructions -/

/-- Where instruction op with fields v runs: it is the last one of a kernel's memory on frond 0, with s1 as given. -/
def kernelAt (op : Nat) (v : VFields) (s1 numctl : Nat) : State :=
  ({ workingOn { Frond.reset with vec := { Frond.reset.vec with
      running := true, pc := 8191, numctl := numctl, sregs := if s1 = 0 then [] else [(1, BitVec.ofNat 64 s1)], vregs := [(4065, 3)] } } with
    imem := [(8191, BitVec.ofNat 64 (vecWord op v))] } : State).vecAt 0 v

/-- What such a state needs to run it, as one test. -/
def kernelB (s : State) (op : Nat) (v : VFields) : Bool :=
  canonB s && frondB (s.frond 0) && v.wf && s.workOf 0 == some 0 && s.vecNext 0 op v

theorem read_of {s : State} {p f : Nat} (hf : s.frondFlips = []) : s.vecUnread p f = none := by
  have h : ∀ ws, s.storeBad f .instructions ws = none := fun ws => store_of hf
  simp only [State.vecUnread, State.storeFault, h]
  split <;> rfl

theorem runs_of {s : State} {op : Nat} {v : VFields} (h : kernelB s op v = true) (hf : s.frondFlips = []) : s.RunsKernel 0 0 op v := by
  simp only [kernelB, Bool.and_eq_true, beq_iff_eq] at h
  refine ⟨canon_of h.1.1.1.1, frond_of h.1.1.1.2, by decide, h.1.1.2, h.1.2, read_of hf, h.2⟩

/-- The same for some instructions at once. -/
theorem all_run {l : List (Nat × VFields × Nat × Nat)}
    (h : (l.all fun x => kernelB (kernelAt x.1 x.2.1 x.2.2.1 x.2.2.2) x.1 x.2.1 && (kernelAt x.1 x.2.1 x.2.2.1 x.2.2.2).frondFlips.isEmpty) = true) :
    ∀ x ∈ l, (kernelAt x.1 x.2.1 x.2.2.1 x.2.2.2).RunsKernel 0 0 x.1 x.2.1 := by
  intro x hx
  have hb := List.all_eq_true.mp h x hx
  rw [Bool.and_eq_true, List.isEmpty_iff] at hb
  exact runs_of hb.1 hb.2

def vt (t rm : Nat) (imm : Int) : VFields := { d := 2, a := 1, b := 0, c := 1, p := 0, pn := false, rm := rm, t := t, imm := imm }

/-- Every floating operation at its widest type, and every type. -/
def floatRows : List (Nat × VFields × Nat × Nat) :=
  [(0x01, vt 2 5 0, 0, 1), (0x02, vt 3 5 0, 0, 1), (0x03, vt 0 0 0, 0, 1), (0x04, vt 1 4 0, 0, 0), (0x05, vt 1 5 0, 0, 1), (0x06, vt 1 5 0, 0, 1),
   (0x0B, vt 0 5 0, 0, 1), (0x0C, vt 0 5 0, 0, 1)]

theorem witness_VectorFloatsRoundOnce : (∀ x ∈ floatRows, (kernelAt x.1 x.2.1 x.2.2.1 x.2.2.2).RunsKernel 0 0 x.1 x.2.1) ∧
    (∀ x ∈ floatRows, (typeFmt x.2.1.t).isSome = true ∧ x.2.1.rm ≤ 5) ∧
    (∀ x ∈ [(0, Fmt.b32), (1, Fmt.b16), (2, Fmt.bf16), (3, Fmt.w48)], typeFmt (vt x.1 5 0).t = some x.2) :=
  ⟨all_run (by decide +kernel), by decide, by decide⟩

def integerRows : List (Nat × VFields × Nat × Nat) :=
  [(0x02, vt 4 2 0, 0, 1), (0x03, vt 5 1 0, 0, 1), (0x04, vt 6 0 0, 0, 1), (0x09, vt 4 2 0, 0, 0), (0x0A, vt 5 2 0, 0, 0), (0x10, vt 4 5 0, 0, 0),
   (0x11, vt 5 0 0, 0, 0), (0x12, vt 6 0 0, 0, 0), (0x13, vt 4 0 0, 0, 0), (0x14, vt 5 0 0, 0, 0), (0x15, vt 6 0 0, 0, 0)]

theorem witness_VectorIntegersWrapOrSaturate :
    (∀ x ∈ integerRows, (kernelAt x.1 x.2.1 x.2.2.1 x.2.2.2).RunsKernel 0 0 x.1 x.2.1) ∧
    (∀ x ∈ integerRows.take 5, x.2.1.rm ≤ 2) ∧ (∀ x ∈ [(4, 32), (5, 16), (6, 8)], typeInt (vt x.1 2 0).t = some x.2) :=
  ⟨all_run (by decide +kernel), by decide, by decide⟩

/-- Moves and selections, then conversions, to the bounds of their types and rounding codes. -/
def moveRows : List (Nat × VFields × Nat × Nat) :=
  [(0x07, vt 6 0 0, 0, 0), (0x08, vt 3 0 0, 0, 0), (0x19, vt 6 0 (-1), 0, 0), (0x1A, vt 6 0 0, 9, 0), (0x1D, vt 6 0 127, 0, 0), (0x09, vt 3 5 0, 0, 0),
   (0x0A, vt 3 5 0, 0, 0), (0x18, vt 6 0 0, 0, 0), (0x1B, vt 4 0 0, 0, 0), (0x34, vt 0 0 0, 0, 0)]
def convertRows : List (Nat × VFields × Nat × Nat) := [(0x0D, vt 6 2 6, 0, 1), (0x0D, vt 6 5 3, 0, 1), (0x0D, vt 3 5 6, 0, 1)]

theorem witness_VectorMovesSelectAndConvert :
    (∀ x ∈ moveRows ++ convertRows, (kernelAt x.1 x.2.1 x.2.2.1 x.2.2.2).RunsKernel 0 0 x.1 x.2.1) ∧
    (∀ x ∈ moveRows ++ convertRows, x.2.1.t ≤ 6) ∧ ((vt 3 5 0).t ≤ 3 ∧ (vt 3 5 0).rm ≤ 5) ∧ (vt 4 0 0).t = 4 ∧
    (∀ x ∈ convertRows, immLow x.2.1 3 ≤ 6 ∧ x.2.1.rm ≤ (if isInt x.2.1.t && isInt (immLow x.2.1 3) then 2 else 5)) :=
  ⟨all_run (by decide +kernel), by decide⟩

def predicateRows : List (Nat × VFields × Nat × Nat) :=
  [(0x0E, vt 3 0 6, 0, 0), (0x0E, vt 6 0 6, 0, 0), (0x0F, vt 3 0 63, 0, 0), (0x33, vt 0 0 0, 0, 0), (0x35, vt 0 0 0, 0, 0), (0x1C, vt 6 0 0, 0, 0),
   (0x1E, vt 6 2 0, 0, 0), (0x1E, vt 3 5 0, 0, 0)]

theorem witness_PredicatesAndReductionsCombineLanes :
    (∀ x ∈ predicateRows, (kernelAt x.1 x.2.1 x.2.2.1 x.2.2.2).RunsKernel 0 0 x.1 x.2.1) ∧
    ((vt 3 0 6).t ≤ 3 ∧ immLow (vt 3 0 6) 3 ≤ 6) ∧ (typeInt (vt 6 0 6).t = some 8 ∧ immLow (vt 6 0 6) 3 ≤ 6) ∧
    (∀ v ∈ [vt 6 2 0, vt 3 5 0], v.t ≤ 6 ∧ v.rm ≤ (if isInt v.t then 2 else 5)) ∧
    (typeInt (vt 6 2 0).t = some 8 ∧ immLow (vt 6 2 0) 2 = 0 ∧ vecWrap 0 (vt 6 2 0).rm = true ∧ (vt 6 2 0).d % 16 ≠ 0) :=
  ⟨all_run (by decide +kernel), by decide +kernel⟩

/-- Where the lanes of a 4-byte access at s1 stand, and the active lanes. -/
def memAt (op s1 : Nat) : State := kernelAt op (vt 0 0 0) s1 0
def stridedAt (op s1 l : Nat) : Nat := vecAddr (((memAt op s1).frond 0).vec.sreg 1) (0 + l * (4 : Int))
def indexedAt (op s1 l : Nat) : Nat :=
  vecAddr (((memAt op s1).frond 0).vec.sreg 1) (signed 32 (((memAt op s1).frond 0).vec.vreg l 0) * (4 : Int))
def lanesOf (op s1 : Nat) : List Nat := (List.range 128).filter (((memAt op s1).frond 0).vec.active (vt 0 0 0))

def memoryRows : List (Nat × VFields × Nat × Nat) :=
  ([0x20, 0x21, 0x22, 0x23].flatMap fun op => [0, 0x2F_FE00, 0x2F_FFFC, 2].map fun s1 => (op, vt 0 0 0, s1, 0)) ++
    [0x24, 0x25].flatMap fun op => [0x1F8, 0x200, 2].map fun imm => (op, vt 0 0 imm, 0x2F_FE00, 0)

theorem witness_VectorMemoryMovesElements :
    (∀ x ∈ memoryRows, (kernelAt x.1 x.2.1 x.2.2.1 x.2.2.2).RunsKernel 0 0 x.1 x.2.1) ∧ (typeBytes (vt 0 0 0).t = 4 ∧ (vt 0 0 0).b = 0) ∧
    (∀ op ∈ [0x20, 0x21], (∀ l ∈ lanesOf op 0x2F_FE00, stridedAt op 0x2F_FE00 l % 4 = 0 ∧ stridedAt op 0x2F_FE00 l + 4 ≤ frondBytes) ∧
      (memAt op 0x2F_FE00).BufSound 0 ((lanesOf op 0x2F_FE00).flatMap fun l => rangeFrom (stridedAt op 0x2F_FE00 l) 4) ∧
      (1 ∈ lanesOf op 0x2F_FFFC ∧ frondBytes < stridedAt op 0x2F_FFFC 1 + 4 ∧
        (∀ k ∈ lanesOf op 0x2F_FFFC, k < 1 → stridedAt op 0x2F_FFFC k % 4 = 0 ∧ stridedAt op 0x2F_FFFC k + 4 ≤ frondBytes)) ∧
      (0 ∈ lanesOf op 2 ∧ stridedAt op 2 0 % 4 ≠ 0)) ∧
    (∀ op ∈ [0x22, 0x23], (∀ l ∈ lanesOf op 0, indexedAt op 0 l % 4 = 0 ∧ indexedAt op 0 l + 4 ≤ frondBytes) ∧
      (memAt op 0).BufSound 0 ((lanesOf op 0).flatMap fun l => rangeFrom (indexedAt op 0 l) 4) ∧
      (0 ∈ lanesOf op 2 ∧ indexedAt op 2 0 % 4 ≠ 0)) ∧
    (∀ op ∈ [0x24, 0x25],
      vecAddr (((kernelAt op (vt 0 0 0x1F8) 0x2F_FE00 0).frond 0).vec.sreg 1) 0x1F8 = 0x2F_FFF8 ∧
      (kernelAt op (vt 0 0 0x1F8) 0x2F_FE00 0).BufSound 0 (rangeFrom 0x2F_FFF8 8) ∧
      vecAddr (((kernelAt op (vt 0 0 0x200) 0x2F_FE00 0).frond 0).vec.sreg 1) 0x200 = frondBytes ∧
      vecAddr (((kernelAt op (vt 0 0 2) 0x2F_FE00 0).frond 0).vec.sreg 1) 2 % 8 ≠ 0) := by
  refine ⟨all_run (by decide +kernel), by decide, ?_, ?_, ?_⟩
  · refine List.forall_mem_cons.mpr ⟨?_, List.forall_mem_singleton.mpr ?_⟩ <;>
    exact ⟨by decide +kernel, bufSound_of (by decide +kernel) (by decide +kernel) (by decide +kernel), by decide +kernel⟩
  · refine List.forall_mem_cons.mpr ⟨?_, List.forall_mem_singleton.mpr ?_⟩ <;>
    exact ⟨by decide +kernel, bufSound_of (by decide +kernel) (by decide +kernel) (by decide +kernel), by decide +kernel⟩
  · refine List.forall_mem_cons.mpr ⟨?_, List.forall_mem_singleton.mpr ?_⟩ <;>
    exact ⟨by decide +kernel, bufSound_of (by decide +kernel) (by decide +kernel) (by decide +kernel), by decide +kernel⟩

def scalarRows : List (Nat × VFields × Nat × Nat) :=
  [(0x28, vt 0 2 9, 2, 1), (0x29, vt 0 1 9, 2, 1), (0x2A, vt 0 0 9, 2, 1), (0x2B, vt 0 0 9, 2, 0), (0x2C, vt 0 0 9, 2, 0), (0x2D, vt 0 0 9, 2, 0),
   (0x30, vt 0 0 (-3), 2, 0), (0x31, vt 0 0 2, 2, 0), (0x32, vt 0 0 2, 2, 0), (0x3F, vt 0 0 0, 0, 0)]

theorem witness_ScalarsBranchAndKernelsHalt :
    (∀ x ∈ scalarRows, (kernelAt x.1 x.2.1 x.2.2.1 x.2.2.2).RunsKernel 0 0 x.1 x.2.1) ∧ (∀ x ∈ scalarRows, x.2.1.rm ≤ 2) ∧
    (kernelRow (.add 128 (vt 0 0 0)) = some (128, vt 0 0 0, true) ∧ kernelRow (.add 127 (vt 7 0 0)) = some (127, vt 7 0 0, false) ∧
      kernelRow (.halt 0 (vt 0 0 0)) = some (0, vt 0 0 0, true) ∧ (vt 0 0 0).wf = true ∧ booted.workOf 0 = none) ∧
    (working.workOf 0 = some 0 ∧ (working.frond 0).vec.running = false) ∧
    (let s : State := { kernelAt 0x3F (vt 0 0 0) 0 0 with imem := [] }
     s.workOf 0 = some 0 ∧ s.vecUnread 0 0 = none ∧ sget (fun _ => (0 : Dword)) s.imem 8191 = 0) ∧
    (let s : State := { kernelAt 0x3F (vt 0 0 0) 0 0 with frondFlips := [(frondWord 0 .instructions 16382, poisonPattern)] }
     s.workOf 0 = some 0 ∧ s.storeBad 0 .instructions [16382, 16383] ≠ none) :=
  ⟨all_run (by decide +kernel), by decide +kernel, by decide +kernel, by decide +kernel, ⟨by decide +kernel, read_of (by decide +kernel), by decide +kernel⟩,
    by decide +kernel⟩

/-! ### Values worked out by hand, and the manual's own examples -/

/-- A field of the state after one command. -/
def after {α : Type} (o : Host.Outcome State Fault Refusal) (f : State → α) : Option α :=
  match o with
  | .next t => some (f t)
  | _ => none

/-- The example after R74: a block whose largest magnitude is 1,000, in f8p. -/
theorem test_f8p_block : chooseScale 4 [Fmt.b32.decode 0x447A_0000, Fmt.b32.decode 0xC046_6666] = 0x81 ∧
    (convElem 4 .nearest false (unscale 0x81 (Fmt.b32.decode 0x447A_0000))).code = 0x78 ∧
    (convElem 4 .nearest false (unscale 0x81 (Fmt.b32.decode 0xC046_6666))).code = 0xB4 := by decide +kernel

/-- The example after R90: 1 + 3 × 2^−10 to bfloat16 with four bits and rnd = 11 rises; with rnd = 9 it does not. -/
theorem test_stochastic : Fmt.bf16.convert (.stochastic 4 11) (Fmt.b32.decode 0x3F80_6000) = 0x3F81 ∧
    Fmt.bf16.convert (.stochastic 4 9) (Fmt.b32.decode 0x3F80_6000) = 0x3F80 := by decide +kernel

/-- The example after R183: where a bfloat16 tile escapes. -/
theorem test_escape : escapes 6 17200 = false ∧ escapes 6 17201 = true := by decide +kernel

/-- The example before R293: 0x2345_6780 lies in bank 463, of group 28. -/
theorem test_sphagnum_bank : storeOf 0x2345_6780 = (clsBank, 28) ∧ lineAddr 463 1674 = 0x2345_6780 := by decide +kernel

/-- The example of the interleaved alias: it lies in stack 2. -/
theorem test_alias : { booted with pkg := { booted.pkg with
      memState := (List.range 8).map (fun k => (k, 3)), memCapacity := (List.range 8).map (fun k => (k, 48)) } }.resolveDirect
    0x0800_1234_5678 = some 0x0130_0246_8E78 := by decide +kernel

/-- The example after R431: the check byte 0xE8 of the word 3 at 0x10C0, and the parity that finds it at 0x1040. -/
theorem test_ddr_code : hsiaoCheck 3 ^^^ hsiaoColumn 39 = 0x68 ∧ addressParity 0x10C0 = true ∧ addressParity 0x1040 = false := by
  decide +kernel

/-- The example after R304: stream 210 with key 560 before stream 1,044 with key 1,000. -/
theorem test_arbiter : (arbiter 40 [({ req := { req false 0 128 with owner := 1044, arrived := 40 }, slack := some 1000 }, 0),
    ({ req := { req false 0 128 with owner := 210, arrived := 0 }, slack := some 600 }, 1)]).map (·.1.req.owner) = some 210 := by decide +kernel

/-- The example after R290: the merged health word of a skipped step, its verdict, and the loss-scale record after it. -/
theorem test_step_skip :
    (let a := 40999 + 40999 * 2 ^ 64 + 0x4700_0000 * 2 ^ 128 + 1 * 2 ^ 176
     let m := mergeHealth a (a + 2 ^ 160)
     (m == a + 2 ^ 160 + 1 * 2 ^ 176 && verdictOf m (some (40999 + 0 * 2 ^ 64)) == (.skip, (0, 0)) &&
       lossAfter (0x4700_0000 + 1999 * 2 ^ 32 + 2000 * 2 ^ 64 + 0x4780_0000 * 2 ^ 128) m .skip ==
         0x4680_0000 + 0 * 2 ^ 32 + 2000 * 2 ^ 64 + 0x4780_0000 * 2 ^ 128 + 1 * 2 ^ 160 + 1 * 2 ^ 192)) = true := by decide +kernel

/-- The same record, had the step applied: the clean run reaches its interval and the scale doubles (R289). -/
theorem test_clean_run : lossAfter (0x4700_0000 + 1999 * 2 ^ 32 + 2000 * 2 ^ 64 + 0x4780_0000 * 2 ^ 128) 0 .apply =
    0x4780_0000 + 2000 * 2 ^ 64 + 0x4780_0000 * 2 ^ 128 := by decide +kernel

/-- An instruction of a kernel with two values in lane 127. -/
def adding (op : Nat) (v : VFields) (a b : Nat) : State :=
  { workingOn { Frond.reset with vec := { Frond.reset.vec with running := true, pc := 7, vregs := [(4065, BitVec.ofNat 64 a), (4066, BitVec.ofNat 64 b)] } }
    with imem := [(7, BitVec.ofNat 64 (vecWord op v))] }

def v12 (t rm : Nat) : VFields := { d := 3, a := 1, b := 2, c := 0, p := 0, pn := false, rm := rm, t := t, imm := 0 }

/-- 1.5 + 2.25 in lane 127 (R165). -/
theorem test_vector_add : after (exec (.add 0 (v12 0 1)) (adding 2 (v12 0 1) 0x3FC0_0000 0x4010_0000))
    (fun t => ((t.frond 0).vec.vreg 127 3, (t.frond 0).vec.pc, t.reg 1 0 0x1118)) = some (0x4070_0000, 8, 1) := by decide +kernel

/-- 2^31 − 1 + 1 in i32 saturates, or wraps (R91). -/
theorem test_vector_saturates :
    after (exec (.add 0 (v12 4 1)) (adding 2 (v12 4 1) 0x7FFF_FFFF 1)) (fun t => (t.frond 0).vec.vreg 127 3) = some 0x7FFF_FFFF ∧
    after (exec (.add 0 (v12 4 2)) (adding 2 (v12 4 2) 0x7FFF_FFFF 1)) (fun t => (t.frond 0).vec.vreg 127 3) = some 0x8000_0000 := by decide +kernel

/-- s1 − 9 from s1 = 2 (R160), and branches from the last instruction. -/
theorem test_scalars : after (exec (.ssub 0 (vt 0 2 9)) (kernelAt 0x29 (vt 0 2 9) 2 0)) (fun t => (t.frond 0).vec.sreg 2) =
      some (0xFFFF_FFFF_FFFF_FFF9#64) ∧
    after (exec (.br 0 (vt 0 0 (-3))) (kernelAt 0x30 (vt 0 0 (-3)) 2 0)) (fun t => (t.frond 0).vec.pc) = some 8188 ∧
    after (exec (.bnz 0 (vt 0 0 2)) (kernelAt 0x31 (vt 0 0 2) 2 0)) (fun t => (t.frond 0).vec.pc) = some 1 ∧
    after (exec (.bz 0 (vt 0 0 2)) (kernelAt 0x32 (vt 0 0 2) 2 0)) (fun t => (t.frond 0).vec.pc) = some 0 := by decide +kernel

/-- A SEM_WAIT takes the one credit; another then waits (R316). -/
theorem test_sem_wait : (let b := { sw with target := 1 }
      after (exec (.semWait hx b) (semsRow (.semWait hx b) fresh)) (fun t => (t.semaphore (.freed 0), (t.frond 0).execute.wait))) =
      some (some (0, 1), none) ∧
    after (exec (.semWait hx sw) (semsRow (.semWait hx sw) fresh)) (fun t => (t.semaphore (.filled 0), (t.frond 0).execute.wait)) =
      some (some (0, 1), some (Wait.sem (.filled 0) 1 false 0x1000)) := by decide +kernel

/-- A new request takes ticket 3 and leaves 4; the counters run out at 3 (R324). -/
theorem test_ticket_claim : after (exec (.ticketClaim ⟨0, []⟩) (ticketing 9 fresh (claimed 8) 0))
      (fun t => (t.hyphae.replies.map (·.ticket), sget (fun _ => (0 : Byte)) t.mem 0x1000, sget (fun _ => (0 : Byte)) t.mem 0x1040)) =
      some ([some 3], 4, 8) ∧
    after (exec (.ticketClaim ⟨0, []⟩) (ticketing 3 fresh (claimed 8) 0))
      (fun t => (t.hyphae.replies.map (·.ticket), sget (fun _ => (0 : Byte)) t.mem 0x1000)) = some ([none], 3) := by decide +kernel

/-- A guarded DRAIN at an origin beyond the extent is skipped and counted (R389). -/
theorem test_guard_skips : after (exec (.drain guardedDrain dr) (atNext (.drain guardedDrain dr) Frond.reset))
    (fun t => (t.reg 8 0 0x1134, (t.frond 0).jobs)) = some (1, []) := by decide +kernel


/-! ### The ball map (R634 to R638) -/

/-- The manual's example: channel 5, subchannel B, DQS_c[3] is ball 40-83. -/
theorem test_ball_example : ballAt 40 83 = .signal (.ddr 5 (.dqsC true 3)) := by decide

/-- The manual's counts: 2,774 supply balls, 1,532 signal balls, 40 reserved and 3,575 VSS. -/
def ballCounts (rows : List Nat) : Nat × Nat × Nat × Nat :=
  rows.foldl (fun n r => (rangeFrom 1 89).foldl (fun n c => match ballAt r c with
    | .supply _ => (n.1 + 1, n.2)
    | .signal _ => (n.1, n.2.1 + 1, n.2.2)
    | .reserved => (n.1, n.2.1, n.2.2.1 + 1, n.2.2.2)
    | .vss => (n.1, n.2.1, n.2.2.1, n.2.2.2 + 1)) n) (0, 0, 0, 0)
theorem test_ball_counts : ballCounts (rangeFrom 1 89) = (2774, 1532, 40, 3575) := by decide +kernel

end Sys2Proof.Machine.Tests
end

section
/-! PROOFS. Reads of counting registers (R13, R34): bytes that are read little-endian give the register's value, a word of
the unit window is a register of the selected unit, and reading an RC counter clears exactly that register. -/

namespace Sys2Proof.Machine

/-! ### Little-endian bytes -/

theorem leNat_leBytes (n v : Nat) : leNat (leBytes n v) = v % 2 ^ (8 * n) := by
  induction n generalizing v with
  | zero => simp [leBytes, leNat, Nat.mod_one]
  | succ n ih => rw [leBytes, leNat, ih, Nat.mul_succ, Nat.add_comm (8 * n), Nat.pow_add, Nat.mod_mul, BitVec.toNat_ofNat]

/-- A word that has room for the bytes of a number holds the number cut to those bytes. -/
theorem toNat_ofNat_leBytes {n w : Nat} (h : 8 * n ≤ w) (v : Nat) :
    (BitVec.ofNat w (leNat (leBytes n v))).toNat = v % 2 ^ (8 * n) := by
  have fits : v % 2 ^ (8 * n) < 2 ^ w :=
    Nat.lt_of_lt_of_le (Nat.mod_lt _ (Nat.two_pow_pos _)) (Nat.pow_le_pow_right (by decide) h)
  rw [BitVec.toNat_ofNat, leNat_leBytes, Nat.mod_eq_of_lt fits]

/-- The byte at place k of a number's little-endian bytes holds bits [8k+7:8k]. -/
theorem leBytes_eq_map (n v : Nat) : leBytes n v = (List.range n).map fun k => BitVec.ofNat 8 (v / 2 ^ (8 * k)) := by
  induction n generalizing v with
  | zero => rfl
  | succ n ih =>
    have shift (k : Nat) : v / 256 / 2 ^ (8 * k) = v / 2 ^ (8 * (k + 1)) := by
      rw [Nat.div_div_eq_div_mul, Nat.mul_add, Nat.add_comm, Nat.pow_add]
    simp [leBytes, ih, List.range_succ_eq_map, shift]

/-! ### The register maps -/

/-- In every map each register starts on a word and is the one found at each of its bytes: no two registers overlap. -/
theorem regMap_sound : ∀ c < 10, ∀ r ∈ regMap c, r.1 % 4 = 0 ∧ ∀ k < r.2.1, regAt c (r.1 + k) = some r := by
  decide +kernel

theorem regMap_mem_class {c : Nat} {r : RegRow} (h : r ∈ regMap c) : c < 10 :=
  Nat.lt_of_not_le fun hc => by
    obtain ⟨d, rfl⟩ := Nat.exists_eq_add_of_le' hc
    exact absurd h List.not_mem_nil

theorem regMap_aligned {c : Nat} {r : RegRow} (h : r ∈ regMap c) : r.1 % 4 = 0 :=
  (regMap_sound c (regMap_mem_class h) r h).1

theorem regAt_of_mem {c k : Nat} {r : RegRow} (h : r ∈ regMap c) (hk : k < r.2.1) : regAt c (r.1 + k) = some r :=
  (regMap_sound c (regMap_mem_class h) r h).2 k hk

variable {s : State} {c i off : Nat}

/-- The bytes of a register are the little-endian bytes of its value. -/
theorem State.regBytes_of_mem {n : Nat} {a : Access} (h : (off, n, a) ∈ regMap c) :
    s.regBytes c i off n = leBytes n (s.regValue c i off) := by
  have byte : ∀ k ∈ List.range n, s.regByte c i (off + k) = BitVec.ofNat 8 (s.regValue c i off / 2 ^ (8 * k)) := by
    intro k hk
    simp [State.regByte, regAt_of_mem h (List.mem_range.mp hk)]
  simpa [State.regBytes, rangeFrom, leBytes_eq_map, List.range'_eq_map_range, Function.comp_def] using byte

/-! ### Reads through the unit window -/

theorem State.bar0Byte_window {a : Nat} (hs : s.selected = some (c, i)) (h1 : 0x1100 ≤ a) (h2 : a < 0x2000) :
    s.bar0Byte a = s.regByte c i a := by
  simp [State.bar0Byte, h1, h2, hs]

theorem State.bar0Bytes_window {n : Nat} (hs : s.selected = some (c, i)) (h1 : 0x1100 ≤ off) (h2 : off + n ≤ 0x2000) :
    (rangeFrom off n).map s.bar0Byte = s.regBytes c i off n :=
  List.map_congr_left fun a ha => by
    obtain ⟨hlo, hhi⟩ := List.mem_range'_1.mp ha
    exact State.bar0Byte_window hs (by omega) (by omega)

/-- The host gets up to 64 bytes of a number as the number cut to those bytes. -/
theorem State.giveHost_leBytes {n : Nat} (hn : n ≤ 64) (v : Nat) :
    (s.giveHost (leBytes n v)).host.reg.toNat = v % 2 ^ (8 * n) :=
  toNat_ofNat_leBytes (show 8 * n ≤ 512 by omega) v

/-- An RC counter in the window of the selected unit is the one found there. -/
theorem State.rcAt_window (hs : s.selected = some (c, i)) (hm : (off, 4, Access.rc) ∈ regMap c) (h1 : 0x1100 ≤ off)
    (h2 : off < 0x2000) : s.rcAt off = some (c, homeUnit c i off, off) := by
  have hr : regAt c off = some (off, 4, .rc) := regAt_of_mem (k := 0) hm (Nat.zero_lt_succ 3)
  simp [State.rcAt, h1, h2, hs, hr]

/-- A word read of an RC counter of the selected unit: the host gets the value before the counts of the cycle, and only they
stand in the counter afterwards (R13). -/
theorem State.readRc_window (hs : s.selected = some (c, i)) (hm : (off, 4, Access.rc) ∈ regMap c) (h1 : 0x1100 ≤ off)
    (h2 : off < 0x2000) (inc : Nat) :
    s.readRc off 4 [inc] =
      (s.giveHost (leBytes 4 (s.regValue c i off))).setReg c (homeUnit c i off) off (BitVec.ofNat 64 (inc % 2 ^ 32)) := by
  have aligned : off % 4 = 0 := regMap_aligned hm
  have takes : bar0Takes off 4 = true := by simp [bar0Takes, aligned]
  have bytes : (rangeFrom off 4).map s.bar0Byte = leBytes 4 (s.regValue c i off) := by
    rw [State.bar0Bytes_window hs h1 (by omega), State.regBytes_of_mem hm]
  have here : (s.giveHost (leBytes 4 (s.regValue c i off))).rcAt off = some (c, homeUnit c i off, off) :=
    State.rcAt_window (s := s.giveHost _) hs hm h1 h2
  unfold State.readRc
  rw [if_neg (by simp [takes]), if_neg (by omega), if_neg (by omega), if_neg (by omega), bytes]
  simp [List.range_succ, State.clearRc, here]

/-- Beside what the host gets, the read writes only registers. -/
theorem State.giveHost_setReg_frame (bs : List Byte) (j : Nat) (v : Dword) :
    { (s.giveHost bs).setReg c j off v with regs := s.regs, host := s.host } = s := by
  cases s; rfl

/-! ### The rows -/

theorem hostRow_ready {read : Bool} {run : State → State} (h : s.hostReady = true) : hostRow read run s = .next (run s) := by
  simp [hostRow, h]

theorem exec_rcCounterRead_ready {r : CountedRead} (h : s.hostReady = true) :
    exec (.rcCounterRead off r) s = .next (s.readRc off r.size r.increments) :=
  hostRow_ready (read := true) (run := fun s => s.readRc off r.size r.increments) h

theorem exec_tickCountRead_ready {r : CountRead} (h : s.hostReady = true) :
    exec (.tickCountRead r) s = .next (s.readCount r) :=
  hostRow_ready (read := true) (run := fun s => s.readCount r) h

/-- A read of the low word writes the latch and what the host gets, and nothing else. -/
theorem State.readCount_low32_frame : { s.readCount .low32 with tick := s.tick, host := s.host } = s := by
  cases s; rfl

/-- Giving the host bytes writes nothing but what the host gets. -/
theorem State.giveHost_frame (bs : List Byte) : { s.giveHost bs with host := s.host } = s := by
  cases s; rfl

/-! ### The obligation -/

/-- Settles O22: by the equations of a word read of a counter and of the three reads of TICK_COUNT. -/
theorem countingRegistersAreRead : Obligations.CountingRegistersAreRead := by
  refine ⟨fun c i off inc s hc hr hs _ hm h1 h2 hinc => ?_, fun s hr => ⟨?_, ?_, ?_⟩⟩
  · refine ⟨_, (exec_rcCounterRead_ready hr).trans (congrArg _ (State.readRc_window hs hm h1 h2 inc)), ?_, ?_, ?_,
      State.giveHost_setReg_frame ..⟩
    · exact State.giveHost_leBytes (by decide) _
    · rw [Nat.mod_eq_of_lt hinc]
      exact sget_sput_same _ _ hc.regs
    · exact fun k hk => sget_sput_ne _ hc.regs hk
  · exact ⟨_, exec_tickCountRead_ready hr, State.giveHost_leBytes (n := 4) (by decide) s.tickNow, rfl,
      State.readCount_low32_frame⟩
  · refine ⟨_, exec_tickCountRead_ready hr, ?_, State.giveHost_frame _⟩
    exact (State.giveHost_leBytes (n := 4) (by decide) _).trans (Nat.mod_eq_of_lt s.tick.latch.isLt)
  · refine ⟨_, exec_tickCountRead_ready hr, ?_, State.giveHost_frame _⟩
    exact (State.giveHost_leBytes (n := 8) (by decide) _).trans (Nat.mod_eq_of_lt s.tick.count.isLt)

end Sys2Proof.Machine
end

section
/-! PROOFS. The tick block is out of reach of every operation but those of the tick itself (R31, R33): one lemma per operation
that a command uses, in the order of the model's files. An operation that may answer no state has its lemma over the state it
answers. -/

namespace Sys2Proof.Machine

variable (s : State) {u : State}

/-! ### Folds and alternatives -/

/-- A fold keeps the tick of a state that it carries when each of its steps does. -/
theorem foldl_tick_of {α β : Type} (g : α → State) (f : α → β → α) (h : ∀ a b, (g (f a b)).tick = (g a).tick)
    (l : List β) (a : α) : (g (l.foldl f a)).tick = (g a).tick := by
  induction l generalizing a with
  | nil => rfl
  | cons b l ih => rw [List.foldl, ih, h]

theorem foldl_tick {β : Type} (f : State → β → State) (h : ∀ s b, (f s b).tick = s.tick) (l : List β) (s : State) :
    (l.foldl f s).tick = s.tick :=
  foldl_tick_of id f h l s

theorem eq_some_of_orElse {α : Type} {a : Option α} {b : Unit → Option α} {x : α} (h : a.orElse b = some x) :
    a = some x ∨ b () = some x := by
  cases a with
  | none => exact .inr h
  | some y => exact .inl h

/-! ### Registers, ledgers, reports and device memory -/

theorem State.modFrond_tick (f : Nat) (g : Frond → Frond) : (s.modFrond f g).tick = s.tick := rfl

theorem State.modPart_tick (p : Nat) (g : Partition → Partition) : (s.modPart p g).tick = s.tick := rfl

theorem State.modPort_tick (i : Nat) (g : Port → Port) : (s.modPort i g).tick = s.tick := rfl

theorem State.freeBits_tick (w : Nat) : (s.freeBits w).2.tick = s.tick := rfl

theorem State.freeNat_tick : s.freeNat.2.tick = s.tick := rfl

theorem State.setBit_tick (cls i off b : Nat) : (s.setBit cls i off b).tick = s.tick := rfl

theorem State.count32_tick (cls i off n : Nat) : (s.count32 cls i off n).tick = s.tick := rfl

theorem State.count64_tick (cls i off n : Nat) : (s.count64 cls i off n).tick = s.tick := rfl

@[simp] theorem State.countFlag_tick (cls i off n b : Nat) : (s.countFlag cls i off n b).tick = s.tick := by
  unfold State.countFlag
  split <;> simp

@[simp] theorem State.ledMake_tick (p code obj n : Nat) : (s.ledMake p code obj n).tick = s.tick := rfl

@[simp] theorem State.ledTake_tick (p code obj n : Nat) : (s.ledTake p code obj n).tick = s.tick := rfl

@[simp] theorem State.ledRestart_tick (p : Nat) : (s.ledRestart p).tick = s.tick := rfl

@[simp] theorem State.raiseVector_tick (v : Nat) : (s.raiseVector v).tick = s.tick := by
  unfold State.raiseVector
  split <;> simp

@[simp] theorem State.setGlobalFault_tick (b : Nat) : (s.setGlobalFault b).tick = s.tick := by
  unfold State.setGlobalFault
  dsimp only
  split <;> simp

@[simp] theorem State.post_tick (p : Option Nat) (kind cls index : Nat) (data : List Item) :
    (s.post p kind cls index data).tick = s.tick := rfl

@[simp] theorem State.traceEvent_tick (p bit : Nat) : (s.traceEvent p bit).tick = s.tick := by
  unfold State.traceEvent
  split <;> simp

@[simp] theorem State.logRecord_tick (p : Nat) (r : BitVec 256) : (s.logRecord p r).tick = s.tick := by
  unfold State.logRecord
  split <;> simp

@[simp] theorem State.suspect_tick (p : Nat) (r : Report) : (s.suspect p r).tick = s.tick := by
  unfold State.suspect
  split <;> simp

@[simp] theorem State.postRecord_tick (r : Report) (secondary : Bool) : (s.postRecord r secondary).tick = s.tick := by
  unfold State.postRecord
  split <;> simp

@[simp] theorem State.markUnit_tick (cls index code : Nat) : (s.markUnit cls index code).tick = s.tick := by
  unfold State.markUnit
  repeat' split
  all_goals simp

@[simp] theorem State.raiseReport_tick (r : Report) : (s.raiseReport r).tick = s.tick := by simp [State.raiseReport]

@[simp] theorem State.raiseStop_tick (p : Nat) (r : Report) (atEdge : Bool) : (s.raiseStop p r atEdge).tick = s.tick := by
  unfold State.raiseStop
  dsimp only
  repeat' split
  all_goals simp

@[simp] theorem State.descFault_tick (p code subcode detail cls index desc : Nat) :
    (s.descFault p code subcode detail cls index desc).tick = s.tick := by simp [State.descFault]

@[simp] theorem State.cleanUnit_tick (u : Nat) : (s.cleanUnit u).tick = s.tick := rfl

@[simp] theorem State.flipWords_tick (u : Nat) (fs : List (Nat × BitVec 40)) : (s.flipWords u fs).tick = s.tick := rfl

@[simp] theorem State.flipData_tick (u : Nat) (fs : List (Nat × BitVec 40)) : (s.flipData u fs).tick = s.tick := rfl

@[simp] theorem State.show_tick (u : Nat) (rep : DeviceReport) : (s.show u rep).tick = s.tick := by
  unfold State.show
  repeat' split
  all_goals simp

@[simp] theorem State.showAll_tick (rs : List (Nat × DeviceReport)) : (s.showAll rs).tick = s.tick := by
  unfold State.showAll
  grind only [State.show_tick, foldl_tick]

@[simp] theorem State.mendWord_tick (w : Nat) : (s.mendWord w).tick = s.tick := by
  unfold State.mendWord
  dsimp only
  split <;> simp

@[simp] theorem State.writeBack_tick (u : Nat) : (s.writeBack u).tick = s.tick := by
  unfold State.writeBack
  grind only [State.mendWord_tick, foldl_tick]

@[simp] theorem State.poisonUnit_tick (u : Nat) : (s.poisonUnit u).tick = s.tick := rfl

@[simp] theorem State.noteUnit_tick (u : Nat) (c : UnitCheck) : (s.noteUnit u c).tick = s.tick := by
  unfold State.noteUnit
  repeat' split
  all_goals simp

@[simp] theorem State.countUnit_tick (p : Option Nat) (write head : Bool) (u n : Nat) :
    (s.countUnit p write head u n).tick = s.tick := by
  unfold State.countUnit
  repeat' split
  all_goals simp

@[simp] theorem State.readPhys_tick (p : Option Nat) (as : List Nat) : (s.readPhys p as).state.tick = s.tick := by
  unfold State.readPhys
  grind only [State.countUnit_tick, State.noteUnit_tick, foldl_tick]

@[simp] theorem State.carryPoison_tick (p : Option Nat) (a : Nat) (js : List Nat) :
    (s.carryPoison p a js).tick = s.tick := by
  unfold State.carryPoison
  grind only [State.poisonUnit_tick, foldl_tick]

@[simp] theorem State.protectWriteOf_tick (p phys : Nat) : (s.protectWriteOf p phys).tick = s.tick := by
  unfold State.protectWriteOf
  grind only [State.freeNat_tick, State.count32_tick, State.modPart_tick, foldl_tick]

@[simp] theorem State.protectWrite_tick (phys : Nat) : (s.protectWrite phys).tick = s.tick := by
  unfold State.protectWrite
  grind only [State.protectWriteOf_tick, foldl_tick]

@[simp] theorem State.writeUnit_tick (p : Option Nat) (head : Bool) (u : Nat) (cells : List (Nat × Byte)) :
    (s.writeUnit p head u cells).1.tick = s.tick := by
  unfold State.writeUnit
  dsimp only
  repeat' split
  all_goals simp

@[simp] theorem State.writePhys_tick (p : Option Nat) (cells : List (Nat × Byte)) :
    (s.writePhys p cells).state.tick = s.tick := foldl_tick_of WriteResult.state _ (fun _ _ => State.writeUnit_tick ..) _ _

@[simp] theorem State.raiseUnc_tick (p cls index desc : Nat) (bad : Nat × Nat) :
    (s.raiseUnc p cls index desc bad).tick = s.tick := by simp [State.raiseUnc]

@[simp] theorem State.raiseOverflow_tick (p subcode addr cls index desc : Nat) :
    (s.raiseOverflow p subcode addr cls index desc).tick = s.tick := by simp [State.raiseOverflow]

@[simp] theorem State.readFor_tick (p cls index desc : Nat) (as : List Nat) :
    (s.readFor p cls index desc as).1.tick = s.tick := by
  unfold State.readFor
  dsimp only
  repeat' split
  all_goals simp

@[simp] theorem State.writeFor_tick (p cls index desc : Nat) (cells : List (Nat × Byte)) :
    (s.writeFor p cls index desc cells).1.tick = s.tick := by
  unfold State.writeFor
  dsimp only
  repeat' split
  all_goals simp

@[simp] theorem State.refuseLive_tick (cls i off value : Nat) : (s.refuseLive cls i off value).tick = s.tick := by
  unfold State.refuseLive
  dsimp only
  split <;> simp

/-! ### Mailboxes -/

@[simp] theorem State.writeResponse_tick (m : Nat) (t : Taken) (status : Nat) (result : List Byte) :
    (s.writeResponse m t status result).tick = s.tick := by
  unfold State.writeResponse
  dsimp only
  repeat' split
  all_goals simp

@[simp] theorem State.respond_tick (m status : Nat) (result : List Byte) : (s.respond m status result).tick = s.tick := by
  unfold State.respond
  split <;> simp

@[simp] theorem State.ok_tick (m : Nat) (result : List Byte) : (s.ok m result).tick = s.tick := by simp [State.ok]

@[simp] theorem State.accept_tick (m : Nat) : (s.accept m).tick = s.tick := by simp [State.accept]

@[simp] theorem State.badArg_tick (m off least : Nat) : (s.badArg m off least).tick = s.tick := by simp [State.badArg]

@[simp] theorem State.badCommand_tick (m : Nat) : (s.badCommand m).tick = s.tick := by simp [State.badCommand]

@[simp] theorem State.notAllowed_tick (m code : Nat) : (s.notAllowed m code).tick = s.tick := by simp [State.notAllowed]

@[simp] theorem State.verifyFailed_tick (m sect cls off : Nat) :
    (s.verifyFailed m sect cls off).tick = s.tick := by simp [State.verifyFailed]

@[simp] theorem State.answerFaulted_tick (m code tick : Nat) :
    (s.answerFaulted m code tick).tick = s.tick := by simp [State.answerFaulted]

@[simp] theorem State.takeChecks_tick (m : Nat) (t : Taken) : (s.takeChecks m t).tick = s.tick := by
  unfold State.takeChecks
  repeat' split
  all_goals simp

@[simp] theorem State.seqFault_tick (m : Nat) : (s.seqFault m).tick = s.tick := by simp [State.seqFault]

@[simp] theorem State.rotaOne_tick (m : Nat) : (s.rotaOne m).tick = s.tick := by
  unfold State.rotaOne
  dsimp only
  repeat' split
  all_goals simp

theorem State.judge_tick {m p op : Nat} (h : s.judge m p op = some u) : u.tick = s.tick := by
  unfold State.judge at h
  grind only [State.answerFaulted_tick, State.notAllowed_tick, State.respond_tick]

@[simp] theorem State.acceptHeld_tick (m : Nat) (t : Taken) : (s.acceptHeld m t).tick = s.tick := by
  unfold State.acceptHeld
  dsimp only
  split <;> simp

@[simp] theorem State.faultOutstanding_tick (p : Nat) : (s.faultOutstanding p).tick = s.tick := by
  unfold State.faultOutstanding
  grind only [State.answerFaulted_tick, foldl_tick]

/-! ### Frond stores -/

@[simp] theorem State.deviate_tick (f : Nat) (st : FrondStore) (w : Nat) (d : BitVec 32) :
    (s.deviate f st w d).tick = s.tick := by
  unfold State.deviate
  repeat' split
  all_goals simp

@[simp] theorem State.strikeWord_tick (x : Strike) : (s.strikeWord x).tick = s.tick := by
  unfold State.strikeWord
  split <;> simp

@[simp] theorem State.strike_tick (xs : List Strike) : (s.strike xs).tick = s.tick := by
  unfold State.strike
  grind only [State.strikeWord_tick, foldl_tick]

@[simp] theorem State.cleanWords_tick (f : Nat) (st : FrondStore) (lo n : Nat) : (s.cleanWords f st lo n).tick = s.tick := by
  unfold State.cleanWords
  split <;> simp

@[simp] theorem State.poisonBuf_tick (f u : Nat) : (s.poisonBuf f u).tick = s.tick := by simp [State.poisonBuf]

@[simp] theorem State.retireFrond_tick (f : Nat) : (s.retireFrond f).tick = s.tick := rfl

@[simp] theorem State.retireRepeated_tick (f : Nat) : (s.retireRepeated f).tick = s.tick := by
  unfold State.retireRepeated
  split <;> simp

theorem State.faultOfFrond_tick (p f : Nat) {raise : State → State} (h : ∀ s, (raise s).tick = s.tick) :
    (s.faultOfFrond p f raise).tick = s.tick := by
  unfold State.faultOfFrond
  grind only [State.retireRepeated_tick]

@[simp] theorem State.raiseSource5_tick (p f desc addr cause : Nat) :
    (s.raiseSource5 p f desc addr cause).tick = s.tick := State.faultOfFrond_tick _ _ _ fun _ => State.descFault_tick ..

@[simp] theorem State.raiseBufBad_tick (p f desc : Nat) (bad : Nat × Nat) : (s.raiseBufBad p f desc bad).tick = s.tick := by
  unfold State.raiseBufBad
  split <;> simp

theorem State.bufFault_tick {p f desc : Nat} {as : List Nat} (h : s.bufFault p f desc as = some u) : u.tick = s.tick := by
  unfold State.bufFault at h
  split at h
  · grind only [State.raiseOverflow_tick]
  · obtain ⟨b, -, rfl⟩ := Option.map_eq_some_iff.1 h
    exact State.raiseBufBad_tick ..

@[simp] theorem State.rewordBuf_tick (f : Nat) (as : List Nat) : (s.rewordBuf f as).tick = s.tick := by
  unfold State.rewordBuf
  split <;> simp

@[simp] theorem State.bufPut_tick (f : Nat) (ws : List ByteWrite) : (s.bufPut f ws).tick = s.tick := by simp [State.bufPut]

@[simp] theorem State.bufPutFor_tick (p f desc : Nat) (ws : List ByteWrite) : (s.bufPutFor p f desc ws).1.tick = s.tick := by
  unfold State.bufPutFor
  grind only [State.raiseOverflow_tick, State.bufPut_tick, State.poisonBuf_tick, State.raiseBufBad_tick, foldl_tick]

@[simp] theorem State.raiseStoreBad_tick (p f desc : Nat) (st : FrondStore) (bad : Nat × Nat) :
    (s.raiseStoreBad p f desc st bad).tick = s.tick := by
  unfold State.raiseStoreBad
  split <;> simp

theorem State.storeFault_tick {p f desc : Nat} {st : FrondStore} {ws : List Nat} (h : s.storeFault p f desc st ws = some u) :
    u.tick = s.tick := by
  obtain ⟨b, -, rfl⟩ := Option.map_eq_some_iff.1 h
  exact State.raiseStoreBad_tick ..

/-! ### Issue of descriptors -/

@[simp] theorem State.readLine_tick (p f : Nat) : (s.readLine p f).1.tick = s.tick := by
  unfold State.readLine
  dsimp only
  repeat' split
  all_goals simp

@[simp] theorem State.fillProg_tick (p f n : Nat) : (State.fillProg p f n s).1.tick = s.tick := by
  induction n generalizing s with
  | zero => rfl
  | succ n ih =>
    unfold State.fillProg
    grind only [State.readLine_tick]

@[simp] theorem State.refill_tick (p f : Nat) : (s.refill p f).tick = s.tick := by
  unfold State.refill
  grind only [State.fillProg_tick, State.raiseUnc_tick]

@[simp] theorem State.sendClaim_tick (f p : Nat) : (s.sendClaim f p).tick = s.tick := by
  unfold State.sendClaim
  dsimp only
  split <;> simp

@[simp] theorem State.advanceLoop_tick (f p : Nat) : (s.advanceLoop f p).tick = s.tick := by
  unfold State.advanceLoop
  dsimp only
  repeat' split
  all_goals simp

@[simp] theorem State.fetched_tick (f p : Nat) : (s.fetched f p).tick = s.tick := by simp [State.fetched]

@[simp] theorem State.took_tick (i : Issue) (p : Nat) (pass : Option PassRef) (head : Bool) :
    (s.took i p pass head).tick = s.tick := by
  unfold State.took
  split <;> simp

@[simp] theorem State.waitOn_tick (f : Nat) (q : SeqSel) (w : Wait) : (s.waitOn f q w).tick = s.tick := rfl

@[simp] theorem State.place_tick (i : Issue) (p : Nat) : (s.place i p).tick = s.tick := by simp [State.place]

@[simp] theorem State.holdIssue_tick (i : Issue) (p : Nat) (head : Bool) (w : Wait) :
    (s.holdIssue i p head w).tick = s.tick := by
  unfold State.holdIssue
  split <;> simp

@[simp] theorem State.countSkip_tick (p : Nat) : (s.countSkip p).tick = s.tick := by
  unfold State.countSkip
  dsimp only
  split <;> simp

@[simp] theorem State.addJob_tick (i : Issue) (pass : Option PassRef) (id : Nat) (b : JobBody) :
    (s.addJob i pass id b).tick = s.tick := rfl

theorem State.issueWith_tick (i : Issue) (is : Nat → Bool) (ready : Nat → State → Option Wait) {skip run : Run}
    (hskip : ∀ p pass id s, (skip p pass id s).1.tick = s.tick) (hrun : ∀ p pass id s, (run p pass id s).1.tick = s.tick) :
    (s.issueWith i is ready skip run).tick = s.tick := by
  unfold State.issueWith
  grind only [State.waitOn_tick, State.place_tick, State.holdIssue_tick, State.took_tick, State.modFrond_tick,
    State.countSkip_tick, State.addJob_tick]

@[simp] theorem State.countStalls_tick (who : Nat → Option BankUser) (cs : List Contest) :
    (s.countStalls who cs).tick = s.tick := by
  unfold State.countStalls
  grind only [State.countFlag_tick, foldl_tick]

@[simp] theorem State.endJob_tick (f id : Nat) : (s.endJob f id).tick = s.tick := rfl

/-! ### The array -/

@[simp] theorem State.putAcc_tick (f bank : Nat) (vs : List (Nat × Nat × Val)) : (s.putAcc f bank vs).tick = s.tick := by
  unfold State.putAcc
  grind only [State.cleanWords_tick, foldl_tick]

@[simp] theorem State.arrayCycles_tick (i : Issue) (sub : Nat) :
    (s.arrayCycles i sub).tick = s.tick := by simp [State.arrayCycles]

@[simp] theorem State.residue_tick (i : Issue) (p sub bank : Nat) (bad : Bool) :
    (s.residue i p sub bank bad).tick = s.tick := by
  unfold State.residue
  split
  · exact State.faultOfFrond_tick _ _ _ fun _ => State.descFault_tick ..
  · rfl

@[simp] theorem runDense_tick (i : Issue) (b : DenseBody) (p : Nat) (pass : Option PassRef) (id : Nat) :
    (runDense i b p pass id s).1.tick = s.tick := by
  unfold runDense
  grind only [State.arrayCycles_tick, State.bufFault_tick, State.storeFault_tick, State.putAcc_tick, State.modFrond_tick,
    State.residue_tick, → eq_some_of_orElse]

theorem State.drainFault_tick {p : Nat} {i : Issue} {b : DrainBody} (h : s.drainFault p i b = some u) : u.tick = s.tick := by
  unfold State.drainFault at h
  grind only [State.descFault_tick, State.bufFault_tick, State.storeFault_tick, → eq_some_of_orElse]

@[simp] theorem runDrain_tick (i : Issue) (b : DrainBody) (p : Nat) (pass : Option PassRef) (id : Nat) :
    (runDrain i b p pass id s).1.tick = s.tick := by
  unfold runDrain
  grind only [State.countStalls_tick, State.drainFault_tick, State.bufPutFor_tick, State.count32_tick, foldl_tick]

/-! ### The host function -/

@[simp] theorem State.trainLink_tick (h : HostPort) : (s.trainLink h).tick = s.tick := by
  unfold State.trainLink
  split <;> simp

@[simp] theorem State.unsupported_tick (read : Bool) : (s.unsupported read).tick = s.tick := rfl

/-! ### Semaphores, tickets and TICK_WAIT -/

@[simp] theorem State.setSemaphore_tick (r : SemRef) (v : Nat) : (s.setSemaphore r v).tick = s.tick := by
  unfold State.setSemaphore
  repeat' split
  all_goals simp

@[simp] theorem State.modLedger_tick (p code obj : Nat) (g : Ledger → Ledger) :
    (s.modLedger p code obj g).tick = s.tick := rfl

@[simp] theorem State.advanceEnd_tick (r : SemRef) (k : BitVec 32) : (s.advanceEnd r k).tick = s.tick := by
  unfold State.advanceEnd
  repeat' split
  all_goals simp

@[simp] theorem State.countItems_tick (p : Nat) (r : SemRef) (k : Nat) (undo : Bool) :
    (s.countItems p r k undo).tick = s.tick := by
  unfold State.countItems
  split <;> simp

@[simp] theorem State.unclaim_tick (r : SemRef) (k : Nat) : (s.unclaim r k).tick = s.tick := by
  unfold State.unclaim
  repeat' split
  all_goals simp

@[simp] theorem State.claimItems_tick (r : SemRef) (k : Nat) : (s.claimItems r k).tick = s.tick := by
  unfold State.claimItems
  repeat' split
  all_goals simp

@[simp] theorem State.sendSignal_tick (p f : Nat) (q : SeqSel) (job : Nat) (target : SemRef) (count : Nat) :
    (s.sendSignal p f q job target count).tick = s.tick := by simp [State.sendSignal]

@[simp] theorem State.dropStale_tick (p : Nat) : (s.dropStale p).tick = s.tick := rfl

@[simp] theorem State.refuseSignal_tick (g : Signal) : (s.refuseSignal g).tick = s.tick := by simp [State.refuseSignal]

@[simp] theorem State.loseSignal_tick (g : Signal) : (s.loseSignal g).tick = s.tick := by
  unfold State.loseSignal
  split <;> simp

@[simp] theorem State.applySignal_tick (n : Nat) : (s.applySignal n).tick = s.tick := by
  unfold State.applySignal
  dsimp only
  repeat' split
  all_goals simp

theorem State.takeSem_tick {p : Nat} {r : SemRef} {k : Nat} (h : s.takeSem p r k = some u) : u.tick = s.tick := by
  unfold State.takeSem at h
  grind only [State.setSemaphore_tick, State.claimItems_tick, State.ledTake_tick]

@[simp] theorem State.waitIssued_tick (f : Nat) (q : SeqSel) (w : Wait) : (s.waitIssued f q w).tick = s.tick := rfl

@[simp] theorem State.waitEnds_tick (f : Nat) (q : SeqSel) (frameEnd : Bool) : (s.waitEnds f q frameEnd).tick = s.tick := rfl

@[simp] theorem runSemWait_tick (i : Issue) (b : SemWaitBody) (p : Nat) (pass : Option PassRef) (id : Nat) :
    (runSemWait i b p pass id s).1.tick = s.tick := by
  unfold runSemWait
  grind only [State.takeSem_tick, State.waitIssued_tick]

@[simp] theorem State.arrive_tick (ns : List Nat) : (s.arrive ns).tick = s.tick := by
  unfold State.arrive
  grind only [State.applySignal_tick, foldl_tick]

@[simp] theorem State.semWaitDone_tick (f : Nat) (q : SeqSel) (cycles : Nat) : (s.semWaitDone f q cycles).tick = s.tick := by
  unfold State.semWaitDone
  grind only [State.takeSem_tick, State.count32_tick, State.waitEnds_tick]

@[simp] theorem runSemSignal_tick (i : Issue) (b : SemSignalBody) (p : Nat) (pass : Option PassRef) (id : Nat) :
    (runSemSignal i b p pass id s).1.tick = s.tick := by
  unfold runSemSignal
  dsimp only
  split <;> simp

@[simp] theorem State.signalLeave_tick (f : Nat) (q : SeqSel) : (s.signalLeave f q).tick = s.tick := by
  unfold State.signalLeave
  dsimp only
  repeat' split
  all_goals simp

@[simp] theorem State.recordRead_tick (p a n : Nat) : (s.recordRead p a n).1.tick = s.tick := by
  unfold State.recordRead
  dsimp only
  repeat' split
  all_goals simp

@[simp] theorem State.recordWrite_tick (p a n v : Nat) : (s.recordWrite p a n v).tick = s.tick := by
  unfold State.recordWrite
  split <;> simp

@[simp] theorem State.claimTicket_tick (c : Claim) : (s.claimTicket c).tick = s.tick := by
  unfold State.claimTicket
  grind only [State.count64_tick, State.recordRead_tick, State.ledMake_tick, State.recordWrite_tick]

@[simp] theorem State.claimArrives_tick (f : Nat) : (s.claimArrives f).tick = s.tick := by
  unfold State.claimArrives
  dsimp only
  repeat' split
  all_goals simp

@[simp] theorem runTicket_tick (i : Issue) (b : TicketBody) (p : Nat) (pass : Option PassRef) (id : Nat) :
    (runTicket i b p pass id s).1.tick = s.tick := by simp [runTicket]

@[simp] theorem State.seekLoop_tick (f p : Nat) (l : TicketLoop) (k : Nat) : (s.seekLoop f p l k).tick = s.tick := by
  unfold State.seekLoop
  split <;> simp

@[simp] theorem State.leaveLoop_tick (f p : Nat) (l : TicketLoop) : (s.leaveLoop f p l).tick = s.tick := by
  unfold State.leaveLoop
  dsimp only
  split <;> simp

@[simp] theorem State.replyArrives_tick (f : Nat) : (s.replyArrives f).tick = s.tick := by
  unfold State.replyArrives
  dsimp only
  repeat' split
  all_goals simp

@[simp] theorem State.retryClaim_tick (f : Nat) : (s.retryClaim f).tick = s.tick := by
  unfold State.retryClaim
  repeat' split
  all_goals simp

@[simp] theorem State.logCompletion_tick (p f : Nat) (a : Pass) : (s.logCompletion p f a).tick = s.tick := by
  unfold State.logCompletion
  grind only [State.count64_tick, State.recordRead_tick, State.raiseStop_tick, State.postRecord_tick, State.count32_tick,
    State.ledTake_tick, State.recordWrite_tick]

@[simp] theorem State.passCompletes_tick (f : Nat) : (s.passCompletes f).tick = s.tick := by
  unfold State.passCompletes
  dsimp only
  repeat' split
  all_goals simp

@[simp] theorem State.serveAtomic_tick (a : AtomicReq) : (s.serveAtomic a).tick = s.tick := by
  unfold State.serveAtomic
  split <;> simp

@[simp] theorem State.atomicArrives_tick (a : AtomicReq) (same : List AtomicReq) :
    (s.atomicArrives a same).tick = s.tick := by
  unfold State.atomicArrives
  grind only [State.serveAtomic_tick, foldl_tick]

@[simp] theorem runTickWait_tick (i : Issue) (tick p : Nat) (pass : Option PassRef) (id : Nat) :
    (runTickWait i tick p pass id s).1.tick = s.tick := by
  unfold runTickWait
  split <;> simp

@[simp] theorem State.tickWaitDone_tick (f : Nat) (q : SeqSel) : (s.tickWaitDone f q).tick = s.tick := by
  unfold State.tickWaitDone
  repeat' split
  all_goals simp

/-! ### The Rhizoid -/

@[simp] theorem State.raiseIndex_tick (p cls index desc : Nat) (t : TileFail) :
    (s.raiseIndex p cls index desc t).tick = s.tick := by simp [State.raiseIndex]

@[simp] theorem runGather_tick (i : Issue) (b : GatherBody) (p : Nat) (pass : Option PassRef) (id : Nat) :
    (runGather i b p pass id s).1.tick = s.tick := by
  unfold runGather
  grind only [State.countStalls_tick, State.bufFault_tick, State.raiseIndex_tick, State.modFrond_tick]

@[simp] theorem State.loadTile_tick (f served : Nat) (bytes : List Byte) (gen load : Nat) :
    (s.loadTile f served bytes gen load).tick = s.tick := rfl

@[simp] theorem State.fillQueues_tick (f : Nat) (lanes : List Lane) : (s.fillQueues f lanes).tick = s.tick := rfl

@[simp] theorem State.drainQueues_tick (f id : Nat) : (s.drainQueues f id).tick = s.tick := rfl

@[simp] theorem State.countServes_tick (f serves fires defers : Nat) :
    (s.countServes f serves fires defers).tick = s.tick := rfl

theorem State.headerStop_tick {p : Nat} {i : Issue} {addr : Nat} {fmtOk : Nat → Bool}
    (h : s.headerStop p i addr fmtOk = some u) : u.tick = s.tick := by
  obtain h | h := eq_some_of_orElse h
  · exact State.bufFault_tick _ h
  · obtain ⟨e, -, rfl⟩ := Option.map_eq_some_iff.1 h
    exact State.raiseIndex_tick ..

@[simp] theorem runSparse_tick (i : Issue) (b : SparseBody) (p : Nat) (pass : Option PassRef) (id : Nat) :
    (runSparse i b p pass id s).1.tick = s.tick := by
  unfold runSparse
  grind only [State.countStalls_tick, State.headerStop_tick, State.bufFault_tick, State.storeFault_tick,
    State.loadTile_tick, State.raiseIndex_tick, State.descFault_tick, State.putAcc_tick, State.fillQueues_tick,
    State.count32_tick, State.countServes_tick, State.modFrond_tick, State.residue_tick, → eq_some_of_orElse]

@[simp] theorem runSampled_tick (i : Issue) (b : SampledBody) (p : Nat) (pass : Option PassRef) (id : Nat) :
    (runSampled i b p pass id s).1.tick = s.tick := by
  unfold runSampled
  grind only [State.countStalls_tick, State.headerStop_tick, State.bufFault_tick, State.loadTile_tick,
    State.raiseIndex_tick, State.bufPutFor_tick, State.fillQueues_tick, State.modFrond_tick, State.residue_tick,
    State.countServes_tick, → eq_some_of_orElse, foldl_tick]

/-! ### Masks -/

@[simp] theorem State.readTiles_tick (p u desc : Nat) (m : MaskSlot) (more : Nat → Nat → List Nat) (x y : Nat) :
    (s.readTiles p u desc m more x y).1.tick = s.tick := by
  induction y generalizing s x with
  | zero => rfl
  | succ n ih =>
    unfold State.readTiles
    grind only [State.readFor_tick, State.raiseIndex_tick]

@[simp] theorem State.writeEdits_tick (p : Nat) (m : MaskSlot) (tiles edits : Nat) :
    (s.writeEdits p m tiles edits).tick = s.tick := by
  unfold State.writeEdits
  split <;> simp

@[simp] theorem runPrune_tick (i : Issue) (b : PruneBody) (p : Nat) (pass : Option PassRef) (id : Nat) :
    (runPrune i b p pass id s).1.tick = s.tick := by
  unfold runPrune
  grind only [State.setSlot_tick, State.readTiles_tick, State.readFor_tick, State.setLedger_tick, State.count32_tick,
    State.count64_tick, State.writeEdits_tick, foldl_tick]

@[simp] theorem runRegrow_tick (i : Issue) (b : RegrowBody) (p : Nat) (pass : Option PassRef) (id : Nat) :
    (runRegrow i b p pass id s).1.tick = s.tick := by
  unfold runRegrow
  grind only [State.setSlot_tick, State.readTiles_tick, State.readFor_tick, State.setLedger_tick, State.count32_tick,
    State.count64_tick, State.writeEdits_tick, foldl_tick]

@[simp] theorem State.writeRegion_tick (p cls u desc : Nat) (cells : List (Nat × Byte)) :
    (s.writeRegion p cls u desc cells).1.tick = s.tick := by
  unfold State.writeRegion
  dsimp only
  split <;> simp

@[simp] theorem State.commitTile_tick (p k u : Nat) (m : MaskSlot) (i : Issue) (b : CommitBody) (x : TileRead) :
    (s.commitTile p k u m i b x).1.tick = s.tick := by
  unfold State.commitTile
  grind only [State.count32_tick, State.count64_tick, State.setSlot_tick, State.writeRegion_tick]

@[simp] theorem State.commitTiles_tick (p k u : Nat) (m : MaskSlot) (i : Issue) (b : CommitBody) (x : List TileRead) :
    (s.commitTiles p k u m i b x).1.tick = s.tick := by
  induction x generalizing s with
  | nil => rfl
  | cons t ts ih =>
    unfold State.commitTiles
    grind only [State.commitTile_tick]

@[simp] theorem runCommit_tick (i : Issue) (b : CommitBody) (p : Nat) (pass : Option PassRef) (id : Nat) :
    (runCommit i b p pass id s).1.tick = s.tick := by
  unfold runCommit
  grind only [State.setSlot_tick, State.readTiles_tick, State.descFault_tick, State.readFor_tick, State.count64_tick,
    State.commitTiles_tick, State.setLedger_tick]

@[simp] theorem State.modSlots_tick (p : Nat) (g : MaskSlot → MaskSlot) : (s.modSlots p g).tick = s.tick := rfl

@[simp] theorem State.discardBuilds_tick (p : Nat) : (s.discardBuilds p).tick = s.tick := rfl

@[simp] theorem State.restartMaskLedgers_tick (p : Nat) : (s.restartMaskLedgers p).tick = s.tick := by
  unfold State.restartMaskLedgers
  grind only [State.setLedger_tick, State.setSlot_tick, foldl_tick]

/-! ### Updates -/

@[simp] theorem State.readTileU_tick (p k : Nat) (m : MaskSlot) (i : Issue) (b : UpdateBody) (t : Nat) :
    (s.readTileU p k m i b t).1.tick = s.tick := by
  unfold State.readTileU
  -- the tile stays a variable: the kernel compares the branches without computing its checks
  obtain ⟨x, hx⟩ : ∃ x, s.tileU p k m b t = x := ⟨_, rfl⟩
  rw [hx]
  grind only [State.readFor_tick]

@[simp] theorem State.readDense_tick (p shard : Nat) (i : Issue) (b : UpdateBody) :
    (s.readDense p shard i b).1.tick = s.tick := by
  unfold State.readDense
  grind only [State.readFor_tick]

@[simp] theorem State.markDirty_tick (p : Nat) (policy : Option Nat) (as : List Nat) :
    (s.markDirty p policy as).tick = s.tick := by
  unfold State.markDirty
  split <;> simp

@[simp] theorem State.countUpdate_tick (u : Nat) (c : UCount) : (s.countUpdate u c).tick = s.tick := rfl

@[simp] theorem State.writeTile_tick (p k u : Nat) (m : MaskSlot) (desc : Nat) (alt : Bool) (x : UTile)
    (cells : List (Nat × Byte)) : (s.writeTile p k u m desc alt x cells).1.tick = s.tick := by
  unfold State.writeTile
  dsimp only
  repeat' split
  all_goals simp

@[simp] theorem State.updateTiles_tick (p k : Nat) (m : MaskSlot) (i : Issue) (b : UpdateBody) (uc : UConst)
    (stat : UPos → FactStat) (alt : Bool) (x : List Nat) : (s.updateTiles p k m i b uc stat alt x).1.tick = s.tick := by
  induction x generalizing s with
  | nil => rfl
  | cons t ts ih =>
    unfold State.updateTiles
    grind only [State.readTileU_tick, State.raiseIndex_tick, State.writeTile_tick, State.countUpdate_tick]

@[simp] theorem State.rescaleTiles_tick (p k : Nat) (m : MaskSlot) (i : Issue) (b : UpdateBody) (alt : Bool)
    (x : List (UTile × UAcc)) : (s.rescaleTiles p k m i b alt x).1.tick = s.tick := by
  induction x generalizing s with
  | nil => rfl
  | cons t ts ih =>
    unfold State.rescaleTiles
    grind only [State.writeRegion_tick, State.writeFor_tick, State.countUpdate_tick]

@[simp] theorem State.sumTiles_tick (p k : Nat) (m : MaskSlot) (i : Issue) (b : UpdateBody) (x : List Nat) :
    (s.sumTiles p k m i b x).1.tick = s.tick := by
  induction x generalizing s with
  | nil => rfl
  | cons t ts ih =>
    unfold State.sumTiles
    grind only [State.readTileU_tick, State.raiseIndex_tick]

@[simp] theorem State.checkTiles_tick (p k : Nat) (m : MaskSlot) (i : Issue) (b : UpdateBody) (x : List Nat) :
    (s.checkTiles p k m i b x).1.tick = s.tick := by
  induction x generalizing s with
  | nil => rfl
  | cons t ts ih =>
    unfold State.checkTiles
    grind only [State.readTileU_tick, State.raiseIndex_tick]

@[simp] theorem State.setTorn_tick (p : Nat) (i : Issue) (b : UpdateBody) (shard : Nat) (v : Bool) :
    (s.setTorn p i b shard v).1.tick = s.tick := by simp [State.setTorn]

@[simp] theorem State.factStep_tick (p : Nat) (i : Issue) (b : UpdateBody) (uc : UConst) (shard nr nc : Nat) :
    (s.factStep p i b uc shard nr nc).1.tick = s.tick := by
  unfold State.factStep
  grind only [State.readFor_tick, State.writeFor_tick]

@[simp] theorem State.runSums_tick (p : Nat) (i : Issue) (b : UpdateBody) (uc : UConst) (shard : Nat) :
    (s.runSums p i b uc shard).1.tick = s.tick := by
  unfold State.runSums
  grind only [State.count64_tick, State.writeFor_tick, State.readDense_tick, State.sumTiles_tick]

@[simp] theorem State.runDenseApply_tick (p : Nat) (i : Issue) (b : UpdateBody) (uc : UConst) (shard : Nat) :
    (s.runDenseApply p i b uc shard).1.tick = s.tick := by
  unfold State.runDenseApply
  grind only [State.factStep_tick, State.readDense_tick, State.writeFor_tick, State.count64_tick, State.countUpdate_tick,
    State.markDirty_tick, foldl_tick]

@[simp] theorem State.runMaskedApply_tick (p : Nat) (i : Issue) (b : UpdateBody) (uc : UConst) (shard : Nat) :
    (s.runMaskedApply p i b uc shard).1.tick = s.tick := by
  unfold State.runMaskedApply
  grind only [State.checkTiles_tick, State.factStep_tick, State.updateTiles_tick, State.markDirty_tick, State.count64_tick,
    State.rescaleTiles_tick]

@[simp] theorem State.withheld_tick (p : Nat) (i : Issue) (b : UpdateBody) (v : Verdict) (pair : Nat × Nat) :
    (s.withheld p i b v pair).1.tick = s.tick := by
  unfold State.withheld
  split <;> simp

@[simp] theorem runUpdate_tick (i : Issue) (b : UpdateBody) (p : Nat) (pass : Option PassRef) (id : Nat) :
    (runUpdate i b p pass id s).1.tick = s.tick := by
  unfold runUpdate
  grind only [State.count64_tick, State.readFor_tick, State.withheld_tick, State.runSums_tick, State.setTorn_tick,
    State.runDenseApply_tick, State.runMaskedApply_tick]

@[simp] theorem State.closeStep_tick (p u desc : Nat) (b : UpdateBody) (v : Verdict) :
    (s.closeStep p u desc b v).tick = s.tick := by
  unfold State.closeStep
  grind only [State.readFor_tick, State.writeFor_tick, State.postRecord_tick, State.markDirty_tick]

/-! ### Stops, recovery and resets of units -/

@[simp] theorem State.abandonFrond_tick (f : Nat) : (s.abandonFrond f).tick = s.tick := rfl

@[simp] theorem State.abandon_tick (p : Nat) : (s.abandon p).tick = s.tick := by
  unfold State.abandon
  grind only [State.discardBuilds_tick, State.abandonFrond_tick, foldl_tick]

@[simp] theorem State.stopFeed_tick (p : Nat) : (s.stopFeed p).tick = s.tick := by
  unfold State.stopFeed
  split <;> simp

@[simp] theorem State.restartLedgers_tick (p : Nat) : (s.restartLedgers p).tick = s.tick := by simp [State.restartLedgers]

@[simp] theorem State.bumpEpoch_tick (p : Nat) (atEdge : Bool) : (s.bumpEpoch p atEdge).tick = s.tick := by
  unfold State.bumpEpoch
  split <;> simp

@[simp] theorem State.clearFrond_tick (f : Nat) : (s.clearFrond f).tick = s.tick := by simp [State.clearFrond]

@[simp] theorem State.dropShadows_tick (p : Nat) : (s.dropShadows p).tick = s.tick := rfl

@[simp] theorem State.freshStreams_tick (p : Nat) : (s.freshStreams p).tick = s.tick := by
  unfold State.freshStreams
  grind only [State.modLedger_tick, State.setStream_tick, foldl_tick]

@[simp] theorem State.resetPlain_tick (p f : Nat) : (s.resetPlain p f).tick = s.tick := by
  unfold State.resetPlain
  grind only [State.ledTake_tick, State.modFrond_tick, foldl_tick]

@[simp] theorem State.resetTicket_tick (p a : Nat) : (s.resetTicket p a).tick = s.tick := by simp [State.resetTicket]

@[simp] theorem State.partitionReset_tick (p : Nat) : (s.partitionReset p).tick = s.tick := by
  unfold State.partitionReset
  grind only [State.setStream_tick, State.dropShadows_tick, State.resetTicket_tick, State.modFrond_tick, foldl_tick]

@[simp] theorem State.setMeas_tick (i : Nat) (v : BitVec 384) : (s.setMeas i v).tick = s.tick := rfl

@[simp] theorem State.freeWheels_tick (pl : Plan) : (s.freeWheels pl).tick = s.tick := rfl

@[simp] theorem State.unloadPlan_tick (p : Nat) : (s.unloadPlan p).tick = s.tick := by
  unfold State.unloadPlan
  grind only [State.freeWheels_tick, State.modFrond_tick, State.setMeas_tick, State.modPart_tick, foldl_tick]

@[simp] theorem State.fwRead_tick (a n : Nat) : (s.fwRead a n).state.tick = s.tick := by simp [State.fwRead]

@[simp] theorem State.fwWrite_tick (a : Nat) (bs : List Byte) :
    (s.fwWrite a bs).state.tick = s.tick := by simp [State.fwWrite]

@[simp] theorem State.commandUnc_tick (p : Option Nat) (bad : Nat × Nat) :
    (s.commandUnc p bad).tick = s.tick := by simp [State.commandUnc]

@[simp] theorem State.cmdFaulted_tick (p : Option Nat) (m : Nat) (bad : Nat × Nat) :
    (s.cmdFaulted p m bad).tick = s.tick := by simp [State.cmdFaulted]

@[simp] theorem State.writeResume_tick (p kind : Nat) : (s.writeResume p kind).tick = s.tick := by
  unfold State.writeResume
  dsimp only
  repeat' split
  all_goals simp

@[simp] theorem State.answerStop_tick (p m : Nat) (result : List Byte) : (s.answerStop p m result).tick = s.tick := by
  unfold State.answerStop
  split <;> simp

@[simp] theorem State.preemptDone_tick (p : Nat) : (s.preemptDone p).tick = s.tick := by
  unfold State.preemptDone
  dsimp only
  repeat' split
  all_goals simp

@[simp] theorem State.teardown_tick (p : Nat) : (s.teardown p).tick = s.tick := by
  unfold State.teardown
  grind only [State.bumpEpoch_tick, State.abandon_tick, State.modFrond_tick, State.clearFrond_tick, State.setMeas_tick,
    State.dropShadows_tick, State.unloadPlan_tick, State.setPart_tick, foldl_tick]

@[simp] theorem State.destroyNow_tick (p m : Nat) : (s.destroyNow p m).tick = s.tick := by
  unfold State.destroyNow
  grind only [State.ok_tick, State.teardown_tick, State.notAllowed_tick, foldl_tick]

@[simp] theorem State.destroyOrHold_tick (p m : Nat) : (s.destroyOrHold p m).tick = s.tick := by
  unfold State.destroyOrHold
  split <;> simp

@[simp] theorem State.stopDone_tick (p : Nat) : (s.stopDone p).tick = s.tick := by
  unfold State.stopDone
  dsimp only
  repeat' split
  all_goals simp

@[simp] theorem State.release_tick (p : Nat) : (s.release p).tick = s.tick := by
  unfold State.release
  dsimp only
  split <;> simp

@[simp] theorem State.epochEdge_tick (p : Nat) : (s.epochEdge p).tick = s.tick := by
  unfold State.epochEdge
  dsimp only
  repeat' split
  all_goals simp

@[simp] theorem State.dropHold_tick (p : Nat) : (s.dropHold p).tick = s.tick := by
  unfold State.dropHold
  split <;> simp

@[simp] theorem State.faultNow_tick (p : Nat) : (s.faultNow p).tick = s.tick := by simp [State.faultNow]

@[simp] theorem State.partitionStop_tick (p : Nat) : (s.partitionStop p).tick = s.tick := by
  unfold State.partitionStop
  grind only [State.retireRepeated_tick, State.faultNow_tick, foldl_tick]

@[simp] theorem State.fenceComplete_tick (p : Nat) : (s.fenceComplete p).tick = s.tick := by
  unfold State.fenceComplete
  dsimp only
  repeat' split
  all_goals simp

@[simp] theorem State.recoveryReady_tick (p : Nat) : (s.recoveryReady p).tick = s.tick := by
  unfold State.recoveryReady
  grind only [State.clearFrond_tick, State.unloadPlan_tick, State.modPart_tick, foldl_tick]

@[simp] theorem State.epochHoldExpires_tick (p : Nat) : (s.epochHoldExpires p).tick = s.tick := by
  unfold State.epochHoldExpires
  dsimp only
  repeat' split
  all_goals simp

@[simp] theorem State.resetHalf_tick (h : Nat) : (s.resetHalf h).tick = s.tick := by
  unfold State.resetHalf
  grind only [State.setFrond_tick, State.clearFrond_tick, foldl_tick]

@[simp] theorem State.halfReset_tick (h : Nat) : (s.halfReset h).tick = s.tick := by
  unfold State.halfReset
  grind only [State.partitionStop_tick, State.raiseStop_tick, State.resetHalf_tick, foldl_tick]

@[simp] theorem State.noReset_tick (cls index : Nat) : (s.noReset cls index).tick = s.tick := rfl

@[simp] theorem State.beginSweep_tick (cls index : Nat) : (s.beginSweep cls index).tick = s.tick := by
  unfold State.beginSweep
  split <;> simp

@[simp] theorem State.sweepEnds_tick (f : Nat) : (s.sweepEnds f).tick = s.tick := by
  unfold State.sweepEnds
  dsimp only
  split <;> simp

@[simp] theorem State.sweepResult_tick (cls index : Nat) (pass : Bool) (group : Nat) :
    (s.sweepResult cls index pass group).tick = s.tick := by
  unfold State.sweepResult
  grind only [State.raiseReport_tick, State.sweepEnds_tick, State.count32_tick, State.setReg_tick, State.retireFrond_tick,
    foldl_tick]

/-! ### The Spore stream -/

@[simp] theorem State.sporeTake_tick (is : List SporeItem) : (s.sporeTake is).tick = s.tick := by
  unfold State.sporeTake
  grind only [State.ledTake_tick, foldl_tick]

@[simp] theorem State.sporeDrop_tick (is : List SporeItem) : (s.sporeDrop is).tick = s.tick := by simp [State.sporeDrop]

@[simp] theorem State.closePacket_tick (truncated : Bool) : (s.closePacket truncated).tick = s.tick := by
  unfold State.closePacket
  dsimp only
  repeat' split
  all_goals simp

@[simp] theorem State.sporeSpace_tick : s.sporeSpace.tick = s.tick := by
  unfold State.sporeSpace
  repeat' split
  all_goals simp

@[simp] theorem State.sporeAppend_tick (o : OutPacket) (i : Item) (head : Bool) :
    (s.sporeAppend o i head).tick = s.tick := by
  unfold State.sporeAppend
  dsimp only
  repeat' split
  all_goals simp

@[simp] theorem State.setOut_tick (o o' : OutPacket) : (s.setOut o o').tick = s.tick := rfl

@[simp] theorem State.sporeArrive_tick (cls index : Nat) : (s.sporeArrive cls index).tick = s.tick := by
  unfold State.sporeArrive
  repeat' split
  all_goals simp

@[simp] theorem State.sporeTimeout_tick : s.sporeTimeout.tick = s.tick := by
  unfold State.sporeTimeout
  repeat' split
  all_goals simp

@[simp] theorem State.sporePop_tick : s.sporePop.tick = s.tick := by simp [State.sporePop]

/-! ### The host's paths -/

@[simp] theorem State.hostUnc_tick (bad : Nat × Nat) : (s.hostUnc bad).tick = s.tick := by simp [State.hostUnc]

@[simp] theorem State.hostSlots_tick (write : Bool) (as : List Nat) (slots : HostSlots) :
    (s.hostSlots write as slots).tick = s.tick := by
  unfold State.hostSlots
  grind only [State.count64_tick, State.countFlag_tick, foldl_tick]

@[simp] theorem State.hostRead_tick (a n : Nat) : (s.hostRead a n).tick = s.tick := by
  unfold State.hostRead
  grind only [State.readPhys_tick, State.hostUnc_tick, foldl_tick]

@[simp] theorem State.hostWrite_tick (a : Nat) (data : List Byte) (mask : List Bool) :
    (s.hostWrite a data mask).tick = s.tick := by
  unfold State.hostWrite
  grind only [State.writePhys_tick, State.hostUnc_tick, foldl_tick]

@[simp] theorem State.writeHost_tick (a : Nat) (bs : List Byte) : (s.writeHost a bs).tick = s.tick := rfl

@[simp] theorem State.startFeed_tick (p : Nat) : (s.startFeed p).tick = s.tick := by
  unfold State.startFeed
  dsimp only
  split <;> simp

@[simp] theorem State.feedReturn_tick (p line : Nat) (error : Bool) : (s.feedReturn p line error).tick = s.tick := by
  unfold State.feedReturn
  repeat' split
  all_goals simp

/-! ### Hyphae, banks and memory controllers -/

@[simp] theorem State.reqUnc_tick (r : StoreReq) (bad : Nat × Nat) : (s.reqUnc r bad).tick = s.tick := by
  unfold State.reqUnc
  split <;> simp

@[simp] theorem State.reqOverflow_tick (r : StoreReq) (a : Nat) : (s.reqOverflow r a).tick = s.tick := by
  unfold State.reqOverflow
  split <;> simp

@[simp] theorem State.replyWith_tick (r : StoreReq) (bs : List Byte) (bad : Bool) :
    (s.replyWith r bs bad).tick = s.tick := rfl

@[simp] theorem State.landFlip_tick (r : StoreReq) (f : Nat × BitVec 40) : (s.landFlip r f).tick = s.tick := by
  unfold State.landFlip
  dsimp only
  repeat' split
  all_goals simp

@[simp] theorem State.serve_tick (r : StoreReq) (n : Nat) : (s.serve r n).tick = s.tick := by
  unfold State.serve
  grind only [State.dropStale_tick, State.reqOverflow_tick, State.writePhys_tick, State.reqUnc_tick, State.landFlip_tick,
    State.readPhys_tick, State.replyWith_tick, foldl_tick]

@[simp] theorem State.takePacket_tick (p : HyphalPkt) : (s.takePacket p).tick = s.tick := rfl

@[simp] theorem State.enqueue_tick (r : StoreReq) : (s.enqueue r).tick = s.tick := by
  unfold State.enqueue
  repeat' split
  all_goals simp

@[simp] theorem State.hyphal_tick (p : HyphalPkt) : (s.hyphal p).tick = s.tick := by
  unfold State.hyphal
  dsimp only
  repeat' split
  all_goals simp

@[simp] theorem State.setScrubbed_tick (k n : Nat) : (s.setScrubbed k n).tick = s.tick := rfl

@[simp] theorem State.scrubUnit_tick (u : Nat) (rep : DeviceReport) : (s.scrubUnit u rep).tick = s.tick := by
  unfold State.scrubUnit
  dsimp only
  repeat' split
  all_goals simp

@[simp] theorem State.idlePort_tick (bank : Nat) (write : Bool) (rep : DeviceReport) :
    (s.idlePort bank write rep).tick = s.tick := by
  unfold State.idlePort
  dsimp only
  split
  · split
    · exact (State.writeBack_tick ..).trans (State.writeBack_tick ..)
    · rfl
  · split
    · rw [State.setScrubbed_tick, State.scrubUnit_tick, State.scrubUnit_tick, State.flipWords_tick, State.count64_tick]
    · rw [State.count32_tick, State.setScrubbed_tick, State.scrubUnit_tick, State.scrubUnit_tick, State.flipWords_tick,
        State.count64_tick]

@[simp] theorem State.putLine_tick (l : LineWas) : (s.putLine l).tick = s.tick := rfl

@[simp] theorem State.moveLine_tick (bank cycle : Nat) (r : StoreReq) : (s.moveLine bank cycle r).tick = s.tick := by
  unfold State.moveLine
  dsimp only
  repeat' split
  all_goals simp

@[simp] theorem State.servePort_tick (bank : Nat) (write : Bool) (cycle : Nat) (rep : DeviceReport) :
    (s.servePort bank write cycle rep).tick = s.tick := by
  unfold State.servePort
  dsimp only
  repeat' split
  all_goals simp

@[simp] theorem State.deviceFault_tick (r : StoreReq) (u k : Nat) :
    (s.deviceFault r u k).tick = s.tick := by simp [State.deviceFault]

@[simp] theorem State.accessUnit_tick (r : StoreReq) (u : Nat) (rep : DeviceReport) :
    (s.accessUnit r u rep).tick = s.tick := by
  unfold State.accessUnit
  dsimp only
  repeat' split
  all_goals simp

@[simp] theorem State.memAccess_tick (r : StoreReq) (rep : DeviceReport) : (s.memAccess r rep).tick = s.tick := by
  unfold State.memAccess
  repeat' split
  all_goals simp

@[simp] theorem State.patrol_tick (cls index : Nat) (rep : DeviceReport) : (s.patrol cls index rep).tick = s.tick := by
  unfold State.patrol
  dsimp only
  repeat' split
  all_goals simp

@[simp] theorem State.fillMemory_tick (lo n : Nat) : (s.fillMemory lo n).tick = s.tick := rfl

@[simp] theorem State.setMemState_tick (c v : Nat) : (s.setMemState c v).tick = s.tick := rfl

@[simp] theorem State.noteReady_tick : s.noteReady.tick = s.tick := rfl

@[simp] theorem State.bringUp_tick (cls index : Nat) (t : Training) : (s.bringUp cls index t).tick = s.tick := by
  unfold State.bringUp
  dsimp only
  repeat' split
  all_goals simp

/-! ### Copies -/

@[simp] theorem State.noteReads_tick (p : Nat) (x : CopySide) (runs : List (Nat × Nat)) :
    (s.noteReads p x runs).tick = s.tick := by
  unfold State.noteReads
  grind only [State.readPhys_tick, foldl_tick]

@[simp] theorem State.noteUnits_tick (p : Nat) (cells : List (Nat × Byte)) : (s.noteUnits p cells).tick = s.tick := by
  unfold State.noteUnits
  grind only [State.ledTake_tick, State.ledMake_tick, foldl_tick]

@[simp] theorem State.writeSide_tick (p f desc : Nat) (x : CopySide) (cells : List (Nat × Byte)) :
    (s.writeSide p f desc x cells).1.tick = s.tick := by
  unfold State.writeSide
  split <;> simp

@[simp] theorem State.useRegulator_tick (f : Nat) (requests gaps : List Nat) :
    (s.useRegulator f requests gaps).tick = s.tick := rfl

@[simp] theorem State.raiseRead_tick (p f desc : Nat) (x : ReadBad) : (s.raiseRead p f desc x).tick = s.tick := by
  unfold State.raiseRead
  split <;> simp

@[simp] theorem State.moveData_tick (p : Nat) (i : Issue) (b : MoveBody) (h : CopyShape) (src dst : CopySide) :
    (s.moveData p i b h src dst).1.tick = s.tick := by
  unfold State.moveData
  grind only [State.count64_tick, State.countStalls_tick, State.count32_tick, State.freeNat_tick, State.useRegulator_tick,
    State.writeSide_tick, State.raiseRead_tick, State.noteReads_tick, foldl_tick]

@[simp] theorem runMove_tick (i : Issue) (b : MoveBody) (p : Nat) (pass : Option PassRef) (id : Nat) :
    (runMove i b p pass id s).1.tick = s.tick := by
  unfold runMove
  grind only [State.storeFault_tick, State.descFault_tick, State.raiseOverflow_tick, State.moveData_tick]

@[simp] theorem State.takeCredits_tick (p : Nat) (ns : List Nat) : (s.takeCredits p ns).tick = s.tick := by
  unfold State.takeCredits
  grind only [State.ledTake_tick, State.setStream_tick, foldl_tick]

@[simp] theorem State.multicastRead_tick (p f desc a n : Nat) : (s.multicastRead p f desc a n).1.tick = s.tick := by
  unfold State.multicastRead
  dsimp only
  repeat' split
  all_goals simp

@[simp] theorem State.multicastData_tick (p : Nat) (i : Issue) (b : MulticastBody) :
    (s.multicastData p i b).1.tick = s.tick := by
  unfold State.multicastData
  dsimp only
  split
  next h => grind only [State.multicastRead_tick, State.countStalls_tick, State.useRegulator_tick]
  next v bytes poisoned h =>
    have hv : v.tick = s.tick := by
      grind only [State.multicastRead_tick, State.countStalls_tick, State.useRegulator_tick]
    refine (foldl_tick_of Prod.fst _ (fun a d => ?_) _ _).trans hv
    split
    · rfl
    · grind only [State.bufPutFor_tick, foldl_tick, State.poisonBuf_tick]

@[simp] theorem runMulticast_tick (i : Issue) (b : MulticastBody) (p : Nat) (pass : Option PassRef) (id : Nat) :
    (runMulticast i b p pass id s).1.tick = s.tick := by
  unfold runMulticast
  grind only [State.takeCredits_tick, State.multicastData_tick]

@[simp] theorem skipMulticast_tick (i : Issue) (b : MulticastBody) (p : Nat) (pass : Option PassRef) (id : Nat) :
    (skipMulticast i b p pass id s).1.tick = s.tick := by
  unfold skipMulticast
  split <;> simp

/-! ### Pliund -/

@[simp] theorem State.launch_tick (i : Nat) (pk : Packet) (job : Option (Nat × Nat)) :
    (s.launch i pk job).tick = s.tick := by
  unfold State.launch
  dsimp only
  split <;> simp

@[simp] theorem State.frameOut_tick (i : Nat) (pk : Packet) (job : Option (Nat × Nat)) :
    (s.frameOut i pk job).tick = s.tick := by
  unfold State.frameOut
  dsimp only
  split <;> simp

@[simp] theorem State.pump_tick (i : Nat) : (s.pump i).tick = s.tick := by
  unfold State.pump
  grind only [State.launch_tick, State.setPort_tick, foldl_tick]

@[simp] theorem State.noRoute_tick (chip : Nat) : (s.noRoute chip).tick = s.tick := by
  unfold State.noRoute
  split <;> simp

@[simp] theorem State.sendPacket_tick (pk : Packet) (job : Option (Nat × Nat)) : (s.sendPacket pk job).tick = s.tick := by
  unfold State.sendPacket
  repeat' split
  all_goals simp

@[simp] theorem State.fillLost_tick : s.fillLost.tick = s.tick := by
  unfold State.fillLost
  dsimp only
  repeat' split
  all_goals simp

@[simp] theorem State.portDown_tick (i cause : Nat) : (s.portDown i cause).tick = s.tick := by
  unfold State.portDown
  grind only [State.modPort_tick, State.setBit_tick, State.sendPacket_tick, State.fillLost_tick, State.setGlobalFault_tick,
    State.raiseReport_tick, foldl_tick]

@[simp] theorem State.writeEnable_tick (i : Nat) (on : Bool) : (s.writeEnable i on).tick = s.tick := by
  unfold State.writeEnable
  dsimp only
  repeat' split
  all_goals simp

@[simp] theorem State.setJob_tick (f id : Nat) (b : JobBody) : (s.setJob f id b).tick = s.tick := rfl

@[simp] theorem State.sendPartial_tick (p f id : Nat) (b : SendBody) (epoch : Nat) :
    (s.sendPartial p f id b epoch).tick = s.tick := by
  unfold State.sendPartial
  grind only [State.sendPacket_tick, foldl_tick]

@[simp] theorem State.trySend_tick (p f : Nat) (j : Job) (b : SendBody) : (s.trySend p f j b).tick = s.tick := by
  unfold State.trySend
  split
  · dsimp only
    split
    · simp
    · split
      next h => exact (State.bufFault_tick _ h :)
      next => simp
  · rfl
  · rfl

@[simp] theorem State.tryClear_tick (p f : Nat) (j : Job) (b : RecvBody) : (s.tryClear p f j b).tick = s.tick := by
  unfold State.tryClear
  split <;> simp

@[simp] theorem State.wakeCollectives_tick (p : Nat) : (s.wakeCollectives p).tick = s.tick := by
  unfold State.wakeCollectives
  grind only [State.trySend_tick, State.tryClear_tick, foldl_tick]

@[simp] theorem runSend_tick (b : SendBody) (p : Nat) (pass : Option PassRef) (id : Nat) :
    (runSend b p pass id s).1.tick = s.tick := rfl

@[simp] theorem runRecv_tick (b : RecvBody) (p : Nat) (pass : Option PassRef) (id : Nat) :
    (runRecv b p pass id s).1.tick = s.tick := rfl

@[simp] theorem State.reduceAdds_tick (p f desc : Nat) (b : RecvBody) (at_ n : Nat) :
    (s.reduceAdds p f desc b at_ n).tick = s.tick := by
  unfold State.reduceAdds
  grind only [State.bufFault_tick, State.bufPutFor_tick, foldl_tick]

@[simp] theorem State.landData_tick (p f : Nat) (j : Job) (b : RecvBody) (landed : List Nat) (h : Bool) (pk : Packet) :
    (s.landData p f j b landed h pk).tick = s.tick := by
  unfold State.landData
  grind only [State.descFault_tick, State.bufPutFor_tick, State.setJob_tick, State.reduceAdds_tick, foldl_tick]

@[simp] theorem State.landHealth_tick (p f : Nat) (j : Job) (b : RecvBody) (landed : List Nat) (pk : Packet) :
    (s.landHealth p f j b landed pk).tick = s.tick := by
  unfold State.landHealth
  grind only [State.bufFault_tick, State.bufPutFor_tick, State.setJob_tick]

@[simp] theorem State.dropPacket_tick (i : Nat) : (s.dropPacket i).tick = s.tick := rfl

@[simp] theorem State.countTaken_tick (i : Nat) (pk : Packet) : (s.countTaken i pk).tick = s.tick := rfl

@[simp] theorem State.announceTo_tick (p : Nat) (x : Peer) (answer : Bool) :
    (s.announceTo p x answer).tick = s.tick := by simp [State.announceTo]

@[simp] theorem State.announceAll_tick (p : Nat) : (s.announceAll p).tick = s.tick := by
  unfold State.announceAll
  grind only [State.announceTo_tick, foldl_tick]

@[simp] theorem State.learnId_tick (i : Nat) (pk : Packet) (chip : Nat) : (s.learnId i pk chip).tick = s.tick := by
  unfold State.learnId
  split <;> simp

@[simp] theorem State.announced_tick (i : Nat) (pk : Packet) : (s.announced i pk).tick = s.tick := by
  unfold State.announced
  dsimp only
  repeat' split
  all_goals simp

@[simp] theorem State.acknowledge_tick (i ack : Nat) : (s.acknowledge i ack).tick = s.tick := by
  unfold State.acknowledge
  grind only [State.pump_tick, State.ledTake_tick, State.modFrond_tick, State.modPort_tick, foldl_tick]

@[simp] theorem State.maybeResend_tick (i : Nat) : (s.maybeResend i).tick = s.tick := by
  unfold State.maybeResend
  dsimp only
  repeat' split
  all_goals simp

@[simp] theorem State.portUnc_tick (i : Nat) (p : Option Nat) : (s.portUnc i p).tick = s.tick := by
  unfold State.portUnc
  repeat' split
  all_goals simp

@[simp] theorem State.sentRechecks_tick (i : Nat) (bad : List Nat) : (s.sentRechecks i bad).tick = s.tick := by
  unfold State.sentRechecks
  grind only [State.portUnc_tick, foldl_tick]

@[simp] theorem State.deliver_tick (i : Nat) (pk : Packet) : (s.deliver i pk).tick = s.tick := by
  unfold State.deliver
  repeat' split
  all_goals simp

@[simp] theorem State.receiveFrame_tick (i : Nat) (f : PlnFrame) : (s.receiveFrame i f).tick = s.tick := by
  unfold State.receiveFrame
  dsimp only
  repeat' split
  all_goals simp

@[simp] theorem State.raisePeer_tick (f id : Nat) : (s.raisePeer f id).tick = s.tick := by
  unfold State.raisePeer
  repeat' split
  all_goals simp

@[simp] theorem State.sendBind_tick (i chip : Nat) (coFed : Bool) : (s.sendBind i chip coFed).tick = s.tick := by
  unfold State.sendBind
  split <;> simp

@[simp] theorem State.bindPair_tick (partner port1 port2 : Nat) (asked : Bool) (feed : Nat) :
    (s.bindPair partner port1 port2 asked feed).tick = s.tick := by
  unfold State.bindPair
  dsimp only
  split <;> simp

@[simp] theorem State.answerBind_tick (m feed : Nat) (feedResult : Bool) :
    (s.answerBind m feed feedResult).tick = s.tick := by
  unfold State.answerBind
  dsimp only
  split <;> simp

@[simp] theorem State.tryBind_tick : s.tryBind.tick = s.tick := by
  unfold State.tryBind
  repeat' split
  all_goals simp

@[simp] theorem State.takeBind_tick (i : Nat) (pk : Packet) : (s.takeBind i pk).tick = s.tick := by
  unfold State.takeBind
  dsimp only
  repeat' split
  all_goals simp

/-! ### Power and temperature -/

@[simp] theorem State.govern_tick : s.govern.tick = s.tick := by
  unfold State.govern
  dsimp only
  split <;> simp

@[simp] theorem State.estimate_tick (isTuft : Bool) (ix activity : Nat) : (s.estimate isTuft ix activity).tick = s.tick := by
  unfold State.estimate
  grind only [State.freeNat_tick, State.setBit_tick, State.count64_tick]

@[simp] theorem State.detect_tick (cause : Nat) : (s.detect cause).tick = s.tick := by
  unfold State.detect
  dsimp only
  repeat' split
  all_goals simp

@[simp] theorem State.beginHalving_tick : s.beginHalving.tick = s.tick := by
  unfold State.beginHalving
  split <;> simp

@[simp] theorem State.someTuft_tick (half : Nat) : (s.someTuft half).2.tick = s.tick := rfl

@[simp] theorem State.sample_tick (rail amps : Nat) (slew : Int) (meanW : Nat) :
    (s.sample rail amps slew meanW).tick = s.tick := by
  unfold State.sample
  repeat' split
  all_goals simp

@[simp] theorem State.senseTemp_tick (die tuft : Nat) (temp : Int) : (s.senseTemp die tuft temp).tick = s.tick := by
  unfold State.senseTemp
  repeat' split
  all_goals simp

@[simp] theorem State.trip_tick (die : Nat) (temp : Int) : (s.trip die temp).tick = s.tick := by
  unfold State.trip
  grind only [State.someTuft_tick, State.setGlobalFault_tick, State.postRecord_tick, State.markUnit_tick,
    State.raiseStop_tick, State.faultNow_tick, foldl_tick]

@[simp] theorem State.powerEdge_tick : s.powerEdge.tick = s.tick := rfl

@[simp] theorem State.powerConfig_tick (m : Nat) (t : Taken) : (s.powerConfig m t).tick = s.tick := by
  unfold State.powerConfig
  dsimp only
  repeat' split
  all_goals simp

@[simp] theorem State.applyPower_tick : s.applyPower.tick = s.tick := by
  unfold State.applyPower
  split <;> simp

/-! ### Register accesses -/

@[simp] theorem State.selectUnit_tick (v : Nat) : (s.selectUnit v).tick = s.tick := rfl

@[simp] theorem State.giveHost_tick (bs : List Byte) : (s.giveHost bs).tick = s.tick := rfl

@[simp] theorem State.readSpore_tick (off size : Nat) : (s.readSpore off size).tick = s.tick := by
  unfold State.readSpore
  split <;> simp

@[simp] theorem State.clearRc_tick (off inc : Nat) : (s.clearRc off inc).tick = s.tick := by
  unfold State.clearRc
  split <;> simp

@[simp] theorem State.writeWord_tick (cls i off v set : Nat) : (s.writeWord cls i off v set).tick = s.tick := by
  unfold State.writeWord
  dsimp only
  repeat' split
  all_goals simp

@[simp] theorem State.sendPending_tick : s.sendPending.tick = s.tick := by
  refine foldl_tick _ (fun s v => ?_) _ _
  split <;> rfl

@[simp] theorem State.writeBar0_tick (off v set : Nat) : (s.writeBar0 off v set).tick = s.tick := by
  unfold State.writeBar0
  repeat' split
  all_goals simp

@[simp] theorem State.hostWriteReg_tick (off size : Nat) (value hwSet : BitVec 512) :
    (s.hostWriteReg off size value hwSet).tick = s.tick := by
  unfold State.hostWriteReg
  grind only [State.areaWrite_tick, State.writeBar0_tick, foldl_tick]

/-! ### Dumps and counter reads -/

theorem State.dumpArgs_tick {m : Nat} {t : Taken} (h : s.dumpArgs m t = some u) : u.tick = s.tick := by
  unfold State.dumpArgs at h
  grind only [State.badArg_tick]

@[simp] theorem State.dump_tick (m : Nat) (t : Taken) : (s.dump m t).tick = s.tick := by
  unfold State.dump
  grind only [State.dumpArgs_tick, State.badArg_tick, State.fwWrite_tick, State.cmdFaulted_tick, State.ok_tick]

@[simp] theorem State.countersRead_tick (m : Nat) (t : Taken) : (s.countersRead m t).tick = s.tick := by
  unfold State.countersRead
  grind only [State.dumpArgs_tick, State.respond_tick, State.accept_tick, State.modPart_tick, foldl_tick]

@[simp] theorem State.takeHolds_tick : s.takeHolds.tick = s.tick := by
  unfold State.takeHolds
  grind only [State.setReg_tick, State.modPart_tick, foldl_tick]

@[simp] theorem State.countersDone_tick (m : Nat) (t : Taken) : (s.countersDone m t).tick = s.tick := by
  unfold State.countersDone
  grind only [State.fwWrite_tick, State.cmdFaulted_tick, State.ok_tick, State.modPart_tick, foldl_tick]

@[simp] theorem State.answerCounters_tick : s.answerCounters.tick = s.tick := by
  unfold State.answerCounters
  grind only [State.countersDone_tick, foldl_tick]

/-! ### Protection of training state -/

@[simp] theorem State.sendPage_tick (p at_ : Nat) (bs : List Byte) (bad : List Nat) :
    (s.sendPage p at_ bs bad).tick = s.tick := by
  unfold State.sendPage
  grind only [State.sendPacket_tick, foldl_tick]

@[simp] theorem State.sendTable_tick (p : Nat) : (s.sendTable p).tick = s.tick := by
  unfold State.sendTable
  grind only [State.sendPacket_tick, foldl_tick]

@[simp] theorem State.sendMapped_tick (p k : Nat) (pg : Nat × Nat) : (s.sendMapped p k pg).tick = s.tick := by
  unfold State.sendMapped
  dsimp only
  split <;> simp

@[simp] theorem State.mirrorSends_tick (p : Nat) : (s.mirrorSends p).tick = s.tick := by
  unfold State.mirrorSends
  grind only [State.sendMapped_tick, State.sendTable_tick, State.sendPacket_tick, State.modPart_tick, foldl_tick]

@[simp] theorem State.loseMirror_tick (p : Nat) : (s.loseMirror p).tick = s.tick := by
  unfold State.loseMirror
  dsimp only
  split <;> simp

@[simp] theorem State.setHeld_tick (h : Held) : (s.setHeld h).tick = s.tick := rfl

@[simp] theorem State.landMirror_tick (h : Held) (at_ : Nat) (bs : List Byte) (bad : List Nat) :
    (s.landMirror h at_ bs bad).tick = s.tick := by
  unfold State.landMirror
  split <;> simp

@[simp] theorem State.landSeal_tick (h : Held) (k n : Nat) (dirty : Bool) : (s.landSeal h k n dirty).tick = s.tick := by
  unfold State.landSeal
  dsimp only
  split <;> simp

@[simp] theorem State.sealAcked_tick (pk : Packet) : (s.sealAcked pk).tick = s.tick := by
  unfold State.sealAcked
  dsimp only
  split <;> simp

@[simp] theorem State.takeMirror_tick (i : Nat) (pk : Packet) : (s.takeMirror i pk).tick = s.tick := by
  unfold State.takeMirror
  dsimp only
  repeat' split
  all_goals simp

@[simp] theorem State.fillOut_tick (chip : Nat) (payload : List Byte) :
    (s.fillOut chip payload).tick = s.tick := by simp [State.fillOut]

@[simp] theorem State.fillRange_tick (chip part n src dst len : Nat) :
    (s.fillRange chip part n src dst len).tick = s.tick := by
  unfold State.fillRange
  grind only [State.sendPacket_tick, foldl_tick]

@[simp] theorem State.fillPartition_tick (chip n : Nat) (h : Held) : (s.fillPartition chip n h).tick = s.tick := by
  unfold State.fillPartition
  split
  · rfl
  · refine foldl_tick_of Prod.fst _ (fun a r => ?_) _ _
    grind only [State.fillRange_tick, State.fillOut_tick]

@[simp] theorem State.serveFill_tick (pk : Packet) : (s.serveFill pk).tick = s.tick := by
  unfold State.serveFill
  grind only [State.fillOut_tick, State.fillPartition_tick, foldl_tick]

@[simp] theorem State.endFill_tick : s.endFill.tick = s.tick := rfl

@[simp] theorem State.takeFilled_tick (mb : Nat) (pk : Packet) : (s.takeFilled mb pk).tick = s.tick := by
  unfold State.takeFilled
  grind only [State.carryPoison_tick, State.writePhys_tick, State.modPart_tick, State.setReg_tick, State.answerBind_tick,
    State.endFill_tick, State.notAllowed_tick, State.badArg_tick, foldl_tick]

@[simp] theorem State.imageWrite_tick (toHost : Bool) (a : Nat) (bs : List Byte) :
    (s.imageWrite toHost a bs).1.tick = s.tick := by
  unfold State.imageWrite
  split <;> simp

@[simp] theorem State.imagePoison_tick (toHost : Bool) (a : Nat) (bad : List Nat) :
    (s.imagePoison toHost a bad).tick = s.tick := by
  unfold State.imagePoison
  split <;> simp

@[simp] theorem State.drains_tick (p : Nat) : (s.drains p).tick = s.tick := by
  unfold State.drains
  grind only [State.modPart_tick, State.imagePoison_tick, State.imageWrite_tick, foldl_tick]

@[simp] theorem State.freeMark_tick : s.freeMark.2.tick = s.tick := rfl

@[simp] theorem State.completeSnapshot_tick (p : Nat) : (s.completeSnapshot p).tick = s.tick := by
  unfold State.completeSnapshot
  dsimp only
  repeat' split
  all_goals simp

@[simp] theorem State.beginDrain_tick (p n k : Nat) : (s.beginDrain p n k).tick = s.tick := rfl

@[simp] theorem State.snapshotTake_tick (p m : Nat) (t : Taken) : (s.snapshotTake p m t).tick = s.tick := by
  unfold State.snapshotTake
  dsimp only
  repeat' split
  all_goals simp [foldl_tick_of Prod.fst]

@[simp] theorem State.copyLost_tick (p ix : Nat) : (s.copyLost p ix).tick = s.tick := by simp [State.copyLost]

@[simp] theorem State.restoreCopies_tick (p step : Nat) (cs : List (Nat × List (Nat × List Byte))) :
    (s.restoreCopies p step cs).tick = s.tick := by
  unfold State.restoreCopies
  grind only [State.fwWrite_tick, State.modPart_tick, foldl_tick]

theorem State.checkCopies_tick {p m step : Nat} {has : Nat → Bool} (h : s.checkCopies p m step has = some u) :
    u.tick = s.tick := by
  unfold State.checkCopies at h
  grind only [State.answerFaulted_tick, State.modPart_tick, State.copyLost_tick]

@[simp] theorem State.hostFaulted_tick (p : Option Nat) (m : Nat) :
    (s.hostFaulted p m).tick = s.tick := by simp [State.hostFaulted]

@[simp] theorem State.askPartner_tick (p m step : Nat) : (s.askPartner p m step).tick = s.tick := by simp [State.askPartner]

@[simp] theorem State.snapshotRestore_tick (p m : Nat) (t : Taken) : (s.snapshotRestore p m t).tick = s.tick := by
  unfold State.snapshotRestore
  dsimp only
  repeat' split
  all_goals grind only [State.badArg_tick, State.askPartner_tick, State.hostFaulted_tick, State.cmdFaulted_tick,
    State.checkCopies_tick, State.ok_tick, State.modPart_tick, State.restoreCopies_tick]

@[simp] theorem State.serveRestore_tick (pk : Packet) : (s.serveRestore pk).tick = s.tick := by
  unfold State.serveRestore
  dsimp only
  split <;> simp [foldl_tick_of Prod.fst]

@[simp] theorem State.takeRestored_tick (r : Restore) (pk : Packet) : (s.takeRestored r pk).tick = s.tick := by
  unfold State.takeRestored
  dsimp only
  split
  · split
    next h => exact (State.checkCopies_tick _ h :)
    next => rfl
  · simp
  · simp
  · rfl

@[simp] theorem State.takeFill_tick (pk : Packet) : (s.takeFill pk).tick = s.tick := by
  unfold State.takeFill
  dsimp only
  repeat' split
  all_goals simp

@[simp] theorem State.mirrorConfig_tick (p m : Nat) (t : Taken) : (s.mirrorConfig p m t).tick = s.tick := by
  unfold State.mirrorConfig
  dsimp only
  repeat' split
  all_goals simp

@[simp] theorem State.mirrorOff_tick (p m : Nat) : (s.mirrorOff p m).tick = s.tick := by simp [State.mirrorOff]

@[simp] theorem State.pairBind_tick (m : Nat) (t : Taken) : (s.pairBind m t).tick = s.tick := by
  unfold State.pairBind
  dsimp only
  repeat' split
  all_goals simp

@[simp] theorem State.takeId_tick (chip : Nat) : (s.takeId chip).tick = s.tick := rfl

@[simp] theorem State.spareAdopt_tick (m : Nat) (t : Taken) : (s.spareAdopt m t).tick = s.tick := by
  unfold State.spareAdopt
  dsimp only
  repeat' split
  all_goals simp

/-! ### Guards and edges -/

@[simp] theorem State.addLate_tick (p : Nat) (l : Late) : (s.addLate p l).tick = s.tick := rfl

@[simp] theorem State.condemn_tick (p : Nat) (l : Late) : (s.condemn p l).tick = s.tick := rfl

@[simp] theorem State.judgeOverrun_tick (t p : Nat) : (s.judgeOverrun t p).tick = s.tick := by
  unfold State.judgeOverrun
  dsimp only
  repeat' split
  all_goals simp

@[simp] theorem State.checkLedgers_tick (t p : Nat) : (s.checkLedgers t p).tick = s.tick := by
  unfold State.checkLedgers
  split <;> simp

@[simp] theorem State.checkPackage_tick : s.checkPackage.tick = s.tick := by
  unfold State.checkPackage
  split <;> simp

@[simp] theorem State.switchAll_tick : s.switchAll.tick = s.tick := by
  unfold State.switchAll
  grind only [State.markDirty_tick, State.traceEvent_tick, State.setSlot_tick, foldl_tick]

@[simp] theorem State.readShape_tick (t p : Nat) : (s.readShape t p).tick = s.tick := by
  unfold State.readShape
  dsimp only
  repeat' split
  all_goals simp

@[simp] theorem State.lateUnc_tick (t p cls index : Nat) (desc : Option Nat) (b : Nat × Nat) :
    (s.lateUnc t p cls index desc b).tick = s.tick := rfl

@[simp] theorem State.readStep_tick (t p steps : Nat) : (s.readStep t p steps).tick = s.tick := by
  unfold State.readStep
  dsimp only
  repeat' split
  all_goals simp

@[simp] theorem State.fillPrograms_tick (t p frame : Nat) : (s.fillPrograms t p frame).tick = s.tick := by
  unfold State.fillPrograms
  grind only [State.fillProg_tick, State.modFrond_tick, State.lateUnc_tick, foldl_tick]

@[simp] theorem State.prepare_tick (t p : Nat) : (s.prepare t p).tick = s.tick := by
  unfold State.prepare
  dsimp only
  repeat' split
  all_goals simp

@[simp] theorem State.report_tick (f : Nat) (q : SeqSel) : (s.report f q).tick = s.tick := by
  unfold State.report
  split <;> simp

@[simp] theorem State.scan_tick (p : Nat) : (s.scan p).2.tick = s.tick := rfl

@[simp] theorem State.postMembers_tick (p : Nat) (items : List Item) : (s.postMembers p items).tick = s.tick := by
  unfold State.postMembers
  grind only [State.post_tick, foldl_tick]

@[simp] theorem State.scanRaise_tick (p : Nat) (guardTick : Option Nat) : (s.scanRaise p guardTick).tick = s.tick := by
  unfold State.scanRaise
  dsimp only
  repeat' split
  all_goals simp

@[simp] theorem State.guardOpens_tick (t p : Nat) : (s.guardOpens t p).tick = s.tick := by
  unfold State.guardOpens
  dsimp only
  repeat' split
  all_goals simp

@[simp] theorem State.applyShadows_tick (t : Nat) : (s.applyShadows t).tick = s.tick := by
  unfold State.applyShadows
  dsimp only
  repeat' split
  all_goals simp

@[simp] theorem State.postLate_tick (now : Late → Bool) (p : Nat) : (s.postLate now p).tick = s.tick := by
  unfold State.postLate
  grind only [State.modPart_tick, State.postMembers_tick, State.raiseStop_tick, foldl_tick]

@[simp] theorem State.postStale_tick : s.postStale.tick = s.tick := by
  unfold State.postStale
  grind only [State.modPort_tick, State.raiseReport_tick, State.modPart_tick, foldl_tick]

@[simp] theorem State.frondBegins_tick (p : Nat) (pl : Plan) (f : Nat) :
    (s.frondBegins p pl f).tick = s.tick := by simp [State.frondBegins]

@[simp] theorem State.reseed_tick (p : Nat) (pl : Plan) : (s.reseed p pl).tick = s.tick := rfl

@[simp] theorem State.snapshotStep_tick (p k : Nat) : (s.snapshotStep p k).tick = s.tick := by
  unfold State.snapshotStep
  repeat' split
  all_goals simp

@[simp] theorem State.beginFrame_tick (p : Nat) : (s.beginFrame p).tick = s.tick := by
  unfold State.beginFrame
  grind only [State.traceEvent_tick, State.snapshotStep_tick, State.frondBegins_tick, State.resetTicket_tick,
    State.count64_tick, State.reseed_tick, foldl_tick]

@[simp] theorem State.stepCloses_tick (p : Nat) : (s.stepCloses p).tick = s.tick := rfl

@[simp] theorem State.startsNow_tick (t p : Nat) (resume : Bool) (m : Nat) : (s.startsNow t p resume m).tick = s.tick := by
  unfold State.startsNow
  dsimp only
  repeat' split
  all_goals simp

@[simp] theorem State.haltsNow_tick (t p : Nat) (h : StopKind) : (s.haltsNow t p h).tick = s.tick := by
  unfold State.haltsNow
  split <;> simp

@[simp] theorem State.advance_tick (t p : Nat) : (s.advance t p).tick = s.tick := by
  unfold State.advance
  dsimp only
  repeat' split
  all_goals simp

@[simp] theorem State.partEdge_tick (t p : Nat) : (s.partEdge t p).tick = s.tick := by
  unfold State.partEdge
  dsimp only
  repeat' split
  all_goals simp

@[simp] theorem State.ageEpoch_tick (p : Nat) : (s.ageEpoch p).tick = s.tick := by
  unfold State.ageEpoch
  repeat' split
  all_goals simp

@[simp] theorem State.restartDue_tick (p : Nat) : (s.restartDue p).tick = s.tick := by
  unfold State.restartDue
  split <;> simp

@[simp] theorem State.sendBeacon_tick (i : Nat) : (s.sendBeacon i).tick = s.tick := by
  unfold State.sendBeacon
  split <;> simp

/-! ### Package and partition commands -/

@[simp] theorem State.identify_tick (m : Nat) : (s.identify m).tick = s.tick := by simp [State.identify]

@[simp] theorem State.health_tick (m : Nat) : (s.health m).tick = s.tick := by simp [State.health]

@[simp] theorem State.grantMemory_tick (tag : Dword) (gs : List Grant) : (s.grantMemory tag gs).tick = s.tick := rfl

@[simp] theorem State.create_tick (m : Nat) (t : Taken) : (s.create m t).tick = s.tick := by
  unfold State.create
  dsimp only
  repeat' split
  all_goals simp

@[simp] theorem State.resizeAdd_tick (p m : Nat) (t : Taken) : (s.resizeAdd p m t).tick = s.tick := by
  unfold State.resizeAdd
  dsimp only
  repeat' split
  all_goals simp

@[simp] theorem State.destroy_tick (p m : Nat) : (s.destroy p m).tick = s.tick := by
  unfold State.destroy
  dsimp only
  repeat' split
  all_goals simp

@[simp] theorem State.beginStart_tick (p m : Nat) (t : Taken) (resume : Bool) (steps : Option Nat) :
    (s.beginStart p m t resume steps).tick = s.tick := by simp [State.beginStart]

@[simp] theorem State.planStart_tick (p m : Nat) (t : Taken) : (s.planStart p m t).tick = s.tick := by
  unfold State.planStart
  repeat' split
  all_goals simp

@[simp] theorem State.planResume_tick (p m : Nat) (t : Taken) : (s.planResume p m t).tick = s.tick := by
  unfold State.planResume
  dsimp only
  repeat' split
  all_goals simp

@[simp] theorem State.planStop_tick (p m : Nat) : (s.planStop p m).tick = s.tick := by
  unfold State.planStop
  dsimp only
  repeat' split
  all_goals simp

@[simp] theorem State.preempt_tick (p m : Nat) : (s.preempt p m).tick = s.tick := by
  unfold State.preempt
  dsimp only
  repeat' split
  all_goals simp

@[simp] theorem State.routeSet_tick (m : Nat) (t : Taken) : (s.routeSet m t).tick = s.tick := by
  unfold State.routeSet
  dsimp only
  repeat' split
  all_goals simp

@[simp] theorem State.setSteps_tick (step : Nat) (x : List Nat) : (s.setSteps step x).1.tick = s.tick := by
  induction x generalizing s with
  | nil => rfl
  | cons a as ih =>
    unfold State.setSteps
    grind only [State.fwRead_tick, State.fwWrite_tick]

@[simp] theorem State.stepSet_tick (p m : Nat) (t : Taken) : (s.stepSet p m t).tick = s.tick := by
  unfold State.stepSet
  grind only [State.notAllowed_tick, State.setSteps_tick, State.ok_tick, State.cmdFaulted_tick]

@[simp] theorem State.lossScaleSet_tick (p m : Nat) (t : Taken) : (s.lossScaleSet p m t).tick = s.tick := by
  unfold State.lossScaleSet
  dsimp only
  repeat' split
  all_goals simp

/-! ### PLAN_LOAD -/

@[simp] theorem State.writeAll_tick (x : List (Nat × List Byte)) : (s.writeAll x).1.tick = s.tick := by
  induction x generalizing s with
  | nil => rfl
  | cons w ws ih =>
    unfold State.writeAll
    grind only [State.fwWrite_tick]

@[simp] theorem State.spoil_tick (r : Nat × Nat) : (s.spoil r).tick = s.tick := by simp [State.spoil]

@[simp] theorem State.writeTables_tick (pl : Plan) (img : List (Nat × List Byte)) :
    (s.writeTables pl img).tick = s.tick := by
  unfold State.writeTables
  grind only [State.modFrond_tick, State.cleanWords_tick, foldl_tick]

@[simp] theorem State.writeWheels_tick (ids : Nat → Option Nat) (pl : Plan) : (s.writeWheels ids pl).tick = s.tick := rfl

@[simp] theorem State.readImage_tick (p m : Nat) (host : Bool) (a n : Nat) : (s.readImage p m host a n).1.tick = s.tick := by
  unfold State.readImage
  dsimp only
  repeat' split
  all_goals simp

@[simp] theorem State.readSects_tick (p m : Nat) (host : Bool) (a : Nat) (x : List Sect) :
    (s.readSects p m host a x).1.tick = s.tick := by
  induction x generalizing s with
  | nil => rfl
  | cons r rs ih =>
    unfold State.readSects
    grind only [State.readImage_tick]

@[simp] theorem State.loadFailed_tick (p : Nat) : (s.loadFailed p).tick = s.tick := by simp [State.loadFailed]

@[simp] theorem State.loadWrites_tick (p m : Nat) (h : List Byte) (img : List (Nat × List Byte)) (pl : Plan)
    (ids : Nat → Option Nat) (units : List Nat) : (s.loadWrites p m h img pl ids units).tick = s.tick := by
  unfold State.loadWrites
  grind only [State.modPart_tick, State.writeAll_tick, State.cmdFaulted_tick, State.loadFailed_tick, State.spoil_tick,
    State.writeTables_tick, State.verifyFailed_tick, State.restartMaskLedgers_tick, State.writeWheels_tick, State.ok_tick,
    State.setMeas_tick, foldl_tick]

@[simp] theorem State.loadBinds_tick (p m code : Nat) (h : List Byte) (img : List (Nat × List Byte)) :
    (s.loadBinds p m code h img).tick = s.tick := by
  unfold State.loadBinds
  dsimp only
  split
  · simp
  · split
    · simp
    · split
      · simp
      · split
        · refine (State.loadWrites_tick ..).trans ((State.modPart_tick ..).trans ?_)
          refine (foldl_tick _ ?_ ..).trans (foldl_tick _ ?_ ..) <;> exact fun _ _ => rfl
        · simp

@[simp] theorem State.loadReads_tick (p m code : Nat) (host : Bool) (a given : Nat) :
    (s.loadReads p m code host a given).tick = s.tick := by
  unfold State.loadReads
  dsimp only
  repeat' split
  all_goals grind only [State.readImage_tick, State.readSects_tick, State.loadFailed_tick, State.verifyFailed_tick,
    State.loadBinds_tick]

@[simp] theorem State.planLoad_tick (p m : Nat) (t : Taken) : (s.planLoad p m t).tick = s.tick := by
  unfold State.planLoad
  dsimp only
  repeat' split
  all_goals simp

/-! ### Package resets -/

@[simp] theorem State.stopForReset_tick (p : Nat) : (s.stopForReset p).tick = s.tick := by
  unfold State.stopForReset
  split <;> simp

@[simp] theorem State.requestWarm_tick : s.requestWarm.tick = s.tick := by
  unfold State.requestWarm
  grind only [State.stopForReset_tick, foldl_tick]

@[simp] theorem State.perstHigh_tick : s.perstHigh.tick = s.tick := by
  unfold State.perstHigh
  dsimp only
  split <;> simp

/-! ### The Indusium -/

@[simp] theorem State.raiseRollback_tick : s.raiseRollback.tick = s.tick := by
  unfold State.raiseRollback
  grind only [State.setMeas_tick]

@[simp] theorem State.runImage_tick (b : List Byte) (source : Nat) : (s.runImage b source).tick = s.tick := rfl

@[simp] theorem State.bootFails_tick : s.bootFails.tick = s.tick := rfl

@[simp] theorem State.boot_tick (selfTestOk : Bool) : (s.boot selfTestOk).tick = s.tick := by
  unfold State.boot
  repeat' split
  all_goals simp

@[simp] theorem State.fetchImage_tick (m : Nat) (host : Bool) (a n : Nat) : (s.fetchImage m host a n).1.tick = s.tick := by
  unfold State.fetchImage
  dsimp only
  repeat' split
  all_goals simp

@[simp] theorem State.fwUpdate_tick (m : Nat) (t : Taken) : (s.fwUpdate m t).tick = s.tick := by
  unfold State.fwUpdate
  grind only [State.badArg_tick, State.fetchImage_tick, State.verifyFailed_tick, State.ok_tick, State.runImage_tick,
    State.raiseRollback_tick]

@[simp] theorem State.signIdentity_tick (message : List Byte) : (s.signIdentity message).2.tick = s.tick := rfl

@[simp] theorem State.attest_tick (m : Nat) (t : Taken) : (s.attest m t).tick = s.tick := by
  unfold State.attest
  split <;> simp

@[simp] theorem State.debugChallenge_tick (m : Nat) : (s.debugChallenge m).tick = s.tick := by
  unfold State.debugChallenge
  split <;> simp

@[simp] theorem State.debugToken_tick (m : Nat) (t : Taken) : (s.debugToken m t).tick = s.tick := by
  unfold State.debugToken
  dsimp only
  repeat' split
  all_goals simp

/-! ### The test access port -/

@[simp] theorem State.loadIr_tick (i : JtagIr) : (s.loadIr i).tick = s.tick := rfl

@[simp] theorem State.loadHolding_tick (i : JtagIr) : (s.loadHolding i).tick = s.tick := rfl

/-! ### The vector engine -/

@[simp] theorem runVec_tick (i : Issue) (b : VecBody) (p : Nat) (pass : Option PassRef) (id : Nat) :
    (runVec i b p pass id s).1.tick = s.tick := rfl

theorem State.vecUnread_tick {p f : Nat} (h : s.vecUnread p f = some u) : u.tick = s.tick := by
  unfold State.vecUnread at h
  grind only [State.storeFault_tick]

@[simp] theorem State.modVec_tick (f : Nat) (g : Vector → Vector) : (s.modVec f g).tick = s.tick := rfl

@[simp] theorem State.vecMap_tick (f : Nat) (v : VFields) (t : Nat) (rounds : Bool)
    (op : Vector → Nat → Rounding → FlagResult) : (s.vecMap f v t rounds op).tick = s.tick := rfl

@[simp] theorem State.vecArith_tick (f : Nat) (v : VFields) (fl : Fmt → Rounding → Nat → Nat → Nat → FlagResult)
    (int : Int → Int → Int) : (s.vecArith f v fl int).tick = s.tick := by
  unfold State.vecArith
  split <;> simp

@[simp] theorem State.vecPred_tick (f : Nat) (v : VFields) (op : Vector → Nat → Bool × BitVec 5) :
    (s.vecPred f v op).tick = s.tick := rfl

@[simp] theorem State.vecBits_tick (f : Nat) (v : VFields) (op : Nat → Nat → Nat → Nat) :
    (s.vecBits f v op).tick = s.tick := by
  unfold State.vecBits
  split <;> simp

@[simp] theorem State.vecFault_tick (p f : Nat) (bad : Nat × Nat × Bool) :
    (s.vecFault p f bad).tick = s.tick := by simp [State.vecFault]

@[simp] theorem State.vecLoad_tick (p f : Nat) (v : VFields) (as : List (Nat × Nat)) :
    (s.vecLoad p f v as).tick = s.tick := by
  unfold State.vecLoad
  grind only [State.vecFault_tick, State.bufFault_tick, State.modVec_tick, foldl_tick]

@[simp] theorem State.vecStore_tick (p f t : Nat) (vs : List (Nat × Nat × Nat)) : (s.vecStore p f t vs).tick = s.tick := by
  unfold State.vecStore
  dsimp only
  split <;> simp

@[simp] theorem State.scalar_tick (f : Nat) (v : VFields) (op : Int → Int → Int) : (s.scalar f v op).tick = s.tick := rfl

/-! ### PLAN_VERIFY -/

@[simp] theorem State.readAll_tick (x : List (Nat × Nat)) : (s.readAll x).1.tick = s.tick := by
  induction x generalizing s with
  | nil => rfl
  | cons r rs ih =>
    unfold State.readAll
    grind only [State.fwRead_tick]

@[simp] theorem State.planVerify_tick (p m : Nat) : (s.planVerify p m).tick = s.tick := by
  unfold State.planVerify
  grind only [State.notAllowed_tick, State.modPart_tick, State.readAll_tick, State.cmdFaulted_tick, State.verifyFailed_tick,
    State.ok_tick]

/-! ### PARTITION_RESIZE -/

@[simp] theorem State.resizeRemove_tick (p m : Nat) (t : Taken) : (s.resizeRemove p m t).tick = s.tick := by
  unfold State.resizeRemove
  dsimp only
  repeat' split
  all_goals simp

/-! ### SPDM and the management endpoints -/

@[simp] theorem State.answer_tick (r : SpdmResponse) : (s.answer r).tick = s.tick := rfl

@[simp] theorem State.signedAnswer_tick (transcript body : List Byte) (k : BitVec 384 × BitVec 384 → SpdmResponse) :
    (s.signedAnswer transcript body k).tick = s.tick := by
  unfold State.signedAnswer
  split <;> simp

@[simp] theorem State.modSession_tick (id : Nat) (g : Session → Session) : (s.modSession id g).tick = s.tick := rfl

@[simp] theorem State.dropSession_tick (id : Nat) : (s.dropSession id).tick = s.tick := rfl

@[simp] theorem State.assignEid_tick (t : Transport) (eid : Byte) : (s.assignEid t eid).tick = s.tick := by
  unfold State.assignEid
  repeat' split
  all_goals simp

end Sys2Proof.Machine
end

section
/-! PROOFS. What a command does to the tick: a command of another block leaves it alone, whatever the shape of its row. -/

namespace Sys2Proof.Machine

/-- Whatever state the row answers has the tick of `s`. -/
def KeepsTick (s : State) (o : Out) : Prop := ∀ t, o = .next t → t.tick = s.tick

variable {s : State}

/-! ### Shapes of rows -/

theorem keepsTick_next {t : State} (h : t.tick = s.tick) : KeepsTick s (.next t) := by
  rintro _ ⟨⟩
  exact h

theorem keepsTick_fault {e : Fault} : KeepsTick s (.fault e) := fun _ h => by cases h

theorem keepsTick_onUnit {b : Bool} {t : State} (h : t.tick = s.tick) : KeepsTick s (onUnit b t) := fun _ hu => by
  obtain ⟨-, rfl⟩ := onUnit_next.1 hu
  exact h

theorem keepsTick_linsoRow {m op : Nat} {form : Taken → Bool} {run : Taken → State → State}
    (h : ∀ c s, (run c s).tick = s.tick) : KeepsTick s (linsoRow m op form run s) := fun t ht => by
  obtain ⟨-, ⟨-, rfl⟩ | ⟨c, -, rfl⟩⟩ := linsoRow_next.1 ht
  · rfl
  · grind only [State.acceptHeld_tick]

theorem keepsTick_linsoPart {m op : Nat} {form : Taken → Bool} {run : Nat → Taken → State → State}
    (h : ∀ p c s, (run p c s).tick = s.tick) : KeepsTick s (linsoPart m op form run s) :=
  keepsTick_linsoRow fun c s => by
    dsimp only
    split
    next hj => exact State.judge_tick s hj
    next => exact h ..

theorem keepsTick_scopedRow {m op : Nat} {run : Taken → State → State} (h : ∀ c s, (run c s).tick = s.tick) :
    KeepsTick s (scopedRow m op run s) :=
  keepsTick_linsoRow h

theorem keepsTick_issueRowWith {v : State} (hv : v.tick = s.tick) {i : Issue} {is : Nat → Bool} {wf : Bool}
    {ready : Nat → State → Option Wait} {skip run : Run} (hskip : ∀ p pass id s, (skip p pass id s).1.tick = s.tick)
    (hrun : ∀ p pass id s, (run p pass id s).1.tick = s.tick) : KeepsTick s (issueRowWith v i is wf ready skip run) :=
  fun t ht => by
    obtain ⟨-, -, -, rfl⟩ := issueRowWith_next.1 ht
    rw [State.issueWith_tick _ _ _ _ hskip hrun, State.showAll_tick, State.strike_tick, hv]

theorem keepsTick_issueRow {v : State} (hv : v.tick = s.tick) {i : Issue} {is : Nat → Bool} {wf : Bool}
    {ready : Nat → State → Option Wait} {run : Run} (hrun : ∀ p pass id s, (run p pass id s).1.tick = s.tick) :
    KeepsTick s (issueRow v i is wf ready run) :=
  keepsTick_issueRowWith hv (fun _ _ _ _ => rfl) hrun

theorem keepsTick_completeRow {f id : Nat} {done : Job → State → Option State}
    (h : ∀ j s u, done j s = some u → u.tick = s.tick) : KeepsTick s (completeRow s f id done) := fun t ht => by
  obtain ⟨-, ⟨-, rfl⟩ | ⟨j, -, ⟨-, rfl⟩ | ⟨u, hu, rfl⟩⟩⟩ := completeRow_next.1 ht
  · rfl
  · rfl
  · rw [State.endJob_tick, h j s u hu]

theorem keepsTick_vrow {f op n : Nat} {v : VFields} {ok : Bool} {body : Nat → State → State}
    (h : ∀ p s, (body p s).tick = s.tick) : KeepsTick s (vrow f op v n ok s body) := fun t ht => by
  obtain ⟨-, -, -, ⟨-, rfl⟩ | ⟨p, -, hu | ⟨-, ⟨-, rfl⟩ | ⟨-, rfl⟩⟩⟩⟩ := vrow_next.1 ht
  · simp
  · rw [State.vecUnread_tick _ hu, State.strike_tick]
  · simp
  · rw [h, State.modFrond_tick, State.count64_tick, State.countStalls_tick, State.strike_tick]

theorem keepsTick_hostRow {read : Bool} {run : State → State} (h : ∀ s, (run s).tick = s.tick) :
    KeepsTick s (hostRow read run s) :=
  keepsTick_next (by
    split
    · exact h s
    · split
      · exact State.unsupported_tick ..
      · rfl)

theorem keepsTick_packetRow {i kind : Nat} {pk : Packet} {run : State → State} (h : ∀ s, (run s).tick = s.tick) :
    KeepsTick s (packetRow s i kind pk run) :=
  keepsTick_onUnit (by grind only [State.modPort_tick])

theorem keepsTick_checkedRow {i kind : Nat} {pk : Packet} {run : State → State} (h : ∀ s, (run s).tick = s.tick) :
    KeepsTick s (checkedRow s i kind pk run) :=
  keepsTick_packetRow fun s => by grind only [State.countTaken_tick, State.dropPacket_tick]

theorem keepsTick_portRow {run : State → State} (h : ∀ s, (run s).tick = s.tick) : KeepsTick s (portRow run s) :=
  keepsTick_next (by
    split
    · exact h s
    · rfl)

theorem keepsTick_spdmRow {tr : Transport} {ready : Connection → Bool} {run : State → State}
    (h : ∀ s, (run s).tick = s.tick) : KeepsTick s (spdmRow tr ready run s) :=
  keepsTick_next (by grind only [State.answer_tick])

theorem keepsTick_inSession {tr : Transport} {n : Nat} {run : State → State} (h : ∀ s, (run s).tick = s.tick) :
    KeepsTick s (inSession tr n run s) :=
  keepsTick_spdmRow fun s => by grind only [State.answer_tick]

theorem keepsTick_afterIssue {f : Nat} {o : Out} (h : KeepsTick s o) : KeepsTick s (State.afterIssue f o) := by
  intro t ht
  unfold State.afterIssue at ht
  split at ht
  next v =>
    have hv : v.tick = s.tick := h v rfl
    split at ht <;> cases ht
    · rw [State.wakeCollectives_tick, hv]
    · exact hv
  next => exact h t ht

end Sys2Proof.Machine
end

section
/-! PROOFS. Which commands leave the tick block alone: every one but the rows of `writesTick`. -/

namespace Sys2Proof.Machine

/-- The rows that write a field of the tick: the tick's own, the reads that latch TICK_COUNT's high word, TICK_CONFIG and what
resets the package. -/
def writesTick : Instr → Bool
  | .tickConfig _ | .tickGuard | .tickEdge | .tickInEdge _ | .beaconReceived .. | .tickHoldover | .tickCountRead _
  | .rcCounterRead .. | .warmResetEntry | .perstAssert | .pwrOkFall | .pwrOkRise .. | .referenceLoss .system => true
  | _ => false

variable {s : State}

theorem exec_keepsTick {c : Instr} (hc : writesTick c = false) : KeepsTick s (exec c s) := by
  unfold exec
  cases c with
  | tickConfig | tickGuard | tickEdge | tickInEdge | beaconReceived | tickHoldover | tickCountRead | rcCounterRead
  | warmResetEntry | perstAssert | pwrOkFall | pwrOkRise => cases hc
  | identify | health | partitionCreate | pairBind | powerConfig | fwUpdate | attest
  | debugUnlockChallenge | spareAdopt | routeSet => exact keepsTick_linsoRow fun _ _ => by simp
  | dump | countersRead => exact keepsTick_scopedRow fun _ _ => by simp
  | debugUnlockToken => exact keepsTick_linsoRow fun _ _ => by split <;> simp
  | partitionDestroy | partitionResizeRemove | planLoad | planVerify | planStart | planStartResume | planStop | preempt
  | snapshotTake | snapshotRestore | mirrorConfig | mirrorConfigDisable | stepSet | lossScaleSet =>
    exact keepsTick_linsoPart fun _ _ _ => by simp
  | partitionResizeAdd => exact keepsTick_linsoPart fun _ _ _ => by split <;> simp
  | mailboxRota => exact keepsTick_next (foldl_tick _ (fun s m => s.rotaOne_tick m) ..)
  | move | gather | denseTile | sparseTile | sampledTile | drain | vec | update | factSums | factApply | semSignal | ticket
  | tickWait | maskPrune | maskRegrow | maskCommit => exact keepsTick_issueRow rfl fun _ _ _ _ => by simp
  | semWait => exact keepsTick_issueRow (State.arrive_tick ..) fun _ _ _ _ => by simp
  | multicast =>
    exact keepsTick_issueRowWith (State.arrive_tick ..) (fun _ _ _ _ => by simp) fun _ _ _ _ => by simp
  | reduceSend | reduceRecv => exact keepsTick_afterIssue (keepsTick_issueRow rfl fun _ _ _ _ => by simp)
  | gatherComplete | denseTileComplete | sparseTileComplete | sampledTileComplete | drainComplete | maskPruneComplete
  | maskRegrowComplete | reduceSendComplete | reduceRecvComplete | moveComplete | maskCommitComplete =>
    exact keepsTick_completeRow fun _ _ _ h => by
      grind only [State.drainQueues_tick, State.count32_tick, State.setSlot_tick]
  | multicastComplete =>
    exact keepsTick_completeRow fun _ _ _ h => by
      grind only [foldl_tick, State.sendSignal_tick]
  | updateComplete =>
    exact keepsTick_completeRow fun _ _ _ h => by
      grind only [State.writeFor_tick, State.closeStep_tick]
  | fma | add | sub | mul | div | sqrt | min | max | abs | neg | exp2 | log2 | classify | and | or | xor | shl | shr
  | shra | sel | movi | movs | lane | rng | xlane | ld | st | ldx | stx | sadd | ssub | smul | sshl | sshr | sli | br
  | bnz | bz | anyp | rdflg | clrflg | halt => exact keepsTick_vrow fun _ _ => by simp
  | cvt | cmp | red =>
    dsimp only [execCvt, execCmp, execRed]
    exact keepsTick_vrow fun _ _ => by simp
  | lds =>
    exact keepsTick_vrow fun _ _ => by grind only [State.vecFault_tick, State.bufFault_tick, State.modVec_tick]
  | sts => exact keepsTick_vrow fun _ _ => by grind only [State.vecFault_tick, State.bufPutFor_tick]
  | data => exact keepsTick_checkedRow fun _ => by split <;> simp
  | healthPacket => exact keepsTick_checkedRow fun _ => by grind only [State.landHealth_tick]
  | clear => exact keepsTick_checkedRow fun _ => by simp
  | announce | bind | mirror | fill => exact keepsTick_packetRow fun _ => by simp
  | hostMemRead | hostMemWrite | registerWrite => exact keepsTick_hostRow fun _ => by simp
  | sporeWordRead => exact keepsTick_hostRow fun _ => by split <;> simp
  | bypass | idcode | samplePreload | trstAssert | extest | extestPulse | extestTrain | clamp | highz =>
    exact keepsTick_portRow fun _ => by rfl
  | uartRxInput => exact keepsTick_portRow fun _ => by split <;> rfl
  | keyUpdate | heartbeat | endSession => exact keepsTick_inSession fun _ => by simp
  | vendorDefinedRequest => exact keepsTick_inSession fun _ => by split <;> simp
  | getVersion | getCapabilities => exact keepsTick_spdmRow fun _ => by simp
  | negotiateAlgorithms | getDigests | getCertificate => exact keepsTick_spdmRow fun _ => by grind only [State.answer_tick]
  | challenge | getMeasurements | keyExchange | finish =>
    exact keepsTick_spdmRow fun _ => by
      grind only [State.answer_tick, State.signedAnswer_tick, State.modSession_tick, State.dropSession_tick, State.freeBits_tick]
  | ticketClaim | ticketReply | ticketClaimRetry | ticketCompletion | tickWaitComplete | signalQueueLeave | semWaitComplete
  | partitionStop | writeFenceComplete | recoveryReady | epochHoldExpiry | resetNoAnswer | halfReset | katSweepResult
  | feedReadReturn | patrolScrub | bankPortServe | memRefresh | plnFrameReceive | plnPortDisable | plnPortEnable | peerTimeout
  | mirrorSend | mirrorLost | snapshotDrain | snapshotComplete | governorEstimate | currentSample | tempSample | thermalTrip
  | waitReport | dumpUnitTimeout | voltageMarginLoss => exact keepsTick_onUnit (by simp)
  | mailboxSeqTimeout | katSweep | memoryBringup | plnLaneLockLoss | plnAckSilence | plnRetrain
  | plnTrainingComplete => exact keepsTick_onUnit (by split <;> simp)
  | memWriteback => exact keepsTick_onUnit (by dsimp only; split <;> simp)
  | kernelComplete => exact keepsTick_onUnit (by grind only [State.endJob_tick])
  | feedDone => exact keepsTick_onUnit (by grind only [State.count32_tick, State.modPart_tick])
  | feedStart =>
    dsimp only [execFeedStart]
    split
    · exact keepsTick_hostRow fun _ => by simp
    · exact keepsTick_fault
  | semaphoreSignalApply | sporeItemArrival | sporePacketTimeout | hyphalPacket | memAccess | cxlUncorrectableError
  | cxlHotReset | watchdogExpiry | clockStep | challengeExpiry => exact keepsTick_next (by simp)
  | waitScanMidtick => exact keepsTick_next (foldl_tick _ (fun s p => by split <;> simp) ..)
  | pairBindTimeout => exact keepsTick_next (by grind only [State.respond_tick])
  | hostSnoop | powerStateChange | emergencyHalving | clockRestore | perstRelease | referenceStable | bootRom | fwReady
  | setEndpointId | i3cDynamicAddressAssign => exact keepsTick_next (by split <;> simp)
  | referenceLoss r =>
    cases r with
    | system => cases hc
    | cxl => exact keepsTick_next (by split <;> rfl)
    | pliund =>
      refine keepsTick_next ?_
      split
      · exact foldl_tick _ (fun s i => by split <;> simp) ..
      · rfl
end Sys2Proof.Machine
end

section
/-! PROOFS. The tick's period, source and TICK_COUNT (R31, R33): the refusal of TICK_CONFIG with its response (R469), the tick's own
rows, the resets of the package, and O3. -/

namespace Sys2Proof.Machine

/-! ### Responses -/

theorem sgets_eq_map {α : Type} (d : Nat → α) (m : List (Nat × α)) (k n : Nat) :
    sgets d m k n = (List.range n).map fun i => sget d m (k + i) := by
  induction n generalizing k with
  | zero => rfl
  | succ n ih =>
    rw [List.range_succ_eq_map, List.map_cons, List.map_map, sgets, ih]
    simp [Function.comp_def, Nat.add_comm, Nat.add_left_comm]

/-- Consecutive values read where they were written. -/
theorem sgets_sputs_same {α : Type} [DecidableEq α] (d : Nat → α) {m : List (Nat × α)} (k : Nat) (vs : List α)
    (w : swf d m = true) : sgets d (sputs d m k vs) k vs.length = vs := by
  rw [sgets_eq_map]
  refine List.ext_getElem (by simp) fun i hi _ => ?_
  simp at hi
  simp [sget_sputs _ _ _ w, hi]

/-- Consecutive values read below where others were written. -/
theorem sgets_sputs_below {α : Type} [DecidableEq α] (d : Nat → α) {m : List (Nat × α)} {j n k : Nat} (vs : List α)
    (w : swf d m = true) (h : k + vs.length ≤ j) : sgets d (sputs d m k vs) j n = sgets d m j n := by
  simp only [sgets_eq_map]
  refine List.map_congr_left fun i _ => ?_
  rw [sget_sputs _ _ _ w, dif_neg (by omega)]

theorem respHeader_length (c : Taken) (status n : Nat) : (respHeader c status n).length = 16 := by
  simp [respHeader, leBytes]

variable {s : State} {m status : Nat} {c : Taken}

/-- An interrupt leaves a response as it is. -/
theorem State.Answered.raiseVector_if {t : State} {result : List Byte} (h : t.Answered m c status result) (b : Bool) (v : Nat) :
    (if b then t.raiseVector v else t).Answered m c status result := by
  unfold State.raiseVector
  obtain ⟨hended, hseq, hword, hhead, hresult, huntaken⟩ := h
  repeat' split
  all_goals exact ⟨hended, hseq, hword, hhead, hresult, huntaken⟩

/-- A final response stands in the mailbox as R469 lays it out, and ends the command. -/
theorem State.respond_answered (hs : s.Canonical) (ho : (s.mailbox m).outstanding = some c) (hf : status ≠ stAccepted)
    (result : List Byte) : (s.respond m status result).Answered m c status result := by
  have harea := swf_sputs (respArea m + 16) result hs.mbArea
  have hfin : (status != stAccepted) = true := bne_iff_ne.2 hf
  simp only [State.respond, ho, State.writeResponse, hfin, if_true]
  refine State.Answered.raiseVector_if ?_ ..
  constructor
  case head =>
    have hhead := sgets_sputs_same (fun _ => (0 : Byte)) (respArea m) (respHeader c status result.length) harea
    rw [respHeader_length] at hhead
    simpa only [State.areaBytes, State.setMailbox_mbArea, State.areaWrite_mbArea] using hhead
  case result =>
    have hbelow := sgets_sputs_below (fun _ => (0 : Byte)) (j := respArea m + 16) (n := result.length) (k := respArea m)
      (respHeader c status result.length) harea (by simp only [respHeader_length, Nat.le_refl])
    rw [sgets_sputs_same _ _ _ hs.mbArea] at hbelow
    simpa only [State.areaBytes, State.setMailbox_mbArea, State.areaWrite_mbArea] using hbelow
  case untaken => simp
  all_goals simp [State.mailbox, sget_sput_same _ _ hs.mailboxes]

/-! ### TICK_CONFIG -/

/-- A Linso row of any form whose command the mailbox presents runs it. -/
theorem linsoRow_of_presents {op : Nat} {run : Taken → State → State} (h : s.Presents m op c) :
    linsoRow m op anyForm run s = .next (run c s) :=
  linsoRow_next.2 ⟨h.mailbox, .inr ⟨c, h.outstanding, by simp [anyForm, h.opcode, h.fresh, h.free]⟩⟩

theorem any_active_of_running (h : ∃ p, p < 16 ∧ (s.part p).state = .running) :
    ((List.range 16).any fun p => (s.part p).active) = true := by
  obtain ⟨p, hp, hr⟩ := h
  exact List.any_eq_true.2 ⟨p, List.mem_range.2 hp, by simp [Partition.active, hr]⟩

/-- While a partition runs, TICK_CONFIG leaves the tick as it is. -/
theorem State.tickConfig_tick_of_running (h : ((List.range 16).any fun p => (s.part p).active) = true) :
    (s.tickConfig m c).tick = s.tick := by
  unfold State.tickConfig
  dsimp only
  rw [if_pos h]
  repeat' split
  all_goals simp

/-- While a partition runs, TICK_CONFIG with legal arguments is refused. -/
theorem State.tickConfig_of_running (h : ((List.range 16).any fun p => (s.part p).active) = true) (hlo : 2000 ≤ c.arg 8 4)
    (hhi : c.arg 8 4 ≤ 2000000) (hsrc : c.arg 12 1 ≤ 2) (hport : c.arg 13 1 ≤ 15) :
    s.tickConfig m c = s.notAllowed m 0xFF := by
  unfold State.tickConfig
  dsimp only
  rw [if_neg (by omega), if_neg (by omega), if_neg (by omega), if_pos h]

theorem exec_tickConfig (m : Nat) (s : State) :
    exec (.tickConfig m) s = linsoRow m 0x50 anyForm (fun c s => s.tickConfig m c) s := rfl

/-- TICK_CONFIG never touches TICK_COUNT. -/
theorem State.tickConfig_count (s : State) (m : Nat) (c : Taken) : (s.tickConfig m c).tick.count = s.tick.count := by
  unfold State.tickConfig
  dsimp only
  repeat' split
  all_goals simp

/-! ### The tick's own rows -/

/-- The fields of the tick that R31 and R33 speak of. -/
def Tick.SameClock (x y : Tick) : Prop := y.period = x.period ∧ y.source = x.source ∧ y.count = x.count

theorem State.runGuard_tick (s : State) : s.runGuard.tick = { s.tick with guardOpen := true } := by
  unfold State.runGuard
  dsimp only
  rw [State.checkPackage_tick, foldl_tick _ fun s p => s.postLate_tick Late.early p, State.switchAll_tick,
    foldl_tick, State.applyShadows_tick, foldl_tick _ fun s p => s.guardOpens_tick _ p, State.takeHolds_tick]
  intro s p
  split
  · exact State.checkLedgers_tick ..
  · rfl

theorem State.runEdge_tick (s : State) :
    s.runEdge.tick = { s.tick with count := s.tick.count + 1, guardOpen := false, pulses := s.tick.pulses + 1 } := by
  unfold State.runEdge
  dsimp only
  rw [State.answerCounters_tick]
  dsimp only
  rw [State.govern_tick, foldl_tick _ fun s p => s.partEdge_tick _ p, State.beginHalving_tick, State.applyPower_tick,
    State.powerEdge_tick, foldl_tick _ fun s p => s.ageEpoch_tick p, foldl_tick _ fun s p => s.restartDue_tick p,
    State.postStale_tick, foldl_tick _ fun s i => s.sendBeacon_tick i]
  dsimp only
  rw [foldl_tick _ fun s p => s.postLate_tick _ p]

theorem Tick.SameClock.refl (x : Tick) : x.SameClock x := ⟨rfl, rfl, rfl⟩

theorem Tick.sameClock_edgeAt (x : Tick) (ns : Int) : x.SameClock (x.edgeAt ns) := ⟨rfl, rfl, rfl⟩

theorem Tick.SameClock.of_eq {x y : Tick} (h : y = x) : x.SameClock y := h ▸ .refl x

theorem State.takeBeacon_sameClock (s : State) (i : Nat) (ns : Int) (n : BitVec 32) :
    s.tick.SameClock (s.takeBeacon i ns n).tick := by
  unfold State.takeBeacon
  split
  · exact s.tick.sameClock_edgeAt ns
  · exact .refl _

theorem State.holdover_sameClock (s : State) : s.tick.SameClock s.holdover.tick := by
  unfold State.holdover
  split
  · exact .refl _
  · exact ⟨rfl, rfl, rfl⟩

theorem State.readCount_sameClock (s : State) (r : CountRead) : s.tick.SameClock (s.readCount r).tick := by
  cases r <;> exact ⟨rfl, rfl, rfl⟩

theorem State.readRc_sameClock (s : State) (off size : Nat) (incs : List Nat) :
    s.tick.SameClock (s.readRc off size incs).tick := by
  unfold State.readRc
  repeat' split
  · exact .refl _
  · exact .of_eq (State.readSpore_tick ..)
  · exact s.readCount_sameClock .low32
  · exact s.readCount_sameClock .high32
  · exact .of_eq (foldl_tick _ (fun s k => s.clearRc_tick _ _) ..)

theorem hostRow_sameClock {read : Bool} {run : State → State} {t : State} (hrun : ∀ s : State, s.tick.SameClock (run s).tick)
    (h : hostRow read run s = .next t) : s.tick.SameClock t.tick := by
  cases h
  split
  · exact hrun s
  · split
    · exact .of_eq (State.unsupported_tick ..)
    · exact .refl _

/-- The rows that may reset the package: its own reset, its pins, and the loss of the system reference (R608, R614 to R617). -/
def MayReset (c : Instr) : Prop :=
  c = .warmResetEntry ∨ c = .perstAssert ∨ c = .pwrOkFall ∨ (∃ f b x, c = .pwrOkRise f b x) ∨ c = .referenceLoss .system

/-- Everything a command can do to the period, the source and TICK_COUNT: a tick edge counts, TICK_CONFIG and the resets of
the package write what they will, and every other command leaves the three alone. -/
theorem exec_clock_cases {c : Instr} {t : State} (h : exec c s = .next t) :
    s.tick.SameClock t.tick ∨ ((∃ m, c = .tickConfig m) ∧ t.tick.count = s.tick.count) ∨ MayReset c ∨
      (c = .tickEdge ∧ t.tick.period = s.tick.period ∧ t.tick.source = s.tick.source) := by
  cases c with
  | tickConfig m =>
    refine .inr (.inl ⟨⟨m, rfl⟩, ?_⟩)
    rw [exec_tickConfig] at h
    obtain ⟨-, ⟨-, rfl⟩ | ⟨c, -, rfl⟩⟩ := linsoRow_next.1 h
    · rfl
    · grind only [State.acceptHeld_tick, State.tickConfig_count]
  | warmResetEntry => exact .inr (.inr (.inl (.inl rfl)))
  | perstAssert => exact .inr (.inr (.inl (.inr (.inl rfl))))
  | pwrOkFall => exact .inr (.inr (.inl (.inr (.inr (.inl rfl)))))
  | pwrOkRise f b x => exact .inr (.inr (.inl (.inr (.inr (.inr (.inl ⟨f, b, x, rfl⟩))))))
  | referenceLoss r =>
    cases r with
    | system => exact .inr (.inr (.inl (.inr (.inr (.inr (.inr rfl))))))
    | cxl | pliund => exact .inl (.of_eq (exec_keepsTick rfl t h))
  | tickGuard =>
    cases h
    refine .inl ?_
    split
    · rw [State.runGuard_tick]
      exact ⟨rfl, rfl, rfl⟩
    · exact .refl _
  | tickEdge =>
    cases h
    refine .inr (.inr (.inr ⟨rfl, ?_⟩))
    repeat' split
    all_goals simp [State.runEdge_tick, State.runGuard_tick]
  | tickInEdge ns =>
    cases h
    refine .inl ?_
    split
    · exact s.tick.sameClock_edgeAt ns
    · exact .refl _
  | beaconReceived i ns n =>
    obtain ⟨-, rfl⟩ := onUnit_next.1 h
    exact .inl (s.takeBeacon_sameClock i ns n)
  | tickHoldover =>
    cases h
    exact .inl s.holdover_sameClock
  | tickCountRead r => exact .inl (hostRow_sameClock (fun s => s.readCount_sameClock r) h)
  | rcCounterRead off r => exact .inl (hostRow_sameClock (fun s => s.readRc_sameClock ..) h)
  | _ => exact .inl (.of_eq (exec_keepsTick rfl t h))

/-! ### Edges and resets -/

theorem exec_tickEdge_of_ticking (h : s.ticking = true) :
    ∃ t, exec .tickEdge s = .next t ∧ t.tick.count = s.tick.count + 1 := by
  refine ⟨_, rfl, ?_⟩
  rw [if_pos h, State.runEdge_tick]
  split
  · rfl
  · rw [State.runGuard_tick]

theorem exec_tickEdge_of_not_ticking (h : s.ticking = false) : exec .tickEdge s = .next s :=
  congrArg _ (if_neg (by simp [h]))

theorem State.coldReset_tick (s : State) : s.coldReset.tick = .reset := rfl

theorem exec_pwrOkRise_count (h : s.pkg.pwrOk = false) (f : BitVec 4) (b : Bool) (x : PerstPin) :
    ∃ t, exec (.pwrOkRise f b x) s = .next t ∧ t.tick.count = 0 := by
  refine ⟨_, rfl, ?_⟩
  rw [if_neg (by simp [h])]
  dsimp only
  split
  · rw [State.trainLink_tick, State.coldReset_tick]; rfl
  · rfl

theorem exec_pwrOkFall_count (h : s.pkg.pwrOk = true) : ∃ t, exec .pwrOkFall s = .next t ∧ t.tick.count = 0 :=
  ⟨_, rfl, by rw [if_pos h]; rfl⟩

theorem exec_referenceLoss_system_count (h : s.pkg.pwrOk = true) :
    ∃ t, exec (.referenceLoss .system) s = .next t ∧ t.tick.count = 0 :=
  ⟨_, rfl, by rw [if_pos h]; rfl⟩

theorem exec_perstAssert_count (hp : s.pkg.pwrOk = true) (hlow : s.pkg.perst = false) (hcold : s.pkg.coldBoot = true) :
    ∃ t, exec .perstAssert s = .next t ∧ t.tick.count = 0 := by
  refine ⟨_, rfl, ?_⟩
  rw [if_neg (by simp [hlow])]
  unfold State.perstLow
  dsimp only
  rw [if_neg (by simp [hp]), if_pos hcold]
  rfl

theorem exec_warmResetEntry_count (hp : s.pkg.pwrOk = true) (hout : s.pkg.inWarmReset = false)
    (hreq : s.pkg.warmRequested = true) (htrip : s.pkg.thermalTrip = false) :
    ∃ t, exec .warmResetEntry s = .next t ∧ t.tick.count = 0 :=
  ⟨_, rfl, by rw [if_pos (by simp [hp, hout, hreq, htrip])]; rfl⟩

/-! ### The obligation -/

/-- Settles O3: period, source and TICK_COUNT by the cases of what a command can do to the clock, TICK_CONFIG by the equations
of its refusal, and the resets one by one. -/
theorem onlyTickConfigChangesThePeriod : Obligations.OnlyTickConfigChangesThePeriod := by
  refine ⟨fun c s t h => ?_, fun m c s hs hm hrun => ?_, fun c s t h => ?_, fun s => exec_tickEdge_of_ticking,
    fun s => exec_tickEdge_of_not_ticking, fun c s h => ?_⟩
  · obtain ⟨hp, hsrc, -⟩ | ⟨hcfg, -⟩ | hreset | ⟨-, hp, hsrc⟩ := exec_clock_cases h
    · simp [hp, hsrc]
    · exact .inl hcfg
    · obtain h | h | h | ⟨f, b, x, h⟩ | h := hreset <;> simp [h]
    · simp [hp, hsrc]
  · have hactive := any_active_of_running hrun
    refine ⟨_, (exec_tickConfig m s).trans (linsoRow_of_presents hm), State.tickConfig_tick_of_running hactive, fun hlo hhi hsrc hport => ?_⟩
    rw [State.tickConfig_of_running hactive hlo hhi hsrc hport]
    exact State.respond_answered hs hm.outstanding (by decide) _
  · obtain ⟨-, -, hcount⟩ | ⟨-, hcount⟩ | hreset | ⟨rfl, -⟩ := exec_clock_cases h
    · simp [hcount]
    · simp [hcount]
    · obtain h | h | h | ⟨f, b, x, h⟩ | h := hreset <;> simp [h]
    · exact .inl rfl
  · obtain ⟨hp, f, b, x, rfl⟩ | ⟨hp, rfl | rfl | ⟨rfl, hlow, hcold⟩ | ⟨rfl, hout, hreq, htrip⟩⟩ := h
    · exact exec_pwrOkRise_count hp f b x
    · exact exec_pwrOkFall_count hp
    · exact exec_referenceLoss_system_count hp
    · exact exec_perstAssert_count hp hlow hcold
    · exact exec_warmResetEntry_count hp hout hreq htrip

end Sys2Proof.Machine
end

section
/-! PROOFS. The governor's estimates (R584, R588): the current that an estimate enters for a frond or for a tuft's units, what the
estimate leaves unchanged, the draw of a compute rail, and O10. -/

namespace Sys2Proof.Machine

variable {s : State} {tuft : Bool} {ix a : Nat}

/-! ### The rates and the cap -/

/-- Where an estimate enters the current of a frond, or of a tuft's units. -/
def currentKey (tuft : Bool) (ix : Nat) : Nat := if tuft then 128 + ix else ix

/-- The largest rise between two estimates, in mA (R588). -/
def maxRise (tuft : Bool) : Nat := if tuft then 650 else 700

/-- The largest fall between two estimates, in mA (R588). -/
def maxFall (tuft : Bool) : Nat := if tuft then 390 else 420

/-- The cap of the current, in mA (R584). -/
def currentCap (tuft : Bool) : Nat := if tuft then 11000 else 22000

/-- The current that follows `c` when work and hold level call for `need`. -/
def limitedCurrent (tuft : Bool) (c need : Nat) : Nat :=
  min (currentCap tuft) (min (c + maxRise tuft) (max (c - maxFall tuft) need))

theorem limitedCurrent_le_cap (c need : Nat) : limitedCurrent tuft c need ≤ currentCap tuft :=
  Nat.min_le_left ..

theorem limitedCurrent_le_rise (c need : Nat) : limitedCurrent tuft c need ≤ c + maxRise tuft :=
  Nat.le_trans (Nat.min_le_right ..) (Nat.min_le_left ..)

/-- A current falls no faster than its rate, unless the cap lies lower still. -/
theorem fall_le_limitedCurrent (c need : Nat) : min (currentCap tuft) (c - maxFall tuft) ≤ limitedCurrent tuft c need := by
  unfold limitedCurrent
  omega

/-! ### What an estimate does -/

/-- The current that an activity and the level to keep call for: the larger of the two (R588, R593). -/
def State.neededCurrent (s : State) (tuft : Bool) (ix a : Nat) : Nat :=
  max (Config.currentOf tuft a)
    (if tuft then 0
      else if s.holdOf ix ≠ 0 then s.holdOf ix
      else if s.frondFree ix then s.targetOf ix
      else match s.ownerOf ix with
        | some p => (s.part p).holdLevel ix
        | none => 0)

/-- The current that an estimate enters. -/
def State.nextCurrent (s : State) (tuft : Bool) (ix a : Nat) : Nat :=
  limitedCurrent tuft (s.currentOf (currentKey tuft ix)) (s.neededCurrent tuft ix a)

/-- All that an estimate does, whether it withholds work, meets it or fills up with ballast: it enters one current, and outside
the power block it writes registers and draws free numbers only. -/
theorem State.estimate_effect (s : State) (tuft : Bool) (ix a : Nat) :
    (s.estimate tuft ix a).power.current =
      sput (fun _ => 0) s.power.current (currentKey tuft ix) (s.nextCurrent tuft ix a) ∧
    { s.estimate tuft ix a with power := s.power, regs := s.regs, freeCtr := s.freeCtr } = s := by
  generalize hc : s.nextCurrent tuft ix a = c
  simp only [State.nextCurrent, State.neededCurrent, limitedCurrent, currentCap, maxRise, maxFall, currentKey] at hc
  cases tuft with
  | true =>
    simp only [if_true] at hc
    simp only [State.estimate, hc, Bool.not_true, Bool.false_and, Bool.false_eq_true, if_true, if_false]
    split <;> exact ⟨rfl, rfl⟩
  | false =>
    cases hown : s.ownerOf ix
    all_goals
      simp only [hown, Bool.false_eq_true, if_false] at hc
      simp only [State.estimate, hown, hc, Bool.not_false, Bool.true_and, Bool.false_eq_true, if_false, decide_eq_true_eq]
      obtain withheld | met | filled := Nat.lt_trichotomy c (Config.currentOf false a)
      · simp only [withheld, Nat.lt_asymm withheld, if_true, if_false]
        exact ⟨rfl, rfl⟩
      · simp only [met, Nat.lt_irrefl, if_false]
        exact ⟨rfl, trivial⟩
      · simp only [filled, Nat.lt_asymm filled, if_true, if_false]
        exact ⟨rfl, rfl⟩

theorem State.currentOf_estimate (hs : s.Canonical) (j : Nat) :
    (s.estimate tuft ix a).currentOf j = if j = currentKey tuft ix then s.nextCurrent tuft ix a else s.currentOf j := by
  unfold State.currentOf
  rw [(s.estimate_effect tuft ix a).1, sget_sput _ _ _ hs.current]

theorem exec_governorEstimate_of_lt (h : ix < if tuft then 16 else 128) :
    exec (.governorEstimate tuft ix a) s = .next (s.estimate tuft ix a) :=
  onUnit_next.2 ⟨decide_eq_true h, rfl⟩

/-! ### The draw of a compute rail -/

theorem sum_map_range_le {cap : Nat} (n : Nat) (f : Nat → Nat) (h : ∀ i, i < n → f i ≤ cap) :
    ((List.range n).map f).sum ≤ n * cap := by
  induction n with
  | zero => simp only [List.range_zero, List.map_nil, List.sum_nil, Nat.zero_mul, Nat.le_refl]
  | succ n ih =>
    have hinit := ih fun i hi => h i (Nat.lt_succ_of_lt hi)
    have hlast := h n (Nat.lt_succ_self n)
    simp only [List.range_succ, List.map_append, List.map_cons, List.map_nil, List.sum_append, List.sum_cons, List.sum_nil,
      Nat.succ_mul]
    omega

/-- R584: sixty-four fronds and eight tufts' units within their caps. -/
theorem State.railDraw_le {h : Nat} (hh : h < 2) (hf : ∀ f, f < 128 → s.currentOf f ≤ 22000)
    (hu : ∀ u, u < 16 → s.currentOf (128 + u) ≤ 11000) :
    ((List.range 64).map fun i => s.currentOf (64 * h + i)).sum +
      ((List.range 8).map fun i => s.currentOf (128 + 8 * h + i)).sum ≤ 1496000 := by
  have hfronds := sum_map_range_le 64 (fun i => s.currentOf (64 * h + i)) fun i hi => hf _ (by omega)
  have hunits := sum_map_range_le 8 (fun i => s.currentOf (128 + 8 * h + i)) fun i hi => by
    rw [Nat.add_assoc]
    exact hu _ (by omega)
  exact Nat.add_le_add hfronds hunits

/-! ### The obligation -/

/-- Settles O10: rise, fall and cap by the bounds of a limited current, the other currents by the laws of the sparse maps, the
rest of the state by the frame of an estimate, and the rail by its sum. -/
theorem governorKeepsItsRatesAndCaps : Obligations.GovernorKeepsItsRatesAndCaps := by
  refine ⟨fun tuft ix a s hs hix => ⟨_, exec_governorEstimate_of_lt hix, ?_, (s.estimate_effect tuft ix a).2⟩,
    fun s h hh => s.railDraw_le hh⟩
  have hown := (State.currentOf_estimate (a := a) hs (currentKey tuft ix)).trans (if_pos rfl)
  refine ⟨?_, ?_, ?_, fun j hj => (State.currentOf_estimate hs j).trans (if_neg hj)⟩
  · exact Nat.le_trans (Nat.le_of_eq hown) (limitedCurrent_le_cap ..)
  · exact Nat.le_trans (Nat.le_of_eq hown) (limitedCurrent_le_rise ..)
  · exact Nat.le_trans (fall_le_limitedCurrent ..) (Nat.le_of_eq hown.symm)

end Sys2Proof.Machine
end
